-- ==== Sys2Proof/Word.lean ====
section
/-! DEFINITION. The word types of the device: bytes, 64-bit register words and addresses (R9, R60). -/

namespace Sys2Proof

/-- A byte of memory, of a flit or of a message. -/
abbrev Byte := BitVec 8
/-- A 64-bit register, device-structure word or shared virtual address. -/
abbrev Word := BitVec 64
/-- A 48-bit device address (R2) as a thread's PC holds it. -/
abbrev Addr := BitVec 48

end Sys2Proof
end

