-- ==== Sys2Proof/Syntax.lean ====
section
/-! DEFINITION. The commands of the block: one constructor of `Instr` for each row of the table of operations and events
(spec/opcode_table.json), with the operands the row's rule gives it. The rows name events (an edge, an arriving message, a
write of a register) and the issue of one Veruk instruction by one thread; a command carries what the outside supplies. -/

namespace Sys2Proof

/-- Thread `t = 4n + k` of the device (R18, R51). -/
abbrev Thr := Fin 48
abbrev SpindleId := Fin 12
abbrev StackId := Fin 24
abbrev EngineId := Fin 16
abbrev QueueId := Fin 4
abbrev PortId := Fin 16
abbrev SlotId := Fin 64
abbrev TileId := Fin 4
abbrev Reg6 := BitVec 6
abbrev VReg := BitVec 5

/-- Who makes an access to a register or to memory (R105, R107): the host has the rights of Open supervisor. -/
inductive Agent where
  | host
  | thread (t : Thr)
  | mc
  deriving DecidableEq, Repr

/-- A physical event that strikes a store before the step that reads it (R303, R312, R339, R340, R570). -/
inductive Upset where
  /-- An error in the pan or session-table word at device address `a`; `double` when the code cannot correct it. -/
  | word (a : Nat) (double : Bool)
  /-- An error in the HBM codeword with storage key `k`. -/
  | codeword (k : Nat) (double : Bool)
  /-- A parity error in way `way` of set `set` of an L1 cache: of its tag, or of its data. -/
  | l1 (sp : SpindleId) (isData : Bool) (set : Fin 256) (way : Fin 4) (tag : Bool)
  /-- A parity error in entry number `i`, oldest first, of a write-combining buffer. -/
  | wcb (st : StackId) (i : Nat)
  /-- A parity error in a range entry of the translation store. -/
  | rtt (i : Nat)
  deriving DecidableEq, Repr

/-- The issue of one instruction by thread `thr` (R51). `more` says that a second instruction follows in the same issue
group, so that this one stands in slot A (R57). DESIGN CHOICE: assumption 21. -/
structure Issue where
  thr : Thr
  more : Bool
  deriving DecidableEq, Repr

/-- The issue of a vector instruction; `stop` is the group boundary at which R221 stops it, if one does. -/
structure VIssue where
  is : Issue
  stop : Option Nat
  deriving DecidableEq, Repr

/-- A 14-bit immediate, or the 40-bit immediate of the prefixed form (R88, R90). -/
inductive Imm14 where
  | short (i : BitVec 14)
  | long (ext : BitVec 26) (i : BitVec 14)
  deriving DecidableEq, Repr

/-- A 20-bit immediate, or the 46-bit immediate of the prefixed form (R88, R90). -/
inductive Imm20 where
  | short (i : BitVec 20)
  | long (ext : BitVec 26) (i : BitVec 20)
  deriving DecidableEq, Repr

/-- The OP group's one-cycle operations (R91), class INT with latency 4. -/
inductive AluOp where
  | add | sub | and | or | xor | andn | sll | srl | sra | rol | ror | slt | sltu | min | max | minu | maxu
  | clz | ctz | popc | rev8
  deriving DecidableEq, Repr

inductive MulOp where
  | mul | mulh | mulhu | mulhsu
  deriving DecidableEq, Repr

inductive DivOp where
  | div | divu | rem | remu
  deriving DecidableEq, Repr

inductive ImmOp where
  | addi | andi | ori | xori | slti | sltiu
  deriving DecidableEq, Repr

inductive ShiftOp where
  | slli | srli | srai | rori
  deriving DecidableEq, Repr

/-- ld.b, ld.h, ld.w, ld.d, ld.bu, ld.hu, ld.wu (R65). -/
inductive LdKind where
  | b | h | w | d | bu | hu | wu
  deriving DecidableEq, Repr

inductive StKind where
  | b | h | w | d
  deriving DecidableEq, Repr

inductive AtomOp where
  | swap | add | and | or | xor | min | max | minu | maxu | cas
  deriving DecidableEq, Repr

inductive BrCond where
  | eq | ne | lt | ge | ltu | geu
  deriving DecidableEq, Repr

/-- The FP group without division and square root (R94). -/
inductive FpOp where
  | fadd | fsub | fmul | fmin | fmax | fsgnj | fsgnjn | fsgnjx | feq | flt | fle | fclass
  deriving DecidableEq, Repr

/-- The fused forms of majors 0x23 and 0x24 (R89). -/
inductive FmaOp where
  | fmadd | fmsub | fnmsub | fnmadd
  deriving DecidableEq, Repr

/-- The FCVT group's conversions 0 to 19 (R94). -/
abbrev CvtCode := Fin 20

/-- A beat marker's payload (R41). Times are in 1/8 ns but for `next`, in ns. -/
structure Marker where
  txTime : Word
  number : Word
  next : Word
  echoRx : Word
  echoSeq : BitVec 16
  seq : BitVec 16
  srcId : BitVec 12
  stratum : BitVec 4
  edge : Bool
  grant : Bool
  holdover : Bool
  deriving DecidableEq, Repr

/-- What FEC made of the codeword pair in which a flit came (R422, R424, R461): for the first flit of a pair the symbols corrected, or
none when the pair could not be corrected; the other flits share that. -/
inductive PairFec where
  | first (corrected : Option (BitVec 16))
  | later
  deriving DecidableEq, Repr

/-- A message of the fabric: its header (R441) and its data. `marks` lists the flits of the message, first 0, that carry
DEF (R446). For a message with SEALED set the data is the ciphertext and `tag` its GCM tag (R560). -/
structure Msg where
  kind : BitVec 4
  sealed : Bool
  sv : Bool
  reason : Byte
  chan : BitVec 16
  dst : BitVec 12
  src : BitVec 12
  stamp : BitVec 16
  epoch : BitVec 16
  len : BitVec 17
  xid : BitVec 32
  hops : Byte
  keyid : BitVec 1
  nonce : Word
  tag : BitVec 128
  data : List Byte
  marks : List Nat
  deriving DecidableEq, Repr

/-- One translation of an ATS completion (R367): `size` bytes at `va` onto `pa`. -/
structure Translation where
  va : Nat
  size : Nat
  pa : Nat
  r : Bool
  w : Bool
  untr : Bool
  ns : Bool
  global : Bool
  deriving DecidableEq, Repr

/-- Result of a PCIe completion to a device read or atomic (R361). -/
inductive CplStatus where
  | success | unsupported | abort
  deriving DecidableEq, Repr

/-- Result of a Page Request Group Response (R378, R379). -/
inductive PrgCode where
  | success | invalid | failure
  deriving DecidableEq, Repr

/-- A residue mismatch that strikes a cell during a mop (R262, R263): the tile row and column and the K group. -/
structure Mismatch where
  tile : TileId
  row : Nat
  col : Nat
  kgrp : Nat
  deriving DecidableEq, Repr

/-- A fault report as a unit hands it to the MC (R574). -/
structure Report where
  dev : BitVec 12
  kind : BitVec 4
  index : BitVec 12
  epoch : BitVec 16
  time : Word
  cls : BitVec 2
  repair : Bool
  code : Byte
  reporter : BitVec 12
  detail : Word
  deriving DecidableEq, Repr

/-- The commands. A comment names the row's rule where it is not the chapter's obvious one. -/
inductive Instr where
  -- the beat (01_beat.md)
  | beatEdge
  | guardInstant (acks : BitVec 4)
  | decisionInstant
  | stretchReq (port : PortId) (beat : Word) (dev : BitVec 12) (count : BitVec 16)
  | beatMarker (port : PortId) (m : Marker) (rx : Word)
  | markerInterval
  | holdover
  | beatInEdge (time8 : Word)
  | setRun
  | clearRun
  | sreq
  | stagedWrite (who : Agent) (off : Nat) (size8 : Bool) (v : Word)
  | arm
  | discard
  | cancel
  | registerWrite (who : Agent) (off : Nat) (size8 : Bool) (v : Word)
  -- the control core (02, 03)
  | bdone (is : Issue)
  | aluOp (is : Issue) (op : AluOp) (w : Bool) (rd ra rb : Reg6)
  | mul (is : Issue) (op : MulOp) (w : Bool) (rd ra rb : Reg6)
  | div (is : Issue) (op : DivOp) (w : Bool) (rd ra rb : Reg6)
  | aluImmediate (is : Issue) (op : ImmOp) (rd ra : Reg6) (imm : Imm14)
  | shiftImmediate (is : Issue) (op : ShiftOp) (w : Bool) (rd ra : Reg6) (amt : BitVec 6)
  | lui (is : Issue) (rd : Reg6) (imm : Imm20)
  | auipc (is : Issue) (rd : Reg6) (imm : Imm20)
  | ld (is : Issue) (k : LdKind) (rd ra : Reg6) (imm : Imm14) (up : List Upset)
  | st (is : Issue) (k : StKind) (rs ra : Reg6) (imm : Imm14) (up : List Upset)
  | atomic (is : Issue) (op : AtomOp) (dbl : Bool) (rd ra rb : Reg6) (up : List Upset)
  | branch (is : Issue) (c : BrCond) (ra rb : Reg6) (off : Imm14)
  | jal (is : Issue) (rd : Reg6) (off : Imm20)
  | jalr (is : Issue) (rd ra : Reg6) (imm : Imm14)
  | loop (is : Issue) (lvl : Fin 2) (ra : Reg6) (body : BitVec 14)
  | loopi (is : Issue) (lvl : Fin 2) (body : BitVec 13) (count : BitVec 12) (ext : Option (BitVec 20))
  | fpOp (is : Issue) (op : FpOp) (dbl : Bool) (rm : BitVec 3) (rd ra rb : Reg6)
  | fdivFsqrt (is : Issue) (sqrt dbl : Bool) (rm : BitVec 3) (rd ra rb : Reg6)
  | fmadd (is : Issue) (op : FmaOp) (dbl : Bool) (rd ra rb rc : Reg6) (rm : Option (BitVec 3))
  | fcvt (is : Issue) (c : CvtCode) (rm : BitVec 3) (rd ra : Reg6)
  | crr (is : Issue) (rd : Reg6) (num : BitVec 12)
  | crw (is : Issue) (rd ra : Reg6) (num : BitVec 12)
  | crs (is : Issue) (rd ra : Reg6) (num : BitVec 12)
  | crc (is : Issue) (rd ra : Reg6) (num : BitVec 12)
  | swake (is : Issue) (rd ra : Reg6)
  | csync (is : Issue)
  | isync (is : Issue)
  | tbegin (is : Issue) (rd : Reg6) (off : Imm20)
  | tcommit (is : Issue)
  | tabort (is : Issue) (code : Byte)
  | txTimeAbort (t : Thr)
  | gcall (is : Issue) (gate : Byte)
  | gret (is : Issue)
  | tret (is : Issue)
  | wfi (is : Issue)
  | brk (is : Issue) (code : Byte)
  | fence (is : Issue) (set : BitVec 6)
  | icinvL (is : Issue) (ra : Reg6) (imm : BitVec 14)
  | icinvAll (is : Issue)
  | dcinvL (is : Issue) (ra : Reg6) (imm : BitVec 14)
  | dcinvAll (is : Issue)
  | pfD (is : Issue) (ra : Reg6) (imm : BitVec 14)
  | pfI (is : Issue) (ra : Reg6) (imm : BitVec 14)
  | lineFill (sp : SpindleId) (isData : Bool) (line : Nat) (up : List Upset)
  | takeInterrupt (t : Thr)
  | takeBeatOverrun (t : Thr)
  | takeMatrixError (t : Thr)
  | timerInterrupt (t : Thr) (sealed : Bool)
  | tdoor (who : Agent) (t : Thr) (v : BitVec 4)
  | trouteWrite (who : Agent) (s : Fin 256) (v : Word)
  | start (t : Thr)
  | halt (t : Thr)
  -- the vector unit (05)
  | vcfg (is : Issue) (rd ra : Reg6) (span : BitVec 2) (etype : BitVec 4) (mpol tpol : Bool)
  | vvOp (vi : VIssue) (f : BitVec 4) (mg ty3 : BitVec 3) (vd va vb : VReg)
  | vsOp (vi : VIssue) (f : BitVec 4) (mg ty3 : BitVec 3) (vd va : VReg) (gb : Reg6)
  | vfOp (vi : VIssue) (op : BitVec 3) (mg : BitVec 3) (vd va vb vc : VReg)
  | vcmp (is : Issue) (f : Fin 7) (mg : BitVec 3) (ty : BitVec 4) (s : Bool) (b : Reg6) (va : VReg) (md : BitVec 3)
  | maskOp (is : Issue) (f : Fin 5) (md ma mb : BitVec 3)
  | mfromv (is : Issue) (md : BitVec 3) (va : VReg)
  | mtov (is : Issue) (vd : VReg) (ma : BitVec 3)
  | vcvt (vi : VIssue) (mg : BitVec 3) (dty sty : BitVec 4) (vd va : VReg)
  | vsqrt (vi : VIssue) (mg : BitVec 3) (ty : BitVec 4) (vd va : VReg)
  | vabs (vi : VIssue) (mg : BitVec 3) (ty : BitVec 4) (vd va : VReg)
  | vneg (vi : VIssue) (mg : BitVec 3) (ty : BitVec 4) (vd va : VReg)
  | vexp2 (vi : VIssue) (mg : BitVec 3) (vd va : VReg)
  | vlog2 (vi : VIssue) (mg : BitVec 3) (vd va : VReg)
  | vkey (vi : VIssue) (mg : BitVec 3) (vd va : VReg)
  | vmv (vi : VIssue) (mg : BitVec 3) (ty : BitVec 4) (vd va : VReg)
  | vplyEncf8 (vi : VIssue) (mg : BitVec 3) (dty sty : BitVec 4) (vd va : VReg)
  | vplyEnci4 (vi : VIssue) (mg : BitVec 3) (dty sty : BitVec 4) (vd va : VReg)
  | vplyDecf8 (vi : VIssue) (mg : BitVec 3) (dty sty : BitVec 4) (vd va : VReg)
  | vplyDeci4 (vi : VIssue) (mg : BitVec 3) (dty sty : BitVec 4) (vd va : VReg)
  | vplyEncw16 (vi : VIssue) (vd va : VReg) (gb : Reg6)
  | vplyDecw16 (vi : VIssue) (vd va : VReg) (gb : Reg6)
  | vred (is : Issue) (f : Fin 9) (mg : BitVec 3) (ty : BitVec 4) (va : VReg) (gd : Reg6)
  | mred (is : Issue) (mg : BitVec 3) (ma : BitVec 3) (gd : Reg6)
  | vload (vi : VIssue) (mode : Fin 3) (mg : BitVec 3) (w : BitVec 2) (b ga : Reg6) (vd : VReg) (up : List Upset)
  | vstore (vi : VIssue) (mode : Fin 3) (mg : BitVec 3) (w : BitVec 2) (b ga : Reg6) (vd : VReg) (up : List Upset)
  | vchain (vi : VIssue) (mg : BitVec 3) (ga : Reg6) (up : List Upset)
  | vbcast (vi : VIssue) (ty : BitVec 4) (gb : Reg6) (vd : VReg)
  | vmvx (is : Issue) (ty : BitVec 4) (gb : Reg6) (va : VReg) (gd : Reg6)
  | vcompress (is : Issue) (ty : BitVec 4) (ma : BitVec 3) (vd va : VReg)
  | vperm (is : Issue) (ty : BitVec 4) (vd va vb : VReg)
  | vslidedn (is : Issue) (ty : BitVec 4) (gb : Reg6) (vd va : VReg)
  | vslideup (is : Issue) (ty : BitVec 4) (gb : Reg6) (vd va : VReg)
  | vscanAdd (is : Issue) (ty : BitVec 4) (mg : BitVec 3) (vd va : VReg)
  | vrand (vi : VIssue) (f32 : Bool) (ga gb : Reg6) (vd : VReg)
  | vbucket (is : Issue) (mg : BitVec 3) (gb : Reg6) (vd va : VReg)
  -- the matrix unit and the drain paths (06, 07)
  | mop (is : Issue) (afmt wfmt : BitVec 4) (shape : BitVec 2) (pair wide : Bool) (t : TileId) (ga gb : Reg6)
  | mopAcc (is : Issue) (afmt wfmt : BitVec 4) (shape : BitVec 2) (pair wide : Bool) (t : TileId) (ga gb : Reg6)
  | mopStart (sp : SpindleId) (arr : Fin 2) (up : List Upset) (mis : List Mismatch)
  | mopComplete (sp : SpindleId) (arr : Fin 2)
  | mfill (is : Issue) (a s : Bool) (ga gb : Reg6)
  | fillComplete (sp : SpindleId)
  | mtake (is : Issue) (t : TileId) (gd : Reg6)
  | mrel (is : Issue) (t : TileId)
  | frel (sp : SpindleId) (t : TileId)
  | mdrain (is : Issue) (t : TileId) (ga : Reg6)
  | drainStart (sp : SpindleId) (t : TileId) (up : List Upset)
  | drainComplete (sp : SpindleId) (t : TileId)
  | mwait (is : Issue) (t : TileId) (c : Bool)
  | mstat (is : Issue) (t : TileId) (gd : Reg6)
  -- pan and caches (08)
  | panScrub (sp : SpindleId) (up : List Upset)
  | l1CtlWrite (who : Agent) (sp : SpindleId) (isData size8 hi : Bool) (v : Word)
  -- stacked memory (09)
  | hbmWrite (who : Agent) (addr : Nat) (data : List Byte) (up : List Upset)
  | hbmRead (who : Agent) (addr len : Nat) (up : List Upset)
  | hbmAtomic (who : Agent) (addr : Nat) (op : AtomOp) (dbl : Bool) (operand compare : Word) (up : List Upset)
  | wcbAgeFlush (s : StackId) (up : List Upset)
  | flush (s : StackId) (up : List Upset)
  | hbmScrub (s : StackId) (up : List Upset)
  | retire (s : StackId) (pch : BitVec 6) (sid bg ba : BitVec 2) (row : BitVec 15)
  | retireDone (s : StackId)
  | spare (s : StackId) (pch : BitVec 6)
  | spareDone (s : StackId)
  | pcfence (s : StackId) (pch : BitVec 6)
  | stackTempSample (s : StackId) (bd : List (BitVec 10)) (dr : List (BitVec 10))
  | resume (s : StackId)
  | marginStart (s : StackId) (v : Word)
  | marginDone (s : StackId) (errBursts : Nat) (lanes : BitVec 32)
  -- translation (10)
  | atsTranslationCompletion (req : Nat) (ts : List Translation) (up : List Upset)
  | atsInvalidationRequest (itag : BitVec 5) (va size : Nat) (pasid : Option (BitVec 20)) (global : Bool)
  | invalidationCompletion (itag : BitVec 5)
  | translationStoreWrite (who : Agent) (addr : Nat) (data : List Byte)
  | flushall
  | rttDisable
  | batchWindowExpiry
  | pageRequestGroupResponse (idx : BitVec 9) (code : PrgCode)
  | priTimeout (batch : BitVec 32)
  | fqHeadWrite (v : BitVec 32)
  | priFailedClear
  | hostReadCompletion (tag : Nat) (st : CplStatus) (data : List Byte) (poisoned : Bool)
  | completionTimeout (tag : Nat)
  -- Sluice (11)
  | qtailWrite (who : Agent) (e : EngineId) (q : QueueId) (v : BitVec 32)
  | descriptorFetch (e : EngineId) (q : QueueId) (up : List Upset)
  | sluiceCopy (e : EngineId) (q : QueueId) (up : List Upset)
  | sluiceRunComplete (e : EngineId) (q : QueueId)
  | sluiceNop (e : EngineId) (q : QueueId)
  | sluiceLoop (e : EngineId) (q : QueueId)
  | sluiceWait (e : EngineId) (q : QueueId)
  | sluiceSignal (e : EngineId) (q : QueueId)
  | qctlResume (who : Agent) (e : EngineId) (q : QueueId)
  | qctlRetry (who : Agent) (e : EngineId) (q : QueueId)
  | qctlAbort (who : Agent) (e : EngineId) (q : QueueId)
  | queueDisable (who : Agent) (e : EngineId) (q : QueueId)
  -- Hank (12)
  | put (m : Msg)
  | get (m : Msg)
  | getwaitExpiry (chan : BitVec 16)
  | getdata (m : Msg)
  | ack (m : Msg)
  | nack (m : Msg)
  | messageTimeout (xid : BitVec 32)
  | openChannel (who : Agent) (chan : BitVec 16)
  | closeChannel (who : Agent) (chan : BitVec 16)
  | query (who : Agent) (chan : BitVec 16)
  | consume (who : Agent) (chan : BitVec 16) (count : BitVec 21)
  | flitReceive (p : PortId) (flit : List Byte) (fec : PairFec) (rx : Word)
  | replayTimeout (p : PortId)
  | portEnable (p : PortId)
  | portDisable (p : PortId)
  | retrain (p : PortId)
  | test (p : PortId) (errs : Nat)
  | trainingComplete (p : PortId) (peer : BitVec 12) (peerPort : BitVec 4) (peerBond : Bool)
  | trainfail (p : PortId)
  | signalLoss (p : PortId)
  -- Reel (13)
  | reelGo (who : Agent) (s : SlotId)
  | reelAbort (who : Agent) (s : SlotId)
  | grant (m : Msg)
  | data (m : Msg)
  | prepass (m : Msg)
  | bkreq (m : Msg)
  | takeover (m : Msg)
  | none (m : Msg)
  | abort (m : Msg)
  | retreq (m : Msg)
  | grantDeadline (s : SlotId) (receiver : Nat)
  | hopDeadline (s : SlotId) (hop : Nat)
  | bkwaitExpiry (s : SlotId) (hop : Nat)
  -- sessions (14)
  | scheduleRead (up : List Upset)
  | schtailWrite (v : BitVec 32)
  | activate (slot : BitVec 12) (sid : BitVec 16)
  | spill (slot : BitVec 12)
  | ldone (lanes : BitVec 24)
  -- host interface and the resident service (15, 19)
  /-- The host sets Bus Master Enable; its other settings in configuration space stand beside: ATS Enable, PRI Enable, the
  Outstanding Page Request Allocation and log2 of the BAR2 size. -/
  | busMasterEnableSet (ats pri : Bool) (alloc : BitVec 32) (barLog2 : Nat)
  | msixUnmask (vec : Option (Fin 2048))
  | bar0Access (write : Bool) (off size : Nat) (v : Word)
  | bar2Read (off len : Nat) (up : List Upset)
  | bar2Write (off : Nat) (data : List Byte) (poisoned : Bool) (up : List Upset)
  | pwrgdRise (compat : Bool) (bootSel : BitVec 2)
  /-- `imageA` and `imageB` are what QSPI flash holds in its slots; an empty one leaves the slot as it is. -/
  | perstDeassert (imageA imageB : List Byte)
  | selftestEnd (failStacks : BitVec 24) (failPch : List (StackId × BitVec 6)) (failSpindles : BitVec 12) (mcOk : Bool) (ms : BitVec 16)
  | doorbell (seq : BitVec 16)
  | memtest (fails : List Nat) (corrected : Nat)
  | gemm (elapsed : Word) (mismatches : Nat)
  | linktest (errs : List Nat)
  | mboxAbort (done : Nat)
  -- security (16)
  | loadSealed (who : Agent) (arg : Byte)
  | teardown (who : Agent)
  | addRegion (who : Agent) (i : Byte)
  | removeRegion (who : Agent) (i : Byte)
  | advance (who : Agent) (ctr : Byte)
  | addPan (who : Agent) (n : Byte)
  | removePan (who : Agent) (n : Byte)
  | tkeyWrite (who : Agent) (k : Fin 16) (i : Fin 4) (v : Word)
  | spdmRequest (session : Option (BitVec 32)) (req : List Byte)
  | setTkey (session : Option (BitVec 32)) (slot : Byte) (fixed : BitVec 32) (key : BitVec 256)
  | setFkey (session : Option (BitVec 32)) (slot : Byte) (fixed : BitVec 32) (key : BitVec 256)
  | debugUnlock (pubkey : List Byte) (sigR sigS : List Byte)
  -- reliability (17)
  | faultReport (r : Report)
  | mergeWindowExpiry (e : Fin 256)
  | fmfree (e : Fin 256)
  | errheadWrite (v : BitVec 32)
  | kick (who : Agent)
  | fenceSpindle (arg : BitVec 12) (scope persist : Bool)
  | unfenceSpindle (arg : BitVec 12)
  | stageFw (arg : BitVec 12)
  | weftPacketFailure (link : Nat) (retries : Nat)
  -- power, clocks, thermal limits and monitors (18)
  | dieTempSample (temps : List (Option (BitVec 10)))
  | energyUpdate (uj : List Nat) (amps : List Nat)
  | monitorSample (mv : List (BitVec 16)) (proc : List (BitVec 24))
  -- rows that stand at the end of the table
  | queueEnable (who : Agent) (e : EngineId) (q : QueueId)
  /-- The host sets MSI-X Enable, with Function Mask as `mask`. -/
  | msixEnableSet (mask : Bool)
  | repairCommandEnd (ok : Bool)
  | linkTraining (speed : BitVec 3) (width : BitVec 5)
  | d3hotTransition (d3 : Bool)
  | illegalInstruction (is : Issue) (w : BitVec 32) (w2 : Option (BitVec 32))
  | instructionFetchFault (is : Issue)
  -- commands without operands of the last chapters; they stand here because compiled code gives a constructor that has fields one of
  -- the first 245 numbers
  | hotReset
  | busMasterEnableClear
  | pwrgdFall
  | perstAssert
  | identify
  | mailboxCopy
  | fill
  | check
  | bootload
  | commandEnd
  | watchdogExpiry
  | clearlog
  | swapFallback
  | newFirmwareReady
  deriving DecidableEq, Repr

end Sys2Proof
end

