-- ==== Sys2Proof/Decode.lean ====
section
/-! DEFINITION. The decoder of the table's words, which give no bits, and that of the Veruk instruction words (R88–R98, R229, R248, R266):
what instruction a word spells, and which words are none. -/

namespace Sys2Proof

/-- The command that a word spells by the table's bits: none, since no row gives bits. -/
def decodeTableWord (_nbits _w : Nat) : Option Instr := none

/-! ### Veruk words -/

/-- The number in bits [hi:lo] of an instruction word. -/
def wordBits (w hi lo : Nat) : Nat := w / 2 ^ lo % 2 ^ (hi + 1 - lo)

def wordReg (w lo : Nat) : Reg6 := BitVec.ofNat 6 (w / 2 ^ lo)
def wordVReg (w lo : Nat) : VReg := BitVec.ofNat 5 (w / 2 ^ lo)
def wordFlag (w b : Nat) : Bool := Nat.testBit w b
def wordMask (w lo : Nat) : BitVec 3 := BitVec.ofNat 3 (w / 2 ^ lo)
def wordTy (w lo : Nat) : BitVec 4 := BitVec.ofNat 4 (w / 2 ^ lo)

/-- A word whose unassigned bits `zero` are zero spells `i`. -/
def zeroed (zero : Nat) (i : Instr) : Option Instr := if zero = 0 then some i else none

/-- The IMM14 of a word, with the EXT26 of its prefix. -/
def wordImm14 (ext : Option (BitVec 26)) (w : Nat) : Imm14 :=
  match ext with
  | none => .short (BitVec.ofNat 14 (w / 2 ^ 18))
  | some e => .long e (BitVec.ofNat 14 (w / 2 ^ 18))

/-- The IMM20 of a word, with the EXT26 of its prefix. -/
def wordImm20 (ext : Option (BitVec 26)) (w : Nat) : Imm20 :=
  match ext with
  | none => .short (BitVec.ofNat 20 (w / 2 ^ 12))
  | some e => .long e (BitVec.ofNat 20 (w / 2 ^ 12))

/-- FUNC [6:0] of the OP group (R91), but for the multiplications and divisions. -/
def aluOps : List (Nat × AluOp) :=
  [(0x00, .add), (0x01, .sub), (0x02, .and), (0x03, .or), (0x04, .xor), (0x05, .andn), (0x06, .sll), (0x07, .srl), (0x08, .sra), (0x09, .rol),
   (0x0A, .ror), (0x0B, .slt), (0x0C, .sltu), (0x0D, .min), (0x0E, .max), (0x0F, .minu), (0x10, .maxu), (0x19, .clz), (0x1A, .ctz),
   (0x1B, .popc), (0x1C, .rev8)]
def mulOps : List (Nat × MulOp) := [(0x11, .mul), (0x12, .mulh), (0x13, .mulhu), (0x14, .mulhsu)]
def divOps : List (Nat × DivOp) := [(0x15, .div), (0x16, .divu), (0x17, .rem), (0x18, .remu)]

/-- The OP group (R91). -/
def decodeOp (is : Issue) (w : Nat) : Option Instr :=
  let f := wordBits w 30 24
  let W := wordFlag w 31
  match aluOps.lookup f, mulOps.lookup f, divOps.lookup f with
  | some op, _, _ => some (.aluOp is op W (wordReg w 6) (wordReg w 12) (wordReg w 18))
  | _, some op, _ => some (.mul is op W (wordReg w 6) (wordReg w 12) (wordReg w 18))
  | _, _, some op => some (.div is op W (wordReg w 6) (wordReg w 12) (wordReg w 18))
  | none, none, none => none

/-- The shifts by an immediate (R89): kind in IMM14 [8:6], W in [9]. -/
def decodeShift (is : Issue) (w : Nat) : Option Instr :=
  match [ShiftOp.slli, .srli, .srai, .rori][wordBits w 26 24]? with
  | some op => zeroed (wordBits w 31 28) (.shiftImmediate is op (wordFlag w 27) (wordReg w 6) (wordReg w 12) (BitVec.ofNat 6 (w / 2 ^ 18)))
  | none => none

def atomOps : List AtomOp := [.swap, .add, .and, .or, .xor, .min, .max, .minu, .maxu, .cas]

/-- The ATOM group (R95). -/
def decodeAtom (is : Issue) (w : Nat) : Option Instr :=
  match atomOps[wordBits w 27 24]? with
  | some op => zeroed (wordBits w 31 29) (.atomic is op (wordFlag w 28) (wordReg w 6) (wordReg w 12) (wordReg w 18) [])
  | none => none

/-- Values of the FP group but for division and square root (R94). -/
def fpOps : List (Nat × FpOp) :=
  [(0, .fadd), (1, .fsub), (2, .fmul), (5, .fmin), (6, .fmax), (7, .fsgnj), (8, .fsgnjn), (9, .fsgnjx), (10, .feq), (11, .flt), (12, .fle),
   (13, .fclass)]

/-- The FP group (R94). -/
def decodeFp (is : Issue) (w : Nat) : Option Instr :=
  let f := wordBits w 27 24
  let dbl := wordFlag w 28
  let rm : BitVec 3 := BitVec.ofNat 3 (w / 2 ^ 29)
  if f = 3 ∨ f = 4 then some (.fdivFsqrt is (decide (f = 4)) dbl rm (wordReg w 6) (wordReg w 12) (wordReg w 18))
  else (fpOps.lookup f).map (fun op => .fpOp is op dbl rm (wordReg w 6) (wordReg w 12) (wordReg w 18))

def fmaOps : List FmaOp := [.fmadd, .fmsub, .fnmsub, .fnmadd]

/-- Majors 0x23 and 0x24 (R89, R90). -/
def decodeFma (is : Issue) (dbl : Bool) (ext : Option (BitVec 26)) (w : Nat) : Option Instr :=
  match fmaOps[wordBits w 31 30]? with
  | some op =>
    let i (rm : Option (BitVec 3)) : Instr := .fmadd is op dbl (wordReg w 6) (wordReg w 12) (wordReg w 18) (wordReg w 24) rm
    match ext with
    | none => some (i none)
    | some e => zeroed (wordBits e.toNat 25 3) (i (some (BitVec.ofNat 3 e.toNat)))
  | none => none

/-- The FCVT group (R94). -/
def decodeFcvt (is : Issue) (w : Nat) : Option Instr :=
  if h : wordBits w 28 24 < 20 then
    zeroed (wordBits w 23 18) (.fcvt is ⟨wordBits w 28 24, h⟩ (BitVec.ofNat 3 (w / 2 ^ 29)) (wordReg w 6) (wordReg w 12))
  else none

/-- The CR group (R96). -/
def decodeCr (is : Issue) (w : Nat) : Option Instr :=
  let num : BitVec 12 := BitVec.ofNat 12 (w / 2 ^ 18)
  match wordBits w 31 30 with
  | 0 => some (.crr is (wordReg w 6) num)
  | 1 => some (.crw is (wordReg w 6) (wordReg w 12) num)
  | 2 => some (.crs is (wordReg w 6) (wordReg w 12) num)
  | _ => some (.crc is (wordReg w 6) (wordReg w 12) num)

/-- The SYS group (R97): a field that the table does not name is zero. -/
def decodeSys (is : Issue) (w : Nat) : Option Instr :=
  let code : Byte := BitVec.ofNat 8 (w / 2 ^ 12)
  let bare (i : Instr) : Option Instr := zeroed (wordBits w 23 6) i
  let coded (i : Instr) : Option Instr := zeroed (wordBits w 11 6 + wordBits w 23 20) i
  match wordBits w 31 24 with
  | 0x01 => bare (.csync is)
  | 0x02 => bare (.isync is)
  | 0x04 => bare (.bdone is)
  | 0x05 => bare (.tcommit is)
  | 0x06 => coded (.tabort is code)
  | 0x07 => coded (.gcall is code)
  | 0x08 => bare (.gret is)
  | 0x09 => bare (.tret is)
  | 0x0A => bare (.wfi is)
  | 0x0B => coded (.brk is code)
  | 0x10 => zeroed (wordBits w 11 6 + wordBits w 23 18) (.fence is (BitVec.ofNat 6 (w / 2 ^ 12)))
  | _ => none

/-- The CACHE group (R98). -/
def decodeCache (is : Issue) (w : Nat) : Option Instr :=
  let imm : BitVec 14 := BitVec.ofNat 14 (w / 2 ^ 18)
  match wordBits w 11 6 with
  | 0 => some (.icinvL is (wordReg w 12) imm)
  | 1 => some (.icinvAll is)
  | 2 => some (.dcinvL is (wordReg w 12) imm)
  | 3 => some (.dcinvAll is)
  | 4 => some (.pfD is (wordReg w 12) imm)
  | 5 => some (.pfI is (wordReg w 12) imm)
  | _ => none

/-! ### Vector majors (R229) -/

/-- VCMP: compares, mask operations, mfromv and mtov. -/
def decodeVcmp (is : Issue) (w : Nat) : Option Instr :=
  let f := wordBits w 31 28
  let mg := wordBits w 27 25
  let ty := wordBits w 24 21
  let b := wordBits w 20 15
  let va := wordBits w 14 10
  let sc := wordFlag w 9
  let rest := mg + ty + boolNat' sc
  if h : f < 7 then some (.vcmp is ⟨f, h⟩ (wordMask w 25) (wordTy w 21) sc (wordReg w 15) (wordVReg w 10) (wordMask w 6))
  else if h : 8 ≤ f ∧ f < 13 then
    zeroed (rest + va / 8 + b / 8 + (if f = 12 then b else 0)) (.maskOp is ⟨f - 8, by omega⟩ (wordMask w 6) (wordMask w 10) (wordMask w 15))
  else if f = 14 then zeroed (rest + b) (.mfromv is (wordMask w 6) (wordVReg w 10))
  else if f = 15 then zeroed (rest + b) (.mtov is (wordVReg w 10) (wordMask w 6))
  else none
where boolNat' (b : Bool) : Nat := if b then 1 else 0

/-- VUN: FUNC 1 to 7 require STY = DTY, but vkey, which takes f32 to u32; vexp2 and vlog2 are of f32. -/
def decodeVun (is : Issue) (w : Nat) : Option Instr :=
  let vi : VIssue := ⟨is, none⟩
  let mg := wordMask w 24
  let dty := wordTy w 20
  let sty := wordTy w 16
  let va := wordVReg w 11
  let vd := wordVReg w 6
  let same (i : Instr) : Option Instr := if dty = sty then some i else none
  match wordBits w 31 27 with
  | 0 => some (.vcvt vi mg dty sty vd va)
  | 1 => same (.vsqrt vi mg sty vd va)
  | 2 => same (.vabs vi mg sty vd va)
  | 3 => same (.vneg vi mg sty vd va)
  | 4 => if dty = 1 ∧ sty = 1 then some (.vexp2 vi mg vd va) else none
  | 5 => if dty = 1 ∧ sty = 1 then some (.vlog2 vi mg vd va) else none
  | 6 => if dty = 11 ∧ sty = 1 then some (.vkey vi mg vd va) else none
  | 7 => same (.vmv vi mg sty vd va)
  | 8 => some (.vplyEncf8 vi mg dty sty vd va)
  | 9 => some (.vplyEnci4 vi mg dty sty vd va)
  | 10 => some (.vplyDecf8 vi mg dty sty vd va)
  | 11 => some (.vplyDeci4 vi mg dty sty vd va)
  | _ => none

/-- VRED. -/
def decodeVred (is : Issue) (w : Nat) : Option Instr :=
  let f := wordBits w 31 24
  if h : f < 9 then some (.vred is ⟨f, h⟩ (wordMask w 21) (wordTy w 17) (wordVReg w 12) (wordReg w 6))
  else if f = 9 then zeroed (wordBits w 20 17 + wordBits w 16 15) (.mred is (wordMask w 21) (wordMask w 12) (wordReg w 6))
  else none

/-- VMEM. -/
def decodeVmem (is : Issue) (w : Nat) : Option Instr :=
  let vi : VIssue := ⟨is, none⟩
  let mode := wordBits w 29 28
  let mg := wordMask w 25
  let width : BitVec 2 := BitVec.ofNat 2 (w / 2 ^ 23)
  if wordFlag w 31 then none
  else if h : mode < 3 then
    if wordFlag w 30 then some (.vstore vi ⟨mode, h⟩ mg width (wordReg w 17) (wordReg w 11) (wordVReg w 6) [])
    else some (.vload vi ⟨mode, h⟩ mg width (wordReg w 17) (wordReg w 11) (wordVReg w 6) [])
  else zeroed (wordBits w 30 30 + wordBits w 24 17 + wordBits w 10 6) (.vchain vi mg (wordReg w 11) [])

/-- VSPEC. -/
def decodeVspec (is : Issue) (w : Nat) : Option Instr :=
  let vi : VIssue := ⟨is, none⟩
  let ty := wordTy w 22
  let gb := wordReg w 16
  let va := wordVReg w 11
  let vd := wordVReg w 6
  match wordBits w 31 27 with
  | 0 => zeroed (wordBits w 26 26) (.vcfg is (wordReg w 6) (wordReg w 12) (BitVec.ofNat 2 (w / 2 ^ 18)) (wordTy w 20) (wordFlag w 24) (wordFlag w 25))
  | 1 => zeroed (wordBits w 26 26 + wordBits w 15 11) (.vbcast vi ty gb vd)
  | 2 => some (.vmvx is (wordTy w 23) (wordReg w 17) (wordVReg w 12) (wordReg w 6))
  | 3 => zeroed (wordBits w 26 26 + wordBits w 21 19) (.vcompress is ty (wordMask w 16) vd va)
  | 4 => zeroed (wordBits w 26 26 + wordBits w 21 21) (.vperm is ty vd va (wordVReg w 16))
  | 5 => zeroed (wordBits w 26 26) (.vslidedn is ty gb vd va)
  | 6 => zeroed (wordBits w 26 26) (.vslideup is ty gb vd va)
  | 7 => zeroed (wordBits w 26 26 + wordBits w 21 19) (.vscanAdd is ty (wordMask w 16) vd va)
  | 8 => zeroed (wordBits w 26 22) (.vplyEncw16 vi vd va gb)
  | 9 => zeroed (wordBits w 26 22) (.vplyDecw16 vi vd va gb)
  | 10 => zeroed (wordBits w 26 24) (.vrand vi (wordFlag w 23) (wordReg w 11) (wordReg w 17) vd)
  | 11 => zeroed (wordBits w 26 25) (.vbucket is (wordMask w 22) gb vd va)
  | _ => none

/-! ### Matrix majors (R248, R266) -/

def wordTile (w : Nat) : TileId := ⟨w / 2 ^ 18 % 4, Nat.mod_lt _ (by decide)⟩

def decodeMop (is : Issue) (acc : Bool) (w : Nat) : Instr :=
  let shape : BitVec 2 := BitVec.ofNat 2 (w / 2 ^ 22)
  if acc then .mopAcc is (wordTy w 28) (wordTy w 24) shape (wordFlag w 21) (wordFlag w 20) (wordTile w) (wordReg w 12) (wordReg w 6)
  else .mop is (wordTy w 28) (wordTy w 24) shape (wordFlag w 21) (wordFlag w 20) (wordTile w) (wordReg w 12) (wordReg w 6)

/-- MCTL: a field that FUNC does not use is zero. -/
def decodeMctl (is : Issue) (w : Nat) : Option Instr :=
  let c := wordBits w 20 20
  let ga := wordBits w 17 12
  let gd := wordBits w 11 6
  let z := wordBits w 27 21
  match wordBits w 31 28 with
  | 0 => zeroed (z + c + ga) (.mtake is (wordTile w) (wordReg w 6))
  | 1 => zeroed (z + c + ga + gd) (.mrel is (wordTile w))
  | 2 => zeroed (z + c + gd) (.mdrain is (wordTile w) (wordReg w 12))
  | 3 => zeroed (z + ga + gd) (.mwait is (wordTile w) (wordFlag w 20))
  | 4 => zeroed (z + c + ga) (.mstat is (wordTile w) (wordReg w 6))
  | _ => none

/-! ### Words (R89, R90) -/

def immOps : List ImmOp := [.addi, .andi, .ori, .xori, .slti, .sltiu]
def ldKinds : List LdKind := [.b, .h, .w, .d, .bu, .hu, .wu]
def stKinds : List StKind := [.b, .h, .w, .d]
def brConds : List BrCond := [.eq, .ne, .lt, .ge, .ltu, .geu]

/-- The majors whose instructions a prefix extends (R90). -/
def extendable (major : Nat) : Bool :=
  decide ((3 ≤ major ∧ major ≤ 8) ∨ (0x0A ≤ major ∧ major ≤ 0x16) ∨ (0x18 ≤ major ∧ major ≤ 0x1F) ∨ major = 0x21 ∨ major = 0x23 ∨ major = 0x24 ∨
    major = 0x28)

/-- What the base word `w` spells, under the EXT26 of a prefix that extends it. -/
def decodeBase (is : Issue) (ext : Option (BitVec 26)) (w : Nat) : Option Instr :=
  let m := w % 64
  let imm := wordImm14 ext w
  let imm20 := wordImm20 ext w
  let lo := wordReg w 6
  let mid := wordReg w 12
  if 0x03 ≤ m ∧ m ≤ 0x08 then immOps[m - 0x03]?.map (fun op => .aluImmediate is op lo mid imm)
  else if 0x0C ≤ m ∧ m ≤ 0x12 then ldKinds[m - 0x0C]?.map (fun k => .ld is k lo mid imm [])
  else if 0x13 ≤ m ∧ m ≤ 0x16 then stKinds[m - 0x13]?.map (fun k => .st is k lo mid imm [])
  else if 0x18 ≤ m ∧ m ≤ 0x1D then brConds[m - 0x18]?.map (fun c => .branch is c lo mid imm)
  else match m with
    | 0x01 => decodeOp is w
    | 0x09 => decodeShift is w
    | 0x0A => some (.lui is lo imm20)
    | 0x0B => some (.auipc is lo imm20)
    | 0x17 => decodeAtom is w
    | 0x1E => some (.jal is lo imm20)
    | 0x1F => some (.jalr is lo mid imm)
    | 0x20 => zeroed (wordBits w 17 13) (.loop is (if wordFlag w 12 then 1 else 0) lo (BitVec.ofNat 14 (w / 2 ^ 18)))
    | 0x21 =>
      let i (e : Option (BitVec 20)) : Instr := .loopi is (if wordFlag w 18 then 1 else 0) (BitVec.ofNat 13 (w / 2 ^ 19)) (BitVec.ofNat 12 (w / 2 ^ 6)) e
      match ext with
      | none => some (i none)
      | some e => zeroed (wordBits e.toNat 25 20) (i (some (BitVec.ofNat 20 e.toNat)))
    | 0x22 => decodeFp is w
    | 0x23 => decodeFma is true ext w
    | 0x24 => decodeFma is false ext w
    | 0x25 => decodeFcvt is w
    | 0x26 => decodeCr is w
    | 0x27 => decodeSys is w
    | 0x28 => some (.tbegin is lo imm20)
    | 0x29 => decodeCache is w
    | 0x30 => zeroed (wordBits w 21 21) (.vvOp ⟨is, none⟩ (wordTy w 28) (wordMask w 25) (wordMask w 22) (wordVReg w 6) (wordVReg w 11) (wordVReg w 16))
    | 0x31 => some (.vsOp ⟨is, none⟩ (wordTy w 28) (wordMask w 25) (wordMask w 22) (wordVReg w 6) (wordVReg w 11) (wordReg w 16))
    | 0x32 => some (.vfOp ⟨is, none⟩ (wordMask w 29) (wordMask w 26) (wordVReg w 6) (wordVReg w 11) (wordVReg w 16) (wordVReg w 21))
    | 0x33 => decodeVcmp is w
    | 0x34 => decodeVun is w
    | 0x35 => decodeVred is w
    | 0x36 => decodeVmem is w
    | 0x37 => decodeVspec is w
    | 0x38 => some (decodeMop is true w)
    | 0x39 => some (decodeMop is false w)
    | 0x3A => zeroed (wordBits w 31 20) (.mfill is (wordFlag w 19) (wordFlag w 18) (wordReg w 12) (wordReg w 6))
    | 0x3B => decodeMctl is w
    | _ => none

/-- The instruction that a word spells, with the word that follows a prefix; none for a word that no instruction has (R89, R90, R229).
A reserved value that one of the commands can carry is left to that command, which raises ILLEGAL for it. -/
def decodeInsn (is : Issue) (w : BitVec 32) (w2 : Option (BitVec 32)) : Option Instr :=
  if w.toNat % 64 = 0x3F then
    match w2 with
    | some b => if extendable (b.toNat % 64) then decodeBase is (some (BitVec.ofNat 26 (w.toNat / 64))) b.toNat else none
    | none => none
  else decodeBase is none w.toNat

end Sys2Proof
end

