-- ==== Sys2Proof/Config.lean ====
section
/-! DEFINITION. What one device fixes outside its registers, and the FREE VALUES: the values and the published algorithms
that the spec names without giving their result. A free value is an opaque constant: nothing can be proved of it. -/

namespace Sys2Proof
namespace Config

/-- FREE VALUE. The value of the n-th result that the spec leaves open (assumption 4); `State.free` counts the uses. -/
opaque freeWord : Nat → Word

/-- FREE VALUE. The byte that the n-th open byte reads as (assumption 4). -/
opaque freeByte : Nat → Byte

/-- FREE VALUE. SHA-512 of a byte string, as FIPS 180-4 defines it (R548, R551; assumption 5). -/
opaque sha512 : List Byte → BitVec 512

/-- FREE VALUE. ECDSA P-521 verification of (r, s) under a public key over a SHA-512 digest (R551, R565; assumption 5). -/
opaque ecdsaVerify : List Byte → BitVec 512 → List Byte → List Byte → Bool

/-- FREE VALUE. AES-256-GCM encryption: key, 12-byte IV, additional data, plaintext; the ciphertext (R558, R560). DESIGN CHOICE: assumption 5. -/
opaque gcmSeal : BitVec 256 → List Byte → List Byte → List Byte → List Byte

/-- FREE VALUE. The AES-256-GCM tag of a ciphertext: key, IV, additional data, ciphertext (R558, R560). DESIGN CHOICE: assumption 5. -/
opaque gcmTag : BitVec 256 → List Byte → List Byte → List Byte → BitVec 128

/-- FREE VALUE. AES-256-GCM decryption, the inverse of `gcmSeal` for data whose tag passes (R559, R561). DESIGN CHOICE: assumption 5. -/
opaque gcmOpen : BitVec 256 → List Byte → List Byte → List Byte → List Byte

/-- FREE VALUE. One byte of AES-256-XTS ciphertext of a 64-byte line: key, tweak address, plaintext line, byte (R556). DESIGN CHOICE: assumption 5. -/
opaque xtsByte : BitVec 256 → Nat → BitVec 512 → Nat → Byte

/-- FREE VALUE. One byte of AES-256-XTS plaintext of a 64-byte line: key, tweak address, ciphertext line, byte (R556). DESIGN CHOICE: assumption 5. -/
opaque xtsOpen : BitVec 256 → Nat → BitVec 512 → Nat → Byte

/-- FREE VALUE. The n-th 256-bit draw of the on-die random source (R556). DESIGN CHOICE: assumption 6. -/
opaque randomKey : Nat → BitVec 256

/-- FREE VALUE. The n-th 64-byte debug challenge (R565). DESIGN CHOICE: assumption 6. -/
opaque challenge : Nat → List Byte

/-- FREE VALUE. The SPDM responder's answer to a request, given the measurements and the number of earlier answers (R562). DESIGN CHOICE: assumption 6. -/
opaque spdmAnswer : Nat → List (BitVec 512) → List Byte → List Byte

/-- FREE VALUE. The fuse bank (R548) and the fused operating points (R594): SHA-512 of the identity public key. DESIGN CHOICE: assumption 6. -/
opaque fuseIdHash : BitVec 512
/-- FREE VALUE. SHA-512 of image-signing key `i` (R548). DESIGN CHOICE: assumption 6. -/
opaque fuseFwKey : Fin 4 → BitVec 512
/-- FREE VALUE. SHA-512 of the debug-unlock key (R548). DESIGN CHOICE: assumption 6. -/
opaque fuseDbgKey : BitVec 512

/-- FREE VALUE. The INDEX bytes of a translation-store entry, which depend on the implementation (R365). DESIGN CHOICE: assumption 6. -/
opaque rttIndexByte : Nat → Nat → Byte

/-- What the device advertises in its ATS capability (R357): the Smallest Translation Unit in bytes, page-aligned requests, Global
Invalidate, and the Invalidate Queue Depth. -/
structure AtsCapability where
  unit : Nat
  pageAligned : Bool
  globalInvalidate : Bool
  queueDepth : Nat
  deriving DecidableEq, Repr

def atsCapability : AtsCapability := { unit := 4096, pageAligned := true, globalInvalidate := true, queueDepth := 32 }

/-- FREE VALUE. The 30 parity symbols of an RS(544,514) codeword over its 514 message symbols (R422, which names the code and not its
generator). DESIGN CHOICE: assumption 69. -/
opaque rsParity : List (BitVec 10) → Vector (BitVec 10) 30
/-- FREE VALUE. The 40-bit alignment and sequence header of the n-th codeword pair of a port (R422, which gives it no layout). DESIGN
CHOICE: assumption 69. -/
opaque pairHeader : Nat → BitVec 40
/-- FREE VALUE. The payload of a TRAIN flit with this device ID, port number and BOND (R430, which gives it no layout). DESIGN CHOICE:
assumption 69. -/
opaque trainPayload : Nat → Nat → Bool → Vector Byte 244

/-- FREE VALUE. The MEMTEST pattern: mode, seed, address; the byte written (R540, R541 give no sequence). DESIGN CHOICE: assumption 6. -/
opaque testByte : BitVec 2 → Word → Nat → Byte

/-- FREE VALUE. The serial number that IDENTIFY reports (R540). DESIGN CHOICE: assumption 6. -/
opaque serial : Word

/-- FREE VALUE. The digest of measurement `i`, taken over the values it measures (R563, which gives no layout for them). DESIGN CHOICE: assumption 6. -/
opaque measure : Nat → List Nat → BitVec 512

/-- FREE VALUE. The boot ROM's measurement 1 (R563). -/
opaque romDigest : BitVec 512

/-- FREE VALUE. Oscillator kind of process monitor `k`, fused (R606). DESIGN CHOICE: assumption 6. -/
opaque procType : Fin 48 → BitVec 2

/-- Number of HBM4 stacks, and pseudo-channels of each (R326). -/
def nStacks : Nat := 24
def pchPerStack : Nat := 64
/-- Granules of one pseudo-channel (R327). -/
def granulesPerPch : Nat := 4718592
/-- Bytes of HBM: 1,728 GiB (R2). -/
def hbmBytes : Nat := 0x1B000000000
/-- A unit of a region: 48 MiB (R329). -/
def unitBytes : Nat := 0x3000000
/-- First address of the pans, and bytes of one pan (R2, R300). -/
def panBase : Nat := 0xF00000000000
def panBytes : Nat := 0x8000000
def ctlBase : Nat := 0xF10000000000
def ctlBytes : Nat := 0x4000000
def openHandler : Nat := 0xF18000000000
def sealedHandler : Nat := 0xF18000100000
def handlerBytes : Nat := 0x100000
def tstoreBase : Nat := 0xF20000000000
def tstoreBytes : Nat := 0x2000000
def sessBase : Nat := 0xF30000000000
def sessBytes : Nat := 0x60000

end Config
end Sys2Proof
end

