-- ==== Sys2Proof/Machine/Bits.lean ====
section
/-! DEFINITION. Bit fields, sign extension, byte order (R9) and the sparse tables that hold the device's stores. -/

namespace Sys2Proof.Machine
open Sys2Proof

/-- Bits [hi:lo] of a word, as a number. -/
def field (w : Word) (hi lo : Nat) : Nat := (w.toNat >>> lo) % 2 ^ (hi + 1 - lo)

/-- Bit `i` of a word. -/
def bit (w : Word) (i : Nat) : Bool := w.getLsbD i

/-- `w` with bits [hi:lo] replaced by the low bits of `v`. -/
def setField (w : Word) (hi lo : Nat) (v : Nat) : Word :=
  let n := hi + 1 - lo
  let mask : Word := BitVec.ofNat 64 ((2 ^ n - 1) <<< lo)
  (w &&& ~~~mask) ||| (BitVec.ofNat 64 ((v % 2 ^ n) <<< lo))

def setBit (w : Word) (i : Nat) (b : Bool) : Word := setField w i i (if b then 1 else 0)

/-- A word whose bits are `w`'s but only where `m` has ones: `v` there. -/
def maskMerge (w v m : Word) : Word := (w &&& ~~~m) ||| (v &&& m)

def boolNat (b : Bool) : Nat := if b then 1 else 0

/-- Sign extension of the low `n` bits of a number to an integer. -/
def sextNat (x n : Nat) : Int :=
  let y := x % 2 ^ n
  if n ≠ 0 ∧ 2 ^ (n - 1) ≤ y then (y : Int) - (2 ^ n : Nat) else (y : Int)

def wordOfInt (i : Int) : Word := BitVec.ofInt 64 i

/-- Sign extension of the low `n` bits of a word to 64 bits. -/
def sextWord (w : Word) (n : Nat) : Word := wordOfInt (sextNat w.toNat n)

/-- Zero extension of the low `n` bits of a word. -/
def zextWord (w : Word) (n : Nat) : Word := BitVec.ofNat 64 (w.toNat % 2 ^ n)

/-- The `n` bytes of a number, least significant first (R9). -/
def leBytes : Nat → Nat → List Byte
  | 0, _ => []
  | n + 1, x => BitVec.ofNat 8 x :: leBytes n (x / 256)

/-- The number that bytes spell, least significant first (R9). -/
def ofLe : List Byte → Nat
  | [] => 0
  | b :: bs => b.toNat + 256 * ofLe bs

/-- `i` in [lo, lo + n). -/
def inRange (i lo n : Nat) : Bool := decide (lo ≤ i) && decide (i < lo + n)

def satAdd (x y cap : Nat) : Nat := min (x + y) cap

/-- The numbers `a, a+s, …`, `n` of them. -/
def strideList (a s : Nat) : Nat → List Nat
  | 0 => []
  | n + 1 => a :: strideList (a + s) s n

def leadingZeros (n x : Nat) : Nat := if x % 2 ^ n = 0 then n else n - 1 - Nat.log2 (x % 2 ^ n)

def trailingZerosAux : Nat → Nat → Nat
  | 0, _ => 0
  | n + 1, x => if x % 2 = 1 then 0 else 1 + trailingZerosAux n (x / 2)

def popCountAux : Nat → Nat → Nat
  | 0, _ => 0
  | n + 1, x => x % 2 + popCountAux n (x / 2)

/-- Reversal of the low `n` bits. -/
def reflect : Nat → Nat → Nat
  | 0, _ => 0
  | n + 1, x => (x % 2) * 2 ^ n + reflect n (x / 2)

/-! ### Sparse tables -/

/-- A table from numbers to values in canonical form: keys strictly rising, no value equal to the default. -/
abbrev SMap (α : Type) := List (Nat × α)

/-- DESIGN CHOICE: assumption 3. -/
def SMap.get {α : Type} (d : α) : SMap α → Nat → α
  | [], _ => d
  | (k, v) :: m, i => if i = k then v else SMap.get d m i

/-- The entry of key `i` becomes `x`, in its place. -/
def SMap.put {α : Type} : SMap α → Nat → α → SMap α
  | [], i, x => [(i, x)]
  | (k, v) :: m, i, x =>
    if i < k then (i, x) :: (k, v) :: m
    else if i = k then (i, x) :: m
    else (k, v) :: SMap.put m i x

/-- Write of one key, keeping the canonical form: the default removes the entry. -/
def SMap.set {α : Type} [DecidableEq α] (d : α) (m : SMap α) (i : Nat) (x : α) : SMap α :=
  if x = d then m.filter (fun e => !decide (e.1 = i)) else SMap.put m i x

/-- The canonical form, as a check: every key is above `lo` (when given) and rises, no value is the default. -/
def SMap.wfFrom {α : Type} [DecidableEq α] (d : α) : Option Nat → SMap α → Bool
  | _, [] => true
  | lo, (k, v) :: m => (match lo with | none => true | some l => decide (l < k)) && decide (v ≠ d) && SMap.wfFrom d (some k) m

def SMap.wf {α : Type} [DecidableEq α] (d : α) (m : SMap α) : Bool := SMap.wfFrom d none m

/-- Several writes, in order. -/
def SMap.setAll {α : Type} [DecidableEq α] (d : α) (m : SMap α) : List (Nat × α) → SMap α
  | [] => m
  | (i, x) :: l => SMap.setAll d (SMap.set d m i x) l

/-- The table with every key that `p` names back at the default. -/
def SMap.clear {α : Type} (m : SMap α) (p : Nat → Bool) : SMap α := m.filter (fun e => !p e.1)

/-- Replacement of the `i`-th element of a list. -/
def setAt {α : Type} (l : List α) (i : Nat) (x : α) : List α := l.set i x

/-- Bytes of a 64-byte line held as one number, and back (byte 0 lowest). -/
def lineBytes (x : BitVec 512) : List Byte := leBytes 64 x.toNat
def lineOf (b : List Byte) : BitVec 512 := BitVec.ofNat 512 (ofLe b)

end Sys2Proof.Machine
end

