-- ==== Sys2Proof/Machine/Crc.lean ====
section
/-! DEFINITION. Cyclic redundancy checks of any width, with input and output reflection (R413, R424, R616). -/

namespace Sys2Proof.Machine
open Sys2Proof

/-- One bit enters a CRC register of `w` bits. -/
def crcBit (w poly reg : Nat) (b : Bool) : Nat :=
  let r := reg * 2 % 2 ^ w
  if xor (Nat.testBit reg (w - 1)) b then r ^^^ poly % 2 ^ w else r

/-- The bits of a byte, most significant first, or least significant first when reflected. -/
def byteBits (refin : Bool) (b : Byte) : List Bool :=
  let l := (List.range 8).map (fun i => b.getLsbD i)
  if refin then l else l.reverse

def crcFeed (w poly : Nat) (refin : Bool) (reg : Nat) (bs : List Byte) : Nat :=
  bs.foldl (fun r b => (byteBits refin b).foldl (crcBit w poly) r) reg

def crcEnd (w : Nat) (refout : Bool) (xorout reg : Nat) : Nat :=
  (if refout then reflect w reg else reg) ^^^ xorout % 2 ^ w

def crc (w poly init : Nat) (refin refout : Bool) (xorout : Nat) (bs : List Byte) : Nat :=
  crcEnd w refout xorout (crcFeed w poly refin (init % 2 ^ w) bs)

/-- The CRC of a flit (R424). -/
def crc32 (bs : List Byte) : Nat := crc 32 0x04C11DB7 0xFFFFFFFF true true 0xFFFFFFFF bs

end Sys2Proof.Machine
end

