-- ==== Sys2Proof/Machine/Regs.lean ====
section
/-! DEFINITION. The registers of BAR0, written from the register maps of the spec: where each lies (R5), its fields, their
access codes (R10) and reset values (R11), and which counters have a shadow (R34). -/

namespace Sys2Proof.Machine

/-- Access codes of R10. -/
inductive Acc where
  | rw | ro | wo | w1c | rc
  deriving DecidableEq, Repr

/-- The bits [hi:lo] of a field. -/
structure Fld where
  hi : Nat
  lo : Nat
  deriving DecidableEq, Repr

/-- One field of a register map: its bits, its access code, and whether its Notes say "Staged". Bits in no field are RSV. -/
structure FieldDesc where
  hi : Nat
  lo : Nat
  acc : Acc
  staged : Bool
  deriving DecidableEq, Repr

/-- A register or an array of registers: the BAR0 offset of the first, the arrays' counts and strides (outermost first),
whether it is 64-bit atomic (R8), and its fields. -/
structure RegDesc where
  base : Nat
  dims : List (Nat × Nat)
  atomic64 : Bool
  fields : List FieldDesc
  deriving DecidableEq, Repr


/-! ### GCTL (R354, R460, R546, R615, R623) -/

def R.GCTL_IDENT : Nat := 0x0
def F.GCTL_IDENT_VENDOR : Fld := ⟨15, 0⟩
def F.GCTL_IDENT_DEVICE : Fld := ⟨31, 16⟩
def F.GCTL_IDENT_STEPPING : Fld := ⟨39, 32⟩
def R.GCTL_COMPAT : Nat := 0x8
def F.GCTL_COMPAT_LEVEL1 : Fld := ⟨0, 0⟩
def F.GCTL_COMPAT_STRAP : Fld := ⟨1, 1⟩
def R.GCTL_STRAPS : Nat := 0x10
def F.GCTL_STRAPS_BOOT_SEL : Fld := ⟨1, 0⟩
def F.GCTL_STRAPS_COMPAT : Fld := ⟨2, 2⟩
def R.GCTL_BAR2WIN : Nat := 0x18
def F.GCTL_BAR2WIN_BASE : Fld := ⟨40, 28⟩
def R.GCTL_PCIESTAT : Nat := 0x20
def F.GCTL_PCIESTAT_SPEED : Fld := ⟨2, 0⟩
def F.GCTL_PCIESTAT_WIDTH : Fld := ⟨8, 4⟩
def F.GCTL_PCIESTAT_FLIT : Fld := ⟨9, 9⟩
def F.GCTL_PCIESTAT_LINKUP : Fld := ⟨10, 10⟩
def R.GCTL_BAR2ERR : Nat := 0x28
def F.GCTL_BAR2ERR_VALID : Fld := ⟨0, 0⟩
def F.GCTL_BAR2ERR_ADDR : Fld := ⟨41, 1⟩
def F.GCTL_BAR2ERR_WRITE : Fld := ⟨42, 42⟩
def F.GCTL_BAR2ERR_KIND : Fld := ⟨44, 43⟩
def R.GCTL_BAR2REF : Nat := 0x40
def F.GCTL_BAR2REF_COUNT : Fld := ⟨63, 0⟩
def R.GCTL_SH_BAR2REF : Nat := 0x80
def F.GCTL_SH_BAR2REF_COUNT : Fld := ⟨63, 0⟩
def R.GCTL_BOOTINFO : Nat := 0x100
def F.GCTL_BOOTINFO_WARM : Fld := ⟨0, 0⟩
def F.GCTL_BOOTINFO_VALID : Fld := ⟨1, 1⟩
def F.GCTL_BOOTINFO_TREADY : Fld := ⟨31, 16⟩
def F.GCTL_BOOTINFO_WARMCNT : Fld := ⟨47, 32⟩
def R.GCTL_GPIOSTAT : Nat := 0x108
def F.GCTL_GPIOSTAT_CONFLICT : Fld := ⟨15, 0⟩
def F.GCTL_GPIOSTAT_PIN : Fld := ⟨19, 16⟩
def F.GCTL_GPIOSTAT_WONFN : Fld := ⟨27, 20⟩
def F.GCTL_GPIOSTAT_LOSTFN : Fld := ⟨35, 28⟩
def R.GCTL_MREGION (i : Nat) : Nat := 0x2000 + 0x8 * i
def F.GCTL_MREGION_EN : Fld := ⟨0, 0⟩
def F.GCTL_MREGION_MODE : Fld := ⟨1, 1⟩
def F.GCTL_MREGION_BASE : Fld := ⟨19, 4⟩
def F.GCTL_MREGION_LIMIT : Fld := ⟨35, 20⟩
def R.GCTL_DEVID : Nat := 0x4000
def F.GCTL_DEVID_ID : Fld := ⟨11, 0⟩
def R.GCTL_EPOCH : Nat := 0x4008
def F.GCTL_EPOCH_EPOCH : Fld := ⟨15, 0⟩
def R.GCTL_FABCFG : Nat := 0x4010
def F.GCTL_FABCFG_MSGTO : Fld := ⟨15, 0⟩
def F.GCTL_FABCFG_GETWAIT : Fld := ⟨31, 16⟩
def F.GCTL_FABCFG_EGRACE : Fld := ⟨47, 32⟩
def F.GCTL_FABCFG_HOPMAX : Fld := ⟨52, 48⟩
def R.GCTL_CHTAB : Nat := 0x4018
def F.GCTL_CHTAB_ADDR : Fld := ⟨47, 21⟩
def R.GCTL_CHTABS : Nat := 0x4020
def F.GCTL_CHTABS_ADDR : Fld := ⟨47, 21⟩
def R.GCTL_CHCMD : Nat := 0x4028
def F.GCTL_CHCMD_CHAN : Fld := ⟨15, 0⟩
def F.GCTL_CHCMD_OP : Fld := ⟨18, 16⟩
def F.GCTL_CHCMD_GO : Fld := ⟨19, 19⟩
def F.GCTL_CHCMD_RESULT : Fld := ⟨23, 20⟩
def F.GCTL_CHCMD_BUSY : Fld := ⟨24, 24⟩
def F.GCTL_CHCMD_COUNT : Fld := ⟨52, 32⟩
def R.GCTL_CHSTAT : Nat := 0x4030
def F.GCTL_CHSTAT_HEAD : Fld := ⟨31, 0⟩
def F.GCTL_CHSTAT_TAIL : Fld := ⟨63, 32⟩
def R.GCTL_LASTNACK : Nat := 0x4038
def F.GCTL_LASTNACK_VALID : Fld := ⟨0, 0⟩
def F.GCTL_LASTNACK_REASON : Fld := ⟨15, 8⟩
def F.GCTL_LASTNACK_CHAN : Fld := ⟨31, 16⟩
def F.GCTL_LASTNACK_SRC : Fld := ⟨43, 32⟩
def F.GCTL_LASTNACK_GET : Fld := ⟨44, 44⟩
def R.GCTL_NACKTX : Nat := 0x4040
def F.GCTL_NACKTX_COUNT : Fld := ⟨63, 0⟩
def R.GCTL_NACKRX : Nat := 0x4048
def F.GCTL_NACKRX_COUNT : Fld := ⟨63, 0⟩
def R.GCTL_HOPDROP : Nat := 0x4050
def F.GCTL_HOPDROP_COUNT : Fld := ⟨63, 0⟩
def R.GCTL_MSGTOUT : Nat := 0x4058
def F.GCTL_MSGTOUT_COUNT : Fld := ⟨63, 0⟩
def R.GCTL_SH_NACKTX : Nat := 0x4080
def F.GCTL_SH_NACKTX_COUNT : Fld := ⟨63, 0⟩
def R.GCTL_SH_NACKRX : Nat := 0x4088
def F.GCTL_SH_NACKRX_COUNT : Fld := ⟨63, 0⟩
def R.GCTL_SH_HOPDROP : Nat := 0x4090
def F.GCTL_SH_HOPDROP_COUNT : Fld := ⟨63, 0⟩
def R.GCTL_SH_MSGTOUT : Nat := 0x4098
def F.GCTL_SH_MSGTOUT_COUNT : Fld := ⟨63, 0⟩
def R.GCTL_MEMBER (i : Nat) : Nat := 0x4100 + 0x8 * i
def F.GCTL_MEMBER_MAP : Fld := ⟨63, 0⟩
def R.GCTL_ROUTE (i : Nat) : Nat := 0x10000 + 0x8 * i
def F.GCTL_ROUTE_VALID : Fld := ⟨0, 0⟩
def F.GCTL_ROUTE_PORT : Fld := ⟨4, 1⟩
def F.GCTL_ROUTE_ALTV : Fld := ⟨5, 5⟩
def F.GCTL_ROUTE_ALT : Fld := ⟨9, 6⟩
def F.GCTL_ROUTE_DATELINE : Fld := ⟨10, 10⟩

/-! ### BEAT (R49) -/

def R.BEAT_CTRL : Nat := 0x100000
def F.BEAT_CTRL_RUN : Fld := ⟨0, 0⟩
def F.BEAT_CTRL_POLICY : Fld := ⟨1, 1⟩
def F.BEAT_CTRL_SRC : Fld := ⟨3, 2⟩
def F.BEAT_CTRL_SRCPORT : Fld := ⟨7, 4⟩
def F.BEAT_CTRL_BOUT_EN : Fld := ⟨8, 8⟩
def R.BEAT_PERIOD : Nat := 0x100008
def F.BEAT_PERIOD_PERIOD : Fld := ⟨24, 0⟩
def R.BEAT_STRETCH : Nat := 0x100010
def F.BEAT_STRETCH_QPCT : Fld := ⟨4, 0⟩
def F.BEAT_STRETCH_MAXQ : Fld := ⟨10, 8⟩
def R.BEAT_GUARD : Nat := 0x100018
def F.BEAT_GUARD_GUARD : Fld := ⟨19, 0⟩
def F.BEAT_GUARD_DECIDE : Fld := ⟨51, 32⟩
def R.BEAT_TIMEBASE : Nat := 0x100020
def F.BEAT_TIMEBASE_TIME : Fld := ⟨63, 0⟩
def R.BEAT_NUMBER : Nat := 0x100028
def F.BEAT_NUMBER_NUMBER : Fld := ⟨63, 0⟩
def R.BEAT_EDGE : Nat := 0x100030
def F.BEAT_EDGE_EDGE : Fld := ⟨63, 0⟩
def R.BEAT_NEXT : Nat := 0x100038
def F.BEAT_NEXT_NEXT : Fld := ⟨63, 0⟩
def R.BEAT_START : Nat := 0x100040
def F.BEAT_START_START : Fld := ⟨63, 0⟩
def R.BEAT_STAT : Nat := 0x100048
def F.BEAT_STAT_DONE : Fld := ⟨0, 0⟩
def F.BEAT_STAT_LASTFAIL : Fld := ⟨1, 1⟩
def F.BEAT_STAT_LASTQ : Fld := ⟨4, 2⟩
def F.BEAT_STAT_OVERRUN : Fld := ⟨8, 8⟩
def F.BEAT_STAT_LATE_GRANT : Fld := ⟨9, 9⟩
def F.BEAT_STAT_SLIP : Fld := ⟨10, 10⟩
def F.BEAT_STAT_BIN_MISS : Fld := ⟨11, 11⟩
def F.BEAT_STAT_SRC_LOST : Fld := ⟨12, 12⟩
def F.BEAT_STAT_START_LATE : Fld := ⟨13, 13⟩
def R.BEAT_SREQ : Nat := 0x100050
def F.BEAT_SREQ_REQ : Fld := ⟨0, 0⟩
def R.BEAT_SNAPIDX : Nat := 0x100058
def F.BEAT_SNAPIDX_IDX : Fld := ⟨63, 0⟩
def R.BEAT_IRQ : Nat := 0x100060
def F.BEAT_IRQ_DONEVEC : Fld := ⟨10, 0⟩
def F.BEAT_IRQ_DONE_EN : Fld := ⟨15, 15⟩
def F.BEAT_IRQ_FAILVEC : Fld := ⟨26, 16⟩
def F.BEAT_IRQ_FAIL_EN : Fld := ⟨31, 31⟩
def R.BEAT_TDONE : Nat := 0x100068
def F.BEAT_TDONE_TDONE : Fld := ⟨47, 0⟩
def R.BEAT_EDONE : Nat := 0x100070
def F.BEAT_EDONE_EDONE : Fld := ⟨16, 0⟩
def R.BEAT_MARK : Nat := 0x100078
def F.BEAT_MARK_STRATUM : Fld := ⟨3, 0⟩
def F.BEAT_MARK_PARENT : Fld := ⟨7, 4⟩
def F.BEAT_MARK_DELAY : Fld := ⟨27, 8⟩
def F.BEAT_MARK_OFFSET : Fld := ⟨63, 32⟩
def R.BEAT_MONOFF : Nat := 0x100080
def F.BEAT_MONOFF_OFFSET : Fld := ⟨31, 0⟩
def F.BEAT_MONOFF_VALID : Fld := ⟨32, 32⟩
def R.BEAT_SLIPTH : Nat := 0x100088
def F.BEAT_SLIPTH_SLIPTH : Fld := ⟨15, 0⟩
def F.BEAT_SLIPTH_MINT : Fld := ⟨31, 16⟩
def R.BEAT_CG_CTRL : Nat := 0x100090
def F.BEAT_CG_CTRL_ARM : Fld := ⟨0, 0⟩
def F.BEAT_CG_CTRL_DISCARD : Fld := ⟨1, 1⟩
def F.BEAT_CG_CTRL_CANCEL : Fld := ⟨2, 2⟩
def R.BEAT_CG_TARGET : Nat := 0x100098
def F.BEAT_CG_TARGET_TARGET : Fld := ⟨63, 0⟩
def R.BEAT_CG_STAT : Nat := 0x1000A0
def F.BEAT_CG_STAT_STATE : Fld := ⟨1, 0⟩
def F.BEAT_CG_STAT_REASON : Fld := ⟨5, 2⟩
def F.BEAT_CG_STAT_BUSY : Fld := ⟨8, 8⟩
def F.BEAT_CG_STAT_OPEN_DIRTY : Fld := ⟨9, 9⟩
def F.BEAT_CG_STAT_FAILOFF : Fld := ⟨57, 32⟩
def R.BEAT_CG_APPLIED : Nat := 0x1000A8
def F.BEAT_CG_APPLIED_BEATNO : Fld := ⟨63, 0⟩
def R.BEAT_FAILCNT : Nat := 0x1000C0
def F.BEAT_FAILCNT_COUNT : Fld := ⟨31, 0⟩
def R.BEAT_STRCNT : Nat := 0x1000C8
def F.BEAT_STRCNT_COUNT : Fld := ⟨31, 0⟩
def R.BEAT_LATECNT : Nat := 0x1000D0
def F.BEAT_LATECNT_COUNT : Fld := ⟨31, 0⟩
def R.BEAT_SH_FAILCNT : Nat := 0x1000E0
def F.BEAT_SH_FAILCNT_COUNT : Fld := ⟨31, 0⟩
def R.BEAT_SH_STRCNT : Nat := 0x1000E8
def F.BEAT_SH_STRCNT_COUNT : Fld := ⟨31, 0⟩
def R.BEAT_SH_LATECNT : Nat := 0x1000F0
def F.BEAT_SH_LATECNT_COUNT : Fld := ⟨31, 0⟩
def R.BEAT_ASYM (i : Nat) : Nat := 0x100100 + 0x8 * i
def F.BEAT_ASYM_ASYM : Fld := ⟨15, 0⟩
def R.BEAT_TENTRY (i : Nat) : Nat := 0x101000 + 0x8 * i
def F.BEAT_TENTRY_EN : Fld := ⟨0, 0⟩
def F.BEAT_TENTRY_OVT : Fld := ⟨1, 1⟩
def F.BEAT_TENTRY_PC : Fld := ⟨47, 2⟩

/-! ### FQ (R144, R388) -/

def R.FQ_BASE : Nat := 0x200000
def F.FQ_BASE_ADDR : Fld := ⟨47, 6⟩
def R.FQ_CFG : Nat := 0x200008
def F.FQ_CFG_EN : Fld := ⟨0, 0⟩
def F.FQ_CFG_SIZE : Fld := ⟨12, 8⟩
def F.FQ_CFG_WINDOW : Fld := ⟨31, 16⟩
def F.FQ_CFG_BMAX : Fld := ⟨41, 32⟩
def R.FQ_HEAD : Nat := 0x200010
def F.FQ_HEAD_INDEX : Fld := ⟨31, 0⟩
def R.FQ_TAIL : Nat := 0x200018
def F.FQ_TAIL_INDEX : Fld := ⟨31, 0⟩
def R.FQ_STAT : Nat := 0x200020
def F.FQ_STAT_FULL : Fld := ⟨0, 0⟩
def F.FQ_STAT_PRI_FAILED : Fld := ⟨1, 1⟩
def F.FQ_STAT_HEADERR : Fld := ⟨2, 2⟩
def F.FQ_STAT_QFULL_EV : Fld := ⟨3, 3⟩
def F.FQ_STAT_BATCH_EV : Fld := ⟨4, 4⟩
def F.FQ_STAT_TIMEOUT_EV : Fld := ⟨5, 5⟩
def F.FQ_STAT_OPEN : Fld := ⟨25, 16⟩
def F.FQ_STAT_AWAIT : Fld := ⟨31, 28⟩
def F.FQ_STAT_PARKED : Fld := ⟨38, 32⟩
def R.FQ_PRICFG : Nat := 0x200028
def F.FQ_PRICFG_TIMEOUT : Fld := ⟨15, 0⟩
def F.FQ_PRICFG_MAXB : Fld := ⟨19, 16⟩
def R.FQ_IRQ : Nat := 0x200030
def F.FQ_IRQ_BATCH_EN : Fld := ⟨0, 0⟩
def F.FQ_IRQ_QFULL_EN : Fld := ⟨1, 1⟩
def F.FQ_IRQ_PRIERR_EN : Fld := ⟨2, 2⟩
def F.FQ_IRQ_MSIVEC : Fld := ⟨26, 16⟩
def F.FQ_IRQ_MSI_EN : Fld := ⟨31, 31⟩
def R.FQ_BATCHNO : Nat := 0x200038
def F.FQ_BATCHNO_NEXT : Fld := ⟨31, 0⟩
def R.FQ_FAULTS : Nat := 0x200040
def F.FQ_FAULTS_COUNT : Fld := ⟨63, 0⟩
def R.FQ_MERGED : Nat := 0x200048
def F.FQ_MERGED_COUNT : Fld := ⟨63, 0⟩
def R.FQ_RESOLVED : Nat := 0x200050
def F.FQ_RESOLVED_COUNT : Fld := ⟨63, 0⟩
def R.FQ_REFUSED : Nat := 0x200058
def F.FQ_REFUSED_COUNT : Fld := ⟨63, 0⟩
def R.FQ_OVERFLOW : Nat := 0x200060
def F.FQ_OVERFLOW_COUNT : Fld := ⟨63, 0⟩
def R.FQ_PRITO : Nat := 0x200068
def F.FQ_PRITO_COUNT : Fld := ⟨63, 0⟩
def R.FQ_SH_FAULTS : Nat := 0x2000C0
def F.FQ_SH_FAULTS_COUNT : Fld := ⟨63, 0⟩
def R.FQ_SH_MERGED : Nat := 0x2000C8
def F.FQ_SH_MERGED_COUNT : Fld := ⟨63, 0⟩
def R.FQ_SH_RESOLVED : Nat := 0x2000D0
def F.FQ_SH_RESOLVED_COUNT : Fld := ⟨63, 0⟩
def R.FQ_SH_REFUSED : Nat := 0x2000D8
def F.FQ_SH_REFUSED_COUNT : Fld := ⟨63, 0⟩
def R.FQ_SH_OVERFLOW : Nat := 0x2000E0
def F.FQ_SH_OVERFLOW_COUNT : Fld := ⟨63, 0⟩
def R.FQ_SH_PRITO : Nat := 0x2000E8
def F.FQ_SH_PRITO_COUNT : Fld := ⟨63, 0⟩
def R.FQ_TROUTE (i : Nat) : Nat := 0x210000 + 0x8 * i
def F.FQ_TROUTE_EN : Fld := ⟨0, 0⟩
def F.FQ_TROUTE_THREAD : Fld := ⟨6, 1⟩
def F.FQ_TROUTE_LINE : Fld := ⟨11, 7⟩
def F.FQ_TROUTE_WORLD : Fld := ⟨12, 12⟩
def R.FQ_TDOOR (i : Nat) : Nat := 0x211000 + 0x8 * i
def F.FQ_TDOOR_OPEN : Fld := ⟨1, 0⟩
def F.FQ_TDOOR_SEALED : Fld := ⟨3, 2⟩

/-! ### SLUICE (R420) -/

def R.SLUICE_STAT (e : Nat) : Nat := 0x400000 + 0x10000 * e
def F.SLUICE_STAT_ACTIVE : Fld := ⟨3, 0⟩
def F.SLUICE_STAT_CHKBUSY : Fld := ⟨4, 4⟩
def R.SLUICE_IRQ (e : Nat) : Nat := 0x400008 + 0x10000 * e
def F.SLUICE_IRQ_DONE_EN : Fld := ⟨0, 0⟩
def F.SLUICE_IRQ_HALT_EN : Fld := ⟨1, 1⟩
def F.SLUICE_IRQ_MSIVEC : Fld := ⟨26, 16⟩
def F.SLUICE_IRQ_MSI_EN : Fld := ⟨31, 31⟩
def R.SLUICE_ISTAT (e : Nat) : Nat := 0x400010 + 0x10000 * e
def F.SLUICE_ISTAT_DONE : Fld := ⟨3, 0⟩
def F.SLUICE_ISTAT_HALT : Fld := ⟨7, 4⟩
def R.SLUICE_CHKCFG (e : Nat) : Nat := 0x400020 + 0x10000 * e
def F.SLUICE_CHKCFG_WIDTH : Fld := ⟨6, 0⟩
def F.SLUICE_CHKCFG_REFIN : Fld := ⟨8, 8⟩
def F.SLUICE_CHKCFG_REFOUT : Fld := ⟨9, 9⟩
def F.SLUICE_CHKCFG_OWNQ : Fld := ⟨13, 12⟩
def R.SLUICE_CHKPOLY (e : Nat) : Nat := 0x400028 + 0x10000 * e
def F.SLUICE_CHKPOLY_POLY : Fld := ⟨63, 0⟩
def R.SLUICE_CHKINIT (e : Nat) : Nat := 0x400030 + 0x10000 * e
def F.SLUICE_CHKINIT_INIT : Fld := ⟨63, 0⟩
def R.SLUICE_CHKXOR (e : Nat) : Nat := 0x400038 + 0x10000 * e
def F.SLUICE_CHKXOR_XOROUT : Fld := ⟨63, 0⟩
def R.SLUICE_CHKRES (e : Nat) : Nat := 0x400040 + 0x10000 * e
def F.SLUICE_CHKRES_RESULT : Fld := ⟨63, 0⟩
def R.SLUICE_CHKSTATE (e : Nat) : Nat := 0x400048 + 0x10000 * e
def F.SLUICE_CHKSTATE_STATE : Fld := ⟨63, 0⟩
def R.SLUICE_BYTES (e : Nat) : Nat := 0x400080 + 0x10000 * e
def F.SLUICE_BYTES_COUNT : Fld := ⟨63, 0⟩
def R.SLUICE_DESCS (e : Nat) : Nat := 0x400088 + 0x10000 * e
def F.SLUICE_DESCS_COUNT : Fld := ⟨63, 0⟩
def R.SLUICE_STALLNS (e : Nat) : Nat := 0x400090 + 0x10000 * e
def F.SLUICE_STALLNS_COUNT : Fld := ⟨63, 0⟩
def R.SLUICE_SH_BYTES (e : Nat) : Nat := 0x4000C0 + 0x10000 * e
def F.SLUICE_SH_BYTES_COUNT : Fld := ⟨63, 0⟩
def R.SLUICE_SH_DESCS (e : Nat) : Nat := 0x4000C8 + 0x10000 * e
def F.SLUICE_SH_DESCS_COUNT : Fld := ⟨63, 0⟩
def R.SLUICE_SH_STALLNS (e : Nat) : Nat := 0x4000D0 + 0x10000 * e
def F.SLUICE_SH_STALLNS_COUNT : Fld := ⟨63, 0⟩
def R.SLUICE_QBASE (e i : Nat) : Nat := 0x400100 + 0x10000 * e + 0x80 * i
def F.SLUICE_QBASE_ADDR : Fld := ⟨47, 6⟩
def R.SLUICE_QWB (e i : Nat) : Nat := 0x400108 + 0x10000 * e + 0x80 * i
def F.SLUICE_QWB_ADDR : Fld := ⟨47, 5⟩
def R.SLUICE_QCFG (e i : Nat) : Nat := 0x400110 + 0x10000 * e + 0x80 * i
def F.SLUICE_QCFG_EN : Fld := ⟨0, 0⟩
def F.SLUICE_QCFG_SIZE : Fld := ⟨5, 1⟩
def F.SLUICE_QCFG_WORLD : Fld := ⟨6, 6⟩
def F.SLUICE_QCFG_HALTERR : Fld := ⟨7, 7⟩
def R.SLUICE_QTAIL (e i : Nat) : Nat := 0x400118 + 0x10000 * e + 0x80 * i
def F.SLUICE_QTAIL_INDEX : Fld := ⟨31, 0⟩
def R.SLUICE_QHEAD (e i : Nat) : Nat := 0x400120 + 0x10000 * e + 0x80 * i
def F.SLUICE_QHEAD_INDEX : Fld := ⟨31, 0⟩
def R.SLUICE_QCTL (e i : Nat) : Nat := 0x400128 + 0x10000 * e + 0x80 * i
def F.SLUICE_QCTL_RESUME : Fld := ⟨0, 0⟩
def F.SLUICE_QCTL_RETRY : Fld := ⟨1, 1⟩
def F.SLUICE_QCTL_ABORT : Fld := ⟨2, 2⟩
def R.SLUICE_QSTAT (e i : Nat) : Nat := 0x400130 + 0x10000 * e + 0x80 * i
def F.SLUICE_QSTAT_STATE : Fld := ⟨2, 0⟩
def F.SLUICE_QSTAT_TAILERR : Fld := ⟨3, 3⟩
def F.SLUICE_QSTAT_LAST : Fld := ⟨15, 8⟩
def R.SLUICE_QALIVE (e i : Nat) : Nat := 0x400138 + 0x10000 * e + 0x80 * i
def F.SLUICE_QALIVE_VALUE : Fld := ⟨15, 0⟩
def R.SLUICE_QLOOP0 (e i : Nat) : Nat := 0x400140 + 0x10000 * e + 0x80 * i
def F.SLUICE_QLOOP0_COUNT : Fld := ⟨31, 0⟩
def F.SLUICE_QLOOP0_ACTIVE : Fld := ⟨32, 32⟩
def R.SLUICE_QLOOP1 (e i : Nat) : Nat := 0x400148 + 0x10000 * e + 0x80 * i
def F.SLUICE_QLOOP1_COUNT : Fld := ⟨31, 0⟩
def F.SLUICE_QLOOP1_ACTIVE : Fld := ⟨32, 32⟩
def R.SLUICE_QDONE (e i : Nat) : Nat := 0x400150 + 0x10000 * e + 0x80 * i
def F.SLUICE_QDONE_COUNT : Fld := ⟨31, 0⟩
def R.SLUICE_CNT (e i : Nat) : Nat := 0x401000 + 0x10000 * e + 0x8 * i
def F.SLUICE_CNT_VALUE : Fld := ⟨31, 0⟩

/-! ### REEL (R506) -/

def R.REEL_CTRL : Nat := 0x800000
def F.REEL_CTRL_DIGEN : Fld := ⟨0, 0⟩
def R.REEL_STAT : Nat := 0x800008
def F.REEL_STAT_ACTIVE : Fld := ⟨6, 0⟩
def F.REEL_STAT_DBUFUSED : Fld := ⟨30, 16⟩
def R.REEL_IRQ : Nat := 0x800010
def F.REEL_IRQ_DONE_EN : Fld := ⟨0, 0⟩
def F.REEL_IRQ_FAIL_EN : Fld := ⟨1, 1⟩
def F.REEL_IRQ_MSIVEC : Fld := ⟨26, 16⟩
def F.REEL_IRQ_MSI_EN : Fld := ⟨31, 31⟩
def R.REEL_DONEMAP : Nat := 0x800018
def F.REEL_DONEMAP_DONE : Fld := ⟨63, 0⟩
def R.REEL_FAILMAP : Nat := 0x800020
def F.REEL_FAILMAP_FAIL : Fld := ⟨63, 0⟩
def R.REEL_DIGBASE : Nat := 0x800028
def F.REEL_DIGBASE_ADDR : Fld := ⟨47, 17⟩
def R.REEL_DIGSEQ : Nat := 0x800030
def F.REEL_DIGSEQ_NEXT : Fld := ⟨31, 0⟩
def R.REEL_COLLS : Nat := 0x800080
def F.REEL_COLLS_COUNT : Fld := ⟨63, 0⟩
def R.REEL_BACKUPS : Nat := 0x800088
def F.REEL_BACKUPS_COUNT : Fld := ⟨63, 0⟩
def R.REEL_PROMOTED : Nat := 0x800090
def F.REEL_PROMOTED_COUNT : Fld := ⟨63, 0⟩
def R.REEL_STRAY : Nat := 0x800098
def F.REEL_STRAY_COUNT : Fld := ⟨63, 0⟩
def R.REEL_LATEHAND : Nat := 0x8000A0
def F.REEL_LATEHAND_COUNT : Fld := ⟨63, 0⟩
def R.REEL_TXBYTES : Nat := 0x8000A8
def F.REEL_TXBYTES_COUNT : Fld := ⟨63, 0⟩
def R.REEL_RXBYTES : Nat := 0x8000B0
def F.REEL_RXBYTES_COUNT : Fld := ⟨63, 0⟩
def R.REEL_SH_COLLS : Nat := 0x8000C0
def F.REEL_SH_COLLS_COUNT : Fld := ⟨63, 0⟩
def R.REEL_SH_BACKUPS : Nat := 0x8000C8
def F.REEL_SH_BACKUPS_COUNT : Fld := ⟨63, 0⟩
def R.REEL_SH_PROMOTED : Nat := 0x8000D0
def F.REEL_SH_PROMOTED_COUNT : Fld := ⟨63, 0⟩
def R.REEL_SH_STRAY : Nat := 0x8000D8
def F.REEL_SH_STRAY_COUNT : Fld := ⟨63, 0⟩
def R.REEL_SH_LATEHAND : Nat := 0x8000E0
def F.REEL_SH_LATEHAND_COUNT : Fld := ⟨63, 0⟩
def R.REEL_SH_TXBYTES : Nat := 0x8000E8
def F.REEL_SH_TXBYTES_COUNT : Fld := ⟨63, 0⟩
def R.REEL_SH_RXBYTES : Nat := 0x8000F0
def F.REEL_SH_RXBYTES_COUNT : Fld := ⟨63, 0⟩
def R.REEL_SDESC (i : Nat) : Nat := 0x801000 + 0x40 * i
def F.REEL_SDESC_ADDR : Fld := ⟨47, 7⟩
def R.REEL_SCTL (i : Nat) : Nat := 0x801008 + 0x40 * i
def F.REEL_SCTL_GO : Fld := ⟨0, 0⟩
def F.REEL_SCTL_ABORT : Fld := ⟨1, 1⟩
def F.REEL_SCTL_WORLD : Fld := ⟨2, 2⟩
def R.REEL_SSTAT (i : Nat) : Nat := 0x801010 + 0x40 * i
def F.REEL_SSTAT_STATE : Fld := ⟨1, 0⟩
def F.REEL_SSTAT_BUSYERR : Fld := ⟨2, 2⟩
def F.REEL_SSTAT_LAST : Fld := ⟨15, 8⟩
def F.REEL_SSTAT_HOP : Fld := ⟨31, 16⟩
def F.REEL_SSTAT_SEQ : Fld := ⟨63, 32⟩
def R.REEL_SFLAGS (i : Nat) : Nat := 0x801018 + 0x40 * i
def F.REEL_SFLAGS_FLAGS : Fld := ⟨4, 0⟩
def F.REEL_SFLAGS_PROMOTED : Fld := ⟨63, 32⟩

/-! ### HANK (R461) -/

def R.HANK_CTRL (p : Nat) : Nat := 0xC00000 + 0x10000 * p
def F.HANK_CTRL_EN : Fld := ⟨0, 0⟩
def F.HANK_CTRL_RETRAIN : Fld := ⟨1, 1⟩
def F.HANK_CTRL_BOND : Fld := ⟨2, 2⟩
def F.HANK_CTRL_TEST : Fld := ⟨3, 3⟩
def R.HANK_STAT (p : Nat) : Nat := 0xC00008 + 0x10000 * p
def F.HANK_STAT_STATE : Fld := ⟨2, 0⟩
def F.HANK_STAT_BONDED : Fld := ⟨3, 3⟩
def F.HANK_STAT_REASON : Fld := ⟨7, 4⟩
def F.HANK_STAT_LANELOCK : Fld := ⟨15, 8⟩
def R.HANK_PEER (p : Nat) : Nat := 0xC00010 + 0x10000 * p
def F.HANK_PEER_DEVID : Fld := ⟨11, 0⟩
def F.HANK_PEER_PORT : Fld := ⟨15, 12⟩
def F.HANK_PEER_VALID : Fld := ⟨16, 16⟩
def R.HANK_RETRY (p : Nat) : Nat := 0xC00018 + 0x10000 * p
def F.HANK_RETRY_REPLAYTO : Fld := ⟨15, 0⟩
def F.HANK_RETRY_RETRYMAX : Fld := ⟨23, 16⟩
def F.HANK_RETRY_THRESH : Fld := ⟨47, 32⟩
def R.HANK_RXPWR (p : Nat) : Nat := 0xC00020 + 0x10000 * p
def F.HANK_RXPWR_LANES : Fld := ⟨63, 0⟩
def R.HANK_LANESNR (p : Nat) : Nat := 0xC00028 + 0x10000 * p
def F.HANK_LANESNR_LANES : Fld := ⟨63, 0⟩
def R.HANK_IRQ (p : Nat) : Nat := 0xC00030 + 0x10000 * p
def F.HANK_IRQ_UP : Fld := ⟨0, 0⟩
def F.HANK_IRQ_DOWN : Fld := ⟨1, 1⟩
def F.HANK_IRQ_DEGRADED : Fld := ⟨2, 2⟩
def F.HANK_IRQ_RETRYRATE : Fld := ⟨3, 3⟩
def F.HANK_IRQ_EN : Fld := ⟨11, 8⟩
def F.HANK_IRQ_MSIVEC : Fld := ⟨26, 16⟩
def F.HANK_IRQ_MSI_EN : Fld := ⟨31, 31⟩
def R.HANK_TESTERR (p : Nat) : Nat := 0xC00038 + 0x10000 * p
def F.HANK_TESTERR_COUNT : Fld := ⟨63, 0⟩
def R.HANK_FECCORR (p : Nat) : Nat := 0xC00100 + 0x10000 * p
def F.HANK_FECCORR_COUNT : Fld := ⟨63, 0⟩
def R.HANK_FECUNC (p : Nat) : Nat := 0xC00108 + 0x10000 * p
def F.HANK_FECUNC_COUNT : Fld := ⟨63, 0⟩
def R.HANK_CRCERR (p : Nat) : Nat := 0xC00110 + 0x10000 * p
def F.HANK_CRCERR_COUNT : Fld := ⟨63, 0⟩
def R.HANK_RETRIES (p : Nat) : Nat := 0xC00118 + 0x10000 * p
def F.HANK_RETRIES_COUNT : Fld := ⟨63, 0⟩
def R.HANK_TXFLITS (p : Nat) : Nat := 0xC00120 + 0x10000 * p
def F.HANK_TXFLITS_COUNT : Fld := ⟨63, 0⟩
def R.HANK_RXFLITS (p : Nat) : Nat := 0xC00128 + 0x10000 * p
def F.HANK_RXFLITS_COUNT : Fld := ⟨63, 0⟩
def R.HANK_FWDMSG (p : Nat) : Nat := 0xC00130 + 0x10000 * p
def F.HANK_FWDMSG_COUNT : Fld := ⟨63, 0⟩
def R.HANK_SH_FECCORR (p : Nat) : Nat := 0xC00180 + 0x10000 * p
def F.HANK_SH_FECCORR_COUNT : Fld := ⟨63, 0⟩
def R.HANK_SH_FECUNC (p : Nat) : Nat := 0xC00188 + 0x10000 * p
def F.HANK_SH_FECUNC_COUNT : Fld := ⟨63, 0⟩
def R.HANK_SH_CRCERR (p : Nat) : Nat := 0xC00190 + 0x10000 * p
def F.HANK_SH_CRCERR_COUNT : Fld := ⟨63, 0⟩
def R.HANK_SH_RETRIES (p : Nat) : Nat := 0xC00198 + 0x10000 * p
def F.HANK_SH_RETRIES_COUNT : Fld := ⟨63, 0⟩
def R.HANK_SH_TXFLITS (p : Nat) : Nat := 0xC001A0 + 0x10000 * p
def F.HANK_SH_TXFLITS_COUNT : Fld := ⟨63, 0⟩
def R.HANK_SH_RXFLITS (p : Nat) : Nat := 0xC001A8 + 0x10000 * p
def F.HANK_SH_RXFLITS_COUNT : Fld := ⟨63, 0⟩
def R.HANK_SH_FWDMSG (p : Nat) : Nat := 0xC001B0 + 0x10000 * p
def F.HANK_SH_FWDMSG_COUNT : Fld := ⟨63, 0⟩

/-! ### MEM (R355) -/

def R.MEM_CTRL (s : Nat) : Nat := 0x1000000 + 0x10000 * s
def F.MEM_CTRL_FLUSH : Fld := ⟨0, 0⟩
def F.MEM_CTRL_SCRUBEN : Fld := ⟨1, 1⟩
def F.MEM_CTRL_AUTORES : Fld := ⟨2, 2⟩
def F.MEM_CTRL_RESUME : Fld := ⟨3, 3⟩
def R.MEM_STAT (s : Nat) : Nat := 0x1000008 + 0x10000 * s
def F.MEM_STAT_STATE : Fld := ⟨2, 0⟩
def F.MEM_STAT_TLEVEL : Fld := ⟨4, 3⟩
def F.MEM_STAT_FLUSHING : Fld := ⟨5, 5⟩
def F.MEM_STAT_WCUSED : Fld := ⟨15, 6⟩
def F.MEM_STAT_REFX2 : Fld := ⟨16, 16⟩
def R.MEM_WCCFG (s : Nat) : Nat := 0x1000010 + 0x10000 * s
def F.MEM_WCCFG_AGE : Fld := ⟨15, 0⟩
def F.MEM_WCCFG_HIWM : Fld := ⟨24, 16⟩
def R.MEM_SCRUB (s : Nat) : Nat := 0x1000018 + 0x10000 * s
def F.MEM_SCRUB_SCRUBINT : Fld := ⟨15, 0⟩
def F.MEM_SCRUB_PTRPCH : Fld := ⟨21, 16⟩
def F.MEM_SCRUB_PTRL : Fld := ⟨44, 22⟩
def R.MEM_TEMP (s : Nat) : Nat := 0x1000020 + 0x10000 * s
def F.MEM_TEMP_MAXT : Fld := ⟨9, 0⟩
def F.MEM_TEMP_BDMAX : Fld := ⟨25, 16⟩
def F.MEM_TEMP_DRMAX : Fld := ⟨41, 32⟩
def F.MEM_TEMP_DRDIE : Fld := ⟨51, 48⟩
def R.MEM_BDTEMP (s : Nat) : Nat := 0x1000028 + 0x10000 * s
def F.MEM_BDTEMP_S0 : Fld := ⟨9, 0⟩
def F.MEM_BDTEMP_S1 : Fld := ⟨25, 16⟩
def F.MEM_BDTEMP_S2 : Fld := ⟨41, 32⟩
def F.MEM_BDTEMP_S3 : Fld := ⟨57, 48⟩
def R.MEM_DRTEMP (s i : Nat) : Nat := 0x1000030 + 0x10000 * s + 0x8 * i
def F.MEM_DRTEMP_D0 : Fld := ⟨9, 0⟩
def F.MEM_DRTEMP_D1 : Fld := ⟨25, 16⟩
def F.MEM_DRTEMP_D2 : Fld := ⟨41, 32⟩
def F.MEM_DRTEMP_D3 : Fld := ⟨57, 48⟩
def R.MEM_ECCERR (s : Nat) : Nat := 0x1000060 + 0x10000 * s
def F.MEM_ECCERR_VALID : Fld := ⟨0, 0⟩
def F.MEM_ECCERR_PCH : Fld := ⟨6, 1⟩
def F.MEM_ECCERR_SID : Fld := ⟨8, 7⟩
def F.MEM_ECCERR_BG : Fld := ⟨10, 9⟩
def F.MEM_ECCERR_BA : Fld := ⟨12, 11⟩
def F.MEM_ECCERR_ROW : Fld := ⟨27, 13⟩
def F.MEM_ECCERR_COL : Fld := ⟨29, 28⟩
def F.MEM_ECCERR_BURST : Fld := ⟨32, 30⟩
def F.MEM_ECCERR_AGENT : Fld := ⟨35, 33⟩
def R.MEM_RETIRE (s : Nat) : Nat := 0x1000068 + 0x10000 * s
def F.MEM_RETIRE_PCH : Fld := ⟨5, 0⟩
def F.MEM_RETIRE_SID : Fld := ⟨7, 6⟩
def F.MEM_RETIRE_BG : Fld := ⟨9, 8⟩
def F.MEM_RETIRE_BA : Fld := ⟨11, 10⟩
def F.MEM_RETIRE_ROW : Fld := ⟨26, 12⟩
def F.MEM_RETIRE_GO : Fld := ⟨32, 32⟩
def F.MEM_RETIRE_RSTAT : Fld := ⟨34, 33⟩
def F.MEM_RETIRE_REASON : Fld := ⟨38, 35⟩
def F.MEM_RETIRE_SPARES : Fld := ⟨44, 40⟩
def R.MEM_SPARE (s : Nat) : Nat := 0x1000070 + 0x10000 * s
def F.MEM_SPARE_PCH : Fld := ⟨5, 0⟩
def F.MEM_SPARE_GO : Fld := ⟨8, 8⟩
def F.MEM_SPARE_SSTAT : Fld := ⟨10, 9⟩
def F.MEM_SPARE_REASON : Fld := ⟨13, 11⟩
def F.MEM_SPARE_USED : Fld := ⟨14, 14⟩
def F.MEM_SPARE_SPARED : Fld := ⟨20, 15⟩
def F.MEM_SPARE_PTR : Fld := ⟨43, 21⟩
def F.MEM_SPARE_COPYPCT : Fld := ⟨51, 44⟩
def R.MEM_PCOOS (s : Nat) : Nat := 0x1000078 + 0x10000 * s
def F.MEM_PCOOS_OOS : Fld := ⟨63, 0⟩
def R.MEM_PCFENCE (s : Nat) : Nat := 0x1000080 + 0x10000 * s
def F.MEM_PCFENCE_PCH : Fld := ⟨5, 0⟩
def F.MEM_PCFENCE_FENCE : Fld := ⟨8, 8⟩
def R.MEM_MARGIN (s : Nat) : Nat := 0x1000088 + 0x10000 * s
def F.MEM_MARGIN_PCH : Fld := ⟨5, 0⟩
def F.MEM_MARGIN_MODE : Fld := ⟨7, 6⟩
def F.MEM_MARGIN_OFFSET : Fld := ⟨15, 8⟩
def F.MEM_MARGIN_START : Fld := ⟨16, 16⟩
def F.MEM_MARGIN_DONE : Fld := ⟨17, 17⟩
def F.MEM_MARGIN_MSTAT : Fld := ⟨19, 18⟩
def F.MEM_MARGIN_PATTERN : Fld := ⟨23, 20⟩
def F.MEM_MARGIN_BURSTS : Fld := ⟨55, 24⟩
def R.MEM_MARGRES (s : Nat) : Nat := 0x1000090 + 0x10000 * s
def F.MEM_MARGRES_ERRBURSTS : Fld := ⟨31, 0⟩
def F.MEM_MARGRES_LANEERR : Fld := ⟨63, 32⟩
def R.MEM_IRQ (s : Nat) : Nat := 0x1000098 + 0x10000 * s
def F.MEM_IRQ_WARM : Fld := ⟨0, 0⟩
def F.MEM_IRQ_HOT : Fld := ⟨1, 1⟩
def F.MEM_IRQ_CRIT : Fld := ⟨2, 2⟩
def F.MEM_IRQ_UE : Fld := ⟨3, 3⟩
def F.MEM_IRQ_RETIRED : Fld := ⟨4, 4⟩
def F.MEM_IRQ_SPARED : Fld := ⟨5, 5⟩
def F.MEM_IRQ_MARGIN : Fld := ⟨6, 6⟩
def F.MEM_IRQ_FAILED : Fld := ⟨7, 7⟩
def F.MEM_IRQ_EN : Fld := ⟨15, 8⟩
def F.MEM_IRQ_MSIVEC : Fld := ⟨26, 16⟩
def F.MEM_IRQ_MSI_EN : Fld := ⟨31, 31⟩
def R.MEM_CE (s : Nat) : Nat := 0x1000100 + 0x10000 * s
def F.MEM_CE_COUNT : Fld := ⟨63, 0⟩
def R.MEM_UE (s : Nat) : Nat := 0x1000108 + 0x10000 * s
def F.MEM_UE_COUNT : Fld := ⟨63, 0⟩
def R.MEM_RDBYTES (s : Nat) : Nat := 0x1000110 + 0x10000 * s
def F.MEM_RDBYTES_COUNT : Fld := ⟨63, 0⟩
def R.MEM_WRBYTES (s : Nat) : Nat := 0x1000118 + 0x10000 * s
def F.MEM_WRBYTES_COUNT : Fld := ⟨63, 0⟩
def R.MEM_WCWAIT (s : Nat) : Nat := 0x1000120 + 0x10000 * s
def F.MEM_WCWAIT_COUNT : Fld := ⟨63, 0⟩
def R.MEM_FENCEERR (s : Nat) : Nat := 0x1000128 + 0x10000 * s
def F.MEM_FENCEERR_COUNT : Fld := ⟨63, 0⟩
def R.MEM_HOTNS (s : Nat) : Nat := 0x1000130 + 0x10000 * s
def F.MEM_HOTNS_COUNT : Fld := ⟨63, 0⟩
def R.MEM_SH_CE (s : Nat) : Nat := 0x1000180 + 0x10000 * s
def F.MEM_SH_CE_COUNT : Fld := ⟨63, 0⟩
def R.MEM_SH_UE (s : Nat) : Nat := 0x1000188 + 0x10000 * s
def F.MEM_SH_UE_COUNT : Fld := ⟨63, 0⟩
def R.MEM_SH_RDBYTES (s : Nat) : Nat := 0x1000190 + 0x10000 * s
def F.MEM_SH_RDBYTES_COUNT : Fld := ⟨63, 0⟩
def R.MEM_SH_WRBYTES (s : Nat) : Nat := 0x1000198 + 0x10000 * s
def F.MEM_SH_WRBYTES_COUNT : Fld := ⟨63, 0⟩
def R.MEM_SH_WCWAIT (s : Nat) : Nat := 0x10001A0 + 0x10000 * s
def F.MEM_SH_WCWAIT_COUNT : Fld := ⟨63, 0⟩
def R.MEM_SH_FENCEERR (s : Nat) : Nat := 0x10001A8 + 0x10000 * s
def F.MEM_SH_FENCEERR_COUNT : Fld := ⟨63, 0⟩
def R.MEM_SH_HOTNS (s : Nat) : Nat := 0x10001B0 + 0x10000 * s
def F.MEM_SH_HOTNS_COUNT : Fld := ⟨63, 0⟩

/-! ### SPINDLE (R103, R231, R267, R299, R325) -/

def R.SPINDLE_TCTL (n i : Nat) : Nat := 0x2000000 + 0x100000 * n + 0x80 * i
def F.SPINDLE_TCTL_START : Fld := ⟨0, 0⟩
def F.SPINDLE_TCTL_HALT : Fld := ⟨1, 1⟩
def R.SPINDLE_TPC (n i : Nat) : Nat := 0x2000008 + 0x100000 * n + 0x80 * i
def F.SPINDLE_TPC_PC : Fld := ⟨47, 2⟩
def R.SPINDLE_TSTAT (n i : Nat) : Nat := 0x2000010 + 0x100000 * n + 0x80 * i
def F.SPINDLE_TSTAT_STATE : Fld := ⟨2, 0⟩
def F.SPINDLE_TSTAT_WORLD : Fld := ⟨3, 3⟩
def F.SPINDLE_TSTAT_LEVEL : Fld := ⟨4, 4⟩
def F.SPINDLE_TSTAT_TX : Fld := ⟨5, 5⟩
def F.SPINDLE_TSTAT_REFUSED : Fld := ⟨6, 6⟩
def R.SPINDLE_ISSUED (n i : Nat) : Nat := 0x2000018 + 0x100000 * n + 0x80 * i
def F.SPINDLE_ISSUED_COUNT : Fld := ⟨63, 0⟩
def R.SPINDLE_PAIRED (n i : Nat) : Nat := 0x2000020 + 0x100000 * n + 0x80 * i
def F.SPINDLE_PAIRED_COUNT : Fld := ⟨63, 0⟩
def R.SPINDLE_TXABORT (n i : Nat) : Nat := 0x2000028 + 0x100000 * n + 0x80 * i
def F.SPINDLE_TXABORT_COUNT : Fld := ⟨31, 0⟩
def R.SPINDLE_SH_ISSUED (n i : Nat) : Nat := 0x2000030 + 0x100000 * n + 0x80 * i
def F.SPINDLE_SH_ISSUED_COUNT : Fld := ⟨63, 0⟩
def R.SPINDLE_SH_PAIRED (n i : Nat) : Nat := 0x2000038 + 0x100000 * n + 0x80 * i
def F.SPINDLE_SH_PAIRED_COUNT : Fld := ⟨63, 0⟩
def R.SPINDLE_SH_TXABORT (n i : Nat) : Nat := 0x2000040 + 0x100000 * n + 0x80 * i
def F.SPINDLE_SH_TXABORT_COUNT : Fld := ⟨63, 0⟩
def R.SPINDLE_GREG (n i j : Nat) : Nat := 0x2000800 + 0x100000 * n + 0x200 * i + 0x8 * j
def F.SPINDLE_GREG_VALUE : Fld := ⟨63, 0⟩
def R.SPINDLE_VGROUPS (n : Nat) : Nat := 0x2001000 + 0x100000 * n
def F.SPINDLE_VGROUPS_COUNT : Fld := ⟨63, 0⟩
def R.SPINDLE_VSTOPS (n : Nat) : Nat := 0x2001008 + 0x100000 * n
def F.SPINDLE_VSTOPS_COUNT : Fld := ⟨63, 0⟩
def R.SPINDLE_SH_VGROUPS (n : Nat) : Nat := 0x2001010 + 0x100000 * n
def F.SPINDLE_SH_VGROUPS_COUNT : Fld := ⟨63, 0⟩
def R.SPINDLE_SH_VSTOPS (n : Nat) : Nat := 0x2001018 + 0x100000 * n
def F.SPINDLE_SH_VSTOPS_COUNT : Fld := ⟨63, 0⟩
def R.SPINDLE_MTILE (n i : Nat) : Nat := 0x2002000 + 0x100000 * n + 0x8 * i
def F.SPINDLE_MTILE_STATE : Fld := ⟨1, 0⟩
def F.SPINDLE_MTILE_OWNED : Fld := ⟨2, 2⟩
def F.SPINDLE_MTILE_OWNER : Fld := ⟨4, 3⟩
def F.SPINDLE_MTILE_OWNWORLD : Fld := ⟨5, 5⟩
def F.SPINDLE_MTILE_DPEND : Fld := ⟨6, 6⟩
def F.SPINDLE_MTILE_POISON : Fld := ⟨7, 7⟩
def F.SPINDLE_MTILE_BOUND : Fld := ⟨8, 8⟩
def F.SPINDLE_MTILE_SHAPE : Fld := ⟨10, 9⟩
def F.SPINDLE_MTILE_PAIR : Fld := ⟨11, 11⟩
def F.SPINDLE_MTILE_WIDE : Fld := ⟨12, 12⟩
def F.SPINDLE_MTILE_AFMT : Fld := ⟨16, 13⟩
def F.SPINDLE_MTILE_WFMT : Fld := ⟨20, 17⟩
def F.SPINDLE_MTILE_QUEUED : Fld := ⟨23, 21⟩
def F.SPINDLE_MTILE_RELEASING : Fld := ⟨24, 24⟩
def F.SPINDLE_MTILE_FREL : Fld := ⟨32, 32⟩
def R.SPINDLE_MBUF (n i : Nat) : Nat := 0x2002020 + 0x100000 * n + 0x8 * i
def F.SPINDLE_MBUF_S0STATE : Fld := ⟨1, 0⟩
def F.SPINDLE_MBUF_S1STATE : Fld := ⟨3, 2⟩
def F.SPINDLE_MBUF_S0LEN : Fld := ⟨22, 4⟩
def F.SPINDLE_MBUF_S1LEN : Fld := ⟨41, 23⟩
def R.SPINDLE_MRES (n : Nat) : Nat := 0x2002030 + 0x100000 * n
def F.SPINDLE_MRES_VALID : Fld := ⟨0, 0⟩
def F.SPINDLE_MRES_TILE : Fld := ⟨2, 1⟩
def F.SPINDLE_MRES_KIND : Fld := ⟨3, 3⟩
def F.SPINDLE_MRES_ROW : Fld := ⟨10, 4⟩
def F.SPINDLE_MRES_COL : Fld := ⟨19, 11⟩
def F.SPINDLE_MRES_QUARTER : Fld := ⟨21, 20⟩
def F.SPINDLE_MRES_KGRP : Fld := ⟨37, 22⟩
def F.SPINDLE_MRES_AFMT : Fld := ⟨41, 38⟩
def F.SPINDLE_MRES_QSUSPECT : Fld := ⟨49, 42⟩
def R.SPINDLE_MRESCFG (n : Nat) : Nat := 0x2002038 + 0x100000 * n
def F.SPINDLE_MRESCFG_EN : Fld := ⟨0, 0⟩
def F.SPINDLE_MRESCFG_TRAP_EN : Fld := ⟨1, 1⟩
def F.SPINDLE_MRESCFG_THRESH : Fld := ⟨15, 8⟩
def R.SPINDLE_MOPS (n : Nat) : Nat := 0x2002040 + 0x100000 * n
def F.SPINDLE_MOPS_COUNT : Fld := ⟨63, 0⟩
def R.SPINDLE_MBUSY (n i : Nat) : Nat := 0x2002048 + 0x100000 * n + 0x8 * i
def F.SPINDLE_MBUSY_COUNT : Fld := ⟨63, 0⟩
def R.SPINDLE_MSTALL (n i : Nat) : Nat := 0x2002058 + 0x100000 * n + 0x8 * i
def F.SPINDLE_MSTALL_COUNT : Fld := ⟨63, 0⟩
def R.SPINDLE_MRESCNT (n : Nat) : Nat := 0x2002068 + 0x100000 * n
def F.SPINDLE_MRESCNT_COUNT : Fld := ⟨63, 0⟩
def R.SPINDLE_SH_MOPS (n : Nat) : Nat := 0x2002080 + 0x100000 * n
def F.SPINDLE_SH_MOPS_COUNT : Fld := ⟨63, 0⟩
def R.SPINDLE_SH_MBUSY (n i : Nat) : Nat := 0x2002088 + 0x100000 * n + 0x8 * i
def F.SPINDLE_SH_MBUSY_COUNT : Fld := ⟨63, 0⟩
def R.SPINDLE_SH_MSTALL (n i : Nat) : Nat := 0x2002098 + 0x100000 * n + 0x8 * i
def F.SPINDLE_SH_MSTALL_COUNT : Fld := ⟨63, 0⟩
def R.SPINDLE_SH_MRESCNT (n : Nat) : Nat := 0x20020A8 + 0x100000 * n
def F.SPINDLE_SH_MRESCNT_COUNT : Fld := ⟨63, 0⟩
def R.SPINDLE_DRAINS (n : Nat) : Nat := 0x2002100 + 0x100000 * n
def F.SPINDLE_DRAINS_COUNT : Fld := ⟨63, 0⟩
def R.SPINDLE_DSTALL (n i : Nat) : Nat := 0x2002108 + 0x100000 * n + 0x8 * i
def F.SPINDLE_DSTALL_COUNT : Fld := ⟨63, 0⟩
def R.SPINDLE_DFAIL (n : Nat) : Nat := 0x2002118 + 0x100000 * n
def F.SPINDLE_DFAIL_COUNT : Fld := ⟨63, 0⟩
def R.SPINDLE_SH_DRAINS (n : Nat) : Nat := 0x2002140 + 0x100000 * n
def F.SPINDLE_SH_DRAINS_COUNT : Fld := ⟨63, 0⟩
def R.SPINDLE_SH_DSTALL (n i : Nat) : Nat := 0x2002148 + 0x100000 * n + 0x8 * i
def F.SPINDLE_SH_DSTALL_COUNT : Fld := ⟨63, 0⟩
def R.SPINDLE_SH_DFAIL (n : Nat) : Nat := 0x2002158 + 0x100000 * n
def F.SPINDLE_SH_DFAIL_COUNT : Fld := ⟨63, 0⟩
def R.SPINDLE_PANCFG (n : Nat) : Nat := 0x2003000 + 0x100000 * n
def F.SPINDLE_PANCFG_SCRUBEN : Fld := ⟨0, 0⟩
def F.SPINDLE_PANCFG_SCRUBINT : Fld := ⟨23, 8⟩
def R.SPINDLE_PANERR (n : Nat) : Nat := 0x2003008 + 0x100000 * n
def F.SPINDLE_PANERR_VALID : Fld := ⟨0, 0⟩
def F.SPINDLE_PANERR_OFF : Fld := ⟨26, 3⟩
def F.SPINDLE_PANERR_AGENT : Fld := ⟨31, 28⟩
def R.SPINDLE_L1DCTL (n : Nat) : Nat := 0x2003010 + 0x100000 * n
def F.SPINDLE_L1DCTL_LOCKED : Fld := ⟨2, 0⟩
def F.SPINDLE_L1DCTL_FILL_EN : Fld := ⟨4, 4⟩
def F.SPINDLE_L1DCTL_FILLWAY : Fld := ⟨6, 5⟩
def F.SPINDLE_L1DCTL_PFDIS : Fld := ⟨8, 8⟩
def F.SPINDLE_L1DCTL_WAYDIS : Fld := ⟨12, 9⟩
def F.SPINDLE_L1DCTL_PFPEND : Fld := ⟨23, 16⟩
def R.SPINDLE_L1ICTL (n : Nat) : Nat := 0x2003018 + 0x100000 * n
def F.SPINDLE_L1ICTL_LOCKED : Fld := ⟨2, 0⟩
def F.SPINDLE_L1ICTL_FILL_EN : Fld := ⟨4, 4⟩
def F.SPINDLE_L1ICTL_FILLWAY : Fld := ⟨6, 5⟩
def F.SPINDLE_L1ICTL_PFDIS : Fld := ⟨8, 8⟩
def F.SPINDLE_L1ICTL_WAYDIS : Fld := ⟨12, 9⟩
def F.SPINDLE_L1ICTL_PFPEND : Fld := ⟨23, 16⟩
def R.SPINDLE_L1DSEED (n : Nat) : Nat := 0x2003020 + 0x100000 * n
def F.SPINDLE_L1DSEED_STATE : Fld := ⟨15, 0⟩
def R.SPINDLE_L1ISEED (n : Nat) : Nat := 0x2003028 + 0x100000 * n
def F.SPINDLE_L1ISEED_STATE : Fld := ⟨15, 0⟩
def R.SPINDLE_L1DMISS (n : Nat) : Nat := 0x2003040 + 0x100000 * n
def F.SPINDLE_L1DMISS_COUNT : Fld := ⟨63, 0⟩
def R.SPINDLE_L1IMISS (n : Nat) : Nat := 0x2003048 + 0x100000 * n
def F.SPINDLE_L1IMISS_COUNT : Fld := ⟨63, 0⟩
def R.SPINDLE_L1PERR (n : Nat) : Nat := 0x2003050 + 0x100000 * n
def F.SPINDLE_L1PERR_COUNT : Fld := ⟨63, 0⟩
def R.SPINDLE_PANCE (n : Nat) : Nat := 0x2003058 + 0x100000 * n
def F.SPINDLE_PANCE_COUNT : Fld := ⟨63, 0⟩
def R.SPINDLE_PANUE (n : Nat) : Nat := 0x2003060 + 0x100000 * n
def F.SPINDLE_PANUE_COUNT : Fld := ⟨63, 0⟩
def R.SPINDLE_SH_L1DMISS (n : Nat) : Nat := 0x2003080 + 0x100000 * n
def F.SPINDLE_SH_L1DMISS_COUNT : Fld := ⟨63, 0⟩
def R.SPINDLE_SH_L1IMISS (n : Nat) : Nat := 0x2003088 + 0x100000 * n
def F.SPINDLE_SH_L1IMISS_COUNT : Fld := ⟨63, 0⟩
def R.SPINDLE_SH_L1PERR (n : Nat) : Nat := 0x2003090 + 0x100000 * n
def F.SPINDLE_SH_L1PERR_COUNT : Fld := ⟨63, 0⟩
def R.SPINDLE_SH_PANCE (n : Nat) : Nat := 0x2003098 + 0x100000 * n
def F.SPINDLE_SH_PANCE_COUNT : Fld := ⟨63, 0⟩
def R.SPINDLE_SH_PANUE (n : Nat) : Nat := 0x20030A0 + 0x100000 * n
def F.SPINDLE_SH_PANUE_COUNT : Fld := ⟨63, 0⟩

/-! ### RTT (R387) -/

def R.RTT_CTRL : Nat := 0x3000000
def F.RTT_CTRL_EN : Fld := ⟨0, 0⟩
def F.RTT_CTRL_FLUSHALL : Fld := ⟨1, 1⟩
def R.RTT_PASID : Nat := 0x3000008
def F.RTT_PASID_VALUE : Fld := ⟨19, 0⟩
def F.RTT_PASID_EN : Fld := ⟨20, 20⟩
def R.RTT_CFG : Nat := 0x3000010
def F.RTT_CFG_AHEAD : Fld := ⟨3, 0⟩
def F.RTT_CFG_MAXREQ : Fld := ⟨16, 8⟩
def R.RTT_STAT : Nat := 0x3000018
def F.RTT_STAT_USED : Fld := ⟨19, 0⟩
def F.RTT_STAT_FLUSHING : Fld := ⟨20, 20⟩
def F.RTT_STAT_INVPEND : Fld := ⟨37, 32⟩
def R.RTT_ATSREQ : Nat := 0x3000020
def F.RTT_ATSREQ_COUNT : Fld := ⟨63, 0⟩
def R.RTT_INVAL : Nat := 0x3000028
def F.RTT_INVAL_COUNT : Fld := ⟨63, 0⟩
def R.RTT_SPLITS : Nat := 0x3000030
def F.RTT_SPLITS_COUNT : Fld := ⟨63, 0⟩
def R.RTT_EVICT : Nat := 0x3000038
def F.RTT_EVICT_COUNT : Fld := ⟨63, 0⟩
def R.RTT_COALESCE : Nat := 0x3000040
def F.RTT_COALESCE_COUNT : Fld := ⟨63, 0⟩
def R.RTT_SH_ATSREQ : Nat := 0x3000080
def F.RTT_SH_ATSREQ_COUNT : Fld := ⟨63, 0⟩
def R.RTT_SH_INVAL : Nat := 0x3000088
def F.RTT_SH_INVAL_COUNT : Fld := ⟨63, 0⟩
def R.RTT_SH_SPLITS : Nat := 0x3000090
def F.RTT_SH_SPLITS_COUNT : Fld := ⟨63, 0⟩
def R.RTT_SH_EVICT : Nat := 0x3000098
def F.RTT_SH_EVICT_COUNT : Fld := ⟨63, 0⟩
def R.RTT_SH_COALESCE : Nat := 0x30000A0
def F.RTT_SH_COALESCE_COUNT : Fld := ⟨63, 0⟩
def R.RTT_RCMISS (i : Nat) : Nat := 0x3001000 + 0x8 * i
def F.RTT_RCMISS_COUNT : Fld := ⟨63, 0⟩
def R.RTT_SH_RCMISS (i : Nat) : Nat := 0x3001100 + 0x8 * i
def F.RTT_SH_RCMISS_COUNT : Fld := ⟨63, 0⟩

/-! ### SEC (R567) -/

def R.SEC_STAT : Nat := 0x3400000
def F.SEC_STAT_LIFECYCLE : Fld := ⟨1, 0⟩
def F.SEC_STAT_DEBUG : Fld := ⟨2, 2⟩
def F.SEC_STAT_SEALED : Fld := ⟨5, 4⟩
def F.SEC_STAT_BOOTKEY : Fld := ⟨7, 6⟩
def F.SEC_STAT_REVOKED : Fld := ⟨11, 8⟩
def R.SEC_CMD : Nat := 0x3400008
def F.SEC_CMD_OP : Fld := ⟨3, 0⟩
def F.SEC_CMD_ARG : Fld := ⟨15, 8⟩
def F.SEC_CMD_GO : Fld := ⟨16, 16⟩
def F.SEC_CMD_BUSY : Fld := ⟨17, 17⟩
def F.SEC_CMD_RESULT : Fld := ⟨23, 20⟩
def R.SEC_CMDADDR : Nat := 0x3400010
def F.SEC_CMDADDR_VALUE : Fld := ⟨63, 0⟩
def R.SEC_IDHASH (i : Nat) : Nat := 0x3400040 + 0x8 * i
def F.SEC_IDHASH_HASH : Fld := ⟨63, 0⟩
def R.SEC_ARCTR (i : Nat) : Nat := 0x3400100 + 0x8 * i
def F.SEC_ARCTR_VALUE : Fld := ⟨6, 0⟩
def R.SEC_TKEY_KEY (i j : Nat) : Nat := 0x3400300 + 0x40 * i + 0x8 * j
def F.SEC_TKEY_KEY_KEY : Fld := ⟨63, 0⟩
def R.SEC_TKEY_CTL (i : Nat) : Nat := 0x3400320 + 0x40 * i
def F.SEC_TKEY_CTL_FIXED : Fld := ⟨31, 0⟩
def F.SEC_TKEY_CTL_VALID : Fld := ⟨32, 32⟩
def F.SEC_TKEY_CTL_MONO : Fld := ⟨33, 33⟩
def R.SEC_TKEY_TXSEQ (i : Nat) : Nat := 0x3400328 + 0x40 * i
def F.SEC_TKEY_TXSEQ_SEQ : Fld := ⟨63, 0⟩
def R.SEC_TKEY_RXSEQ (i : Nat) : Nat := 0x3400330 + 0x40 * i
def F.SEC_TKEY_RXSEQ_SEQ : Fld := ⟨63, 0⟩
def R.SEC_SREGION (i : Nat) : Nat := 0x3400700 + 0x8 * i
def F.SEC_SREGION_EN : Fld := ⟨0, 0⟩
def F.SEC_SREGION_ENC : Fld := ⟨1, 1⟩
def F.SEC_SREGION_BASE : Fld := ⟨21, 2⟩
def F.SEC_SREGION_LIMIT : Fld := ⟨41, 22⟩
def R.SEC_SPAN : Nat := 0x3400780
def F.SEC_SPAN_PANS : Fld := ⟨11, 0⟩
def R.SEC_QKEY (i : Nat) : Nat := 0x3400800 + 0x8 * i
def F.SEC_QKEY_SLOT : Fld := ⟨15, 0⟩
def F.SEC_QKEY_SEAL : Fld := ⟨19, 16⟩
def R.SEC_FKEY_KEY (i j : Nat) : Nat := 0x3400A00 + 0x40 * i + 0x8 * j
def F.SEC_FKEY_KEY_KEY : Fld := ⟨63, 0⟩
def R.SEC_FKEY_CTL (i : Nat) : Nat := 0x3400A20 + 0x40 * i
def F.SEC_FKEY_CTL_VALID : Fld := ⟨0, 0⟩
def R.SEC_FCTL : Nat := 0x3400A80
def F.SEC_FCTL_TXKEY : Fld := ⟨0, 0⟩
def F.SEC_FCTL_EXTKEY : Fld := ⟨1, 1⟩
def R.SEC_FSEQ : Nat := 0x3400A88
def F.SEC_FSEQ_NONCE : Fld := ⟨63, 0⟩
def R.SEC_AUTHFAIL : Nat := 0x3400C00
def F.SEC_AUTHFAIL_COUNT : Fld := ⟨63, 0⟩
def R.SEC_FAUTHFAIL : Nat := 0x3400C08
def F.SEC_FAUTHFAIL_COUNT : Fld := ⟨63, 0⟩
def R.SEC_SH_AUTHFAIL : Nat := 0x3400C40
def F.SEC_SH_AUTHFAIL_COUNT : Fld := ⟨63, 0⟩
def R.SEC_SH_FAUTHFAIL : Nat := 0x3400C48
def F.SEC_SH_FAUTHFAIL_COUNT : Fld := ⟨63, 0⟩

/-! ### MC (R590) -/

def R.MC_ERRSTAT : Nat := 0x3800000
def F.MC_ERRSTAT_FATAL : Fld := ⟨0, 0⟩
def F.MC_ERRSTAT_FSRC : Fld := ⟨7, 4⟩
def F.MC_ERRSTAT_STKFATAL : Fld := ⟨31, 8⟩
def R.MC_ERRBASE : Nat := 0x3800008
def F.MC_ERRBASE_ADDR : Fld := ⟨47, 6⟩
def R.MC_ERRCFG : Nat := 0x3800010
def F.MC_ERRCFG_EN : Fld := ⟨0, 0⟩
def F.MC_ERRCFG_SIZE : Fld := ⟨5, 1⟩
def F.MC_ERRCFG_CETHRESH : Fld := ⟨31, 16⟩
def R.MC_ERRHEAD : Nat := 0x3800018
def F.MC_ERRHEAD_INDEX : Fld := ⟨31, 0⟩
def R.MC_ERRTAIL : Nat := 0x3800020
def F.MC_ERRTAIL_INDEX : Fld := ⟨31, 0⟩
def R.MC_FMCFG : Nat := 0x3800028
def F.MC_FMCFG_COLL_EN : Fld := ⟨0, 0⟩
def F.MC_FMCFG_COLLECTOR : Fld := ⟨15, 4⟩
def F.MC_FMCFG_CHAN : Fld := ⟨31, 16⟩
def F.MC_FMCFG_WINDOW : Fld := ⟨47, 32⟩
def R.MC_FMSTAT : Nat := 0x3800030
def F.MC_FMSTAT_USED : Fld := ⟨8, 0⟩
def F.MC_FMSTAT_RFULL : Fld := ⟨9, 9⟩
def F.MC_FMSTAT_FREEERR : Fld := ⟨10, 10⟩
def F.MC_FMSTAT_HEADERR : Fld := ⟨11, 11⟩
def F.MC_FMSTAT_LOGLOST : Fld := ⟨12, 12⟩
def R.MC_FMFREE : Nat := 0x3800038
def F.MC_FMFREE_ENTRY : Fld := ⟨7, 0⟩
def R.MC_IRQ : Nat := 0x3800040
def F.MC_IRQ_REC : Fld := ⟨0, 0⟩
def F.MC_IRQ_FATAL : Fld := ⟨1, 1⟩
def F.MC_IRQ_OVF : Fld := ⟨2, 2⟩
def F.MC_IRQ_REPAIR : Fld := ⟨3, 3⟩
def F.MC_IRQ_EN : Fld := ⟨11, 8⟩
def F.MC_IRQ_MSIVEC : Fld := ⟨26, 16⟩
def F.MC_IRQ_MSI_EN : Fld := ⟨31, 31⟩
def R.MC_REPCMD : Nat := 0x3800048
def F.MC_REPCMD_OP : Fld := ⟨3, 0⟩
def F.MC_REPCMD_SCOPE : Fld := ⟨4, 4⟩
def F.MC_REPCMD_PERSIST : Fld := ⟨5, 5⟩
def F.MC_REPCMD_ARG : Fld := ⟨19, 8⟩
def F.MC_REPCMD_GO : Fld := ⟨20, 20⟩
def F.MC_REPCMD_BUSY : Fld := ⟨21, 21⟩
def F.MC_REPCMD_RESULT : Fld := ⟨27, 24⟩
def R.MC_REPADDR : Nat := 0x3800050
def F.MC_REPADDR_ADDR : Fld := ⟨47, 0⟩
def R.MC_FENCED : Nat := 0x3800058
def F.MC_FENCED_SPINDLES : Fld := ⟨11, 0⟩
def F.MC_FENCED_PANOUT : Fld := ⟨27, 16⟩
def R.MC_FWSTAT : Nat := 0x3800060
def F.MC_FWSTAT_RUNSLOT : Fld := ⟨0, 0⟩
def F.MC_FWSTAT_SLOTOK : Fld := ⟨2, 1⟩
def F.MC_FWSTAT_FALLBACK : Fld := ⟨3, 3⟩
def F.MC_FWSTAT_VERA : Fld := ⟨31, 16⟩
def F.MC_FWSTAT_VERB : Fld := ⟨47, 32⟩
def R.MC_FWSWAP : Nat := 0x3800068
def F.MC_FWSWAP_REQ : Fld := ⟨0, 0⟩
def F.MC_FWSWAP_SLOT : Fld := ⟨1, 1⟩
def R.MC_REPLOG : Nat := 0x3800070
def F.MC_REPLOG_USED : Fld := ⟨10, 0⟩
def R.MC_WDOG : Nat := 0x3800078
def F.MC_WDOG_KICK : Fld := ⟨0, 0⟩
def R.MC_REPORTS : Nat := 0x3800080
def F.MC_REPORTS_COUNT : Fld := ⟨63, 0⟩
def R.MC_RECORDS : Nat := 0x3800088
def F.MC_RECORDS_COUNT : Fld := ⟨63, 0⟩
def R.MC_FMOVF : Nat := 0x3800090
def F.MC_FMOVF_COUNT : Fld := ⟨63, 0⟩
def R.MC_REPLOST : Nat := 0x3800098
def F.MC_REPLOST_COUNT : Fld := ⟨63, 0⟩
def R.MC_SWAPS : Nat := 0x38000A0
def F.MC_SWAPS_COUNT : Fld := ⟨63, 0⟩
def R.MC_SH_REPORTS : Nat := 0x38000C0
def F.MC_SH_REPORTS_COUNT : Fld := ⟨63, 0⟩
def R.MC_SH_RECORDS : Nat := 0x38000C8
def F.MC_SH_RECORDS_COUNT : Fld := ⟨63, 0⟩
def R.MC_SH_FMOVF : Nat := 0x38000D0
def F.MC_SH_FMOVF_COUNT : Fld := ⟨63, 0⟩
def R.MC_SH_REPLOST : Nat := 0x38000D8
def F.MC_SH_REPLOST_COUNT : Fld := ⟨63, 0⟩
def R.MC_SH_SWAPS : Nat := 0x38000E0
def F.MC_SH_SWAPS_COUNT : Fld := ⟨63, 0⟩
def R.MC_FMT (i j : Nat) : Nat := 0x3810000 + 0x400 * i + 0x8 * j
def F.MC_FMT_WORD : Fld := ⟨63, 0⟩
def R.MC_FMT_MAP (i j : Nat) : Nat := 0x3810200 + 0x400 * i + 0x8 * j
def F.MC_FMT_MAP_MAP : Fld := ⟨63, 0⟩

/-! ### PWR (R606) -/

def R.PWR_CTRL : Nat := 0x3880000
def F.PWR_CTRL_CAPEN : Fld := ⟨0, 0⟩
def F.PWR_CTRL_MODE : Fld := ⟨1, 1⟩
def F.PWR_CTRL_CAP : Fld := ⟨31, 16⟩
def F.PWR_CTRL_HYST : Fld := ⟨47, 32⟩
def F.PWR_CTRL_STEPDN : Fld := ⟨51, 48⟩
def F.PWR_CTRL_STEPUP : Fld := ⟨55, 52⟩
def R.PWR_BEAT : Nat := 0x3880010
def F.PWR_BEAT_PWR : Fld := ⟨15, 0⟩
def F.PWR_BEAT_CORE : Fld := ⟨31, 16⟩
def F.PWR_BEAT_OVER : Fld := ⟨32, 32⟩
def R.PWR_QFREQ (i : Nat) : Nat := 0x3880020 + 0x8 * i
def F.PWR_QFREQ_FMAX : Fld := ⟨6, 0⟩
def F.PWR_QFREQ_FCUR : Fld := ⟨14, 8⟩
def F.PWR_QFREQ_VCUR : Fld := ⟨25, 16⟩
def F.PWR_QFREQ_LIM : Fld := ⟨30, 28⟩
def R.PWR_ILIM (i : Nat) : Nat := 0x3880040 + 0x8 * i
def F.PWR_ILIM_AMPS : Fld := ⟨10, 0⟩
def R.PWR_ENERGY (i : Nat) : Nat := 0x3880100 + 0x8 * i
def F.PWR_ENERGY_COUNT : Fld := ⟨63, 0⟩
def R.PWR_THROTNS (i : Nat) : Nat := 0x3880180 + 0x8 * i
def F.PWR_THROTNS_COUNT : Fld := ⟨63, 0⟩
def R.PWR_SH_ENERGY (i : Nat) : Nat := 0x3880200 + 0x8 * i
def F.PWR_SH_ENERGY_COUNT : Fld := ⟨63, 0⟩
def R.PWR_SH_THROTNS (i : Nat) : Nat := 0x3880280 + 0x8 * i
def F.PWR_SH_THROTNS_COUNT : Fld := ⟨63, 0⟩
def R.PWR_VFT (i : Nat) : Nat := 0x3880300 + 0x8 * i
def F.PWR_VFT_FREQ : Fld := ⟨6, 0⟩
def F.PWR_VFT_VMIN : Fld := ⟨25, 16⟩

/-! ### THERM (R606) -/

def R.THERM_CFG : Nat := 0x3881000
def F.THERM_CFG_DWARM : Fld := ⟨9, 0⟩
def F.THERM_CFG_DHOT : Fld := ⟨25, 16⟩
def F.THERM_CFG_DCRIT : Fld := ⟨41, 32⟩
def R.THERM_STAT : Nat := 0x3881008
def F.THERM_STAT_QLEVEL : Fld := ⟨7, 0⟩
def F.THERM_STAT_THROT : Fld := ⟨11, 8⟩
def F.THERM_STAT_SENSFAIL : Fld := ⟨15, 12⟩
def F.THERM_STAT_LASTTRIP : Fld := ⟨17, 16⟩
def F.THERM_STAT_TRIPIDX : Fld := ⟨31, 24⟩
def R.THERM_IRQ : Nat := 0x3881010
def F.THERM_IRQ_WARM : Fld := ⟨0, 0⟩
def F.THERM_IRQ_HOT : Fld := ⟨1, 1⟩
def F.THERM_IRQ_CRIT : Fld := ⟨2, 2⟩
def F.THERM_IRQ_THROT : Fld := ⟨3, 3⟩
def F.THERM_IRQ_VEXC : Fld := ⟨4, 4⟩
def F.THERM_IRQ_SENSFAIL : Fld := ⟨5, 5⟩
def F.THERM_IRQ_EN : Fld := ⟨13, 8⟩
def F.THERM_IRQ_ALERTEN : Fld := ⟨21, 16⟩
def F.THERM_IRQ_MSIVEC : Fld := ⟨34, 24⟩
def F.THERM_IRQ_MSI_EN : Fld := ⟨35, 35⟩

/-! ### MON (R606) -/

def R.MON_DIETEMP (i : Nat) : Nat := 0x3890000 + 0x8 * i
def F.MON_DIETEMP_TEMP : Fld := ⟨9, 0⟩
def F.MON_DIETEMP_FAIL : Fld := ⟨15, 15⟩
def F.MON_DIETEMP_MAX : Fld := ⟨25, 16⟩
def F.MON_DIETEMP_CLRMAX : Fld := ⟨32, 32⟩
def R.MON_QTEMP (i : Nat) : Nat := 0x3890800 + 0x8 * i
def F.MON_QTEMP_TEMP : Fld := ⟨9, 0⟩
def R.MON_VOLT (i : Nat) : Nat := 0x3891000 + 0x8 * i
def F.MON_VOLT_V : Fld := ⟨15, 0⟩
def F.MON_VOLT_MIN : Fld := ⟨31, 16⟩
def F.MON_VOLT_MAX : Fld := ⟨47, 32⟩
def F.MON_VOLT_CLR : Fld := ⟨48, 48⟩
def F.MON_VOLT_RAIL : Fld := ⟨55, 52⟩
def R.MON_PROC (i : Nat) : Nat := 0x3891800 + 0x8 * i
def F.MON_PROC_COUNT : Fld := ⟨23, 0⟩
def F.MON_PROC_TYPE : Fld := ⟨25, 24⟩
def R.MON_VEXCCNT : Nat := 0x3891C00
def F.MON_VEXCCNT_COUNT : Fld := ⟨63, 0⟩
def R.MON_SH_VEXCCNT : Nat := 0x3891C40
def F.MON_SH_VEXCCNT_COUNT : Fld := ⟨63, 0⟩

/-! ### MBOX (R547) -/

def R.MBOX_STATE : Nat := 0x3C00000
def F.MBOX_STATE_STATE : Fld := ⟨2, 0⟩
def F.MBOX_STATE_BOOTSRC : Fld := ⟨4, 3⟩
def F.MBOX_STATE_DBERR : Fld := ⟨5, 5⟩
def F.MBOX_STATE_STRAPERR : Fld := ⟨6, 6⟩
def R.MBOX_DOORBELL : Nat := 0x3C00008
def F.MBOX_DOORBELL_SEQ : Fld := ⟨15, 0⟩
def R.MBOX_DONE : Nat := 0x3C00010
def F.MBOX_DONE_SEQ : Fld := ⟨15, 0⟩
def F.MBOX_DONE_STATUS : Fld := ⟨23, 16⟩
def R.MBOX_CTRL : Nat := 0x3C00018
def F.MBOX_CTRL_ABORT : Fld := ⟨0, 0⟩
def R.MBOX_IRQ : Nat := 0x3C00020
def F.MBOX_IRQ_DONE : Fld := ⟨0, 0⟩
def F.MBOX_IRQ_STCHG : Fld := ⟨1, 1⟩
def F.MBOX_IRQ_EN : Fld := ⟨9, 8⟩
def F.MBOX_IRQ_MSIVEC : Fld := ⟨26, 16⟩
def F.MBOX_IRQ_MSI_EN : Fld := ⟨31, 31⟩
def R.MBOX_PROGRESS : Nat := 0x3C00028
def F.MBOX_PROGRESS_COUNT : Fld := ⟨63, 0⟩
def R.MBOX_CMDBUF (i : Nat) : Nat := 0x3C01000 + 0x8 * i
def F.MBOX_CMDBUF_WORD : Fld := ⟨63, 0⟩
def R.MBOX_RSPBUF (i : Nat) : Nat := 0x3C02000 + 0x8 * i
def F.MBOX_RSPBUF_WORD : Fld := ⟨63, 0⟩
def R.MBOX_DATA (i : Nat) : Nat := 0x3D00000 + 0x8 * i
def F.MBOX_DATA_WORD : Fld := ⟨63, 0⟩

/-! ### SESS (R522) -/

def R.SESS_CFG : Nat := 0x6000
def F.SESS_CFG_EN : Fld := ⟨0, 0⟩
def F.SESS_CFG_OUTCTR : Fld := ⟨8, 1⟩
def F.SESS_CFG_OUTEN : Fld := ⟨9, 9⟩
def F.SESS_CFG_MAXROWS : Fld := ⟨24, 16⟩
def R.SESS_OVBASE : Nat := 0x6008
def F.SESS_OVBASE_ADDR : Fld := ⟨47, 7⟩
def R.SESS_SCHBASE : Nat := 0x6010
def F.SESS_SCHBASE_ADDR : Fld := ⟨47, 6⟩
def R.SESS_SCHCFG : Nat := 0x6018
def F.SESS_SCHCFG_EN : Fld := ⟨0, 0⟩
def F.SESS_SCHCFG_SIZE : Fld := ⟨4, 1⟩
def R.SESS_SCHHEAD : Nat := 0x6020
def F.SESS_SCHHEAD_INDEX : Fld := ⟨31, 0⟩
def R.SESS_SCHTAIL : Nat := 0x6028
def F.SESS_SCHTAIL_INDEX : Fld := ⟨31, 0⟩
def R.SESS_STAT : Nat := 0x6030
def F.SESS_STAT_SCHERR : Fld := ⟨0, 0⟩
def F.SESS_STAT_SCHMISS : Fld := ⟨1, 1⟩
def F.SESS_STAT_TAILERR : Fld := ⟨2, 2⟩
def F.SESS_STAT_ROWS : Fld := ⟨40, 32⟩
def R.SESS_LDONE : Nat := 0x6038
def F.SESS_LDONE_SET : Fld := ⟨23, 0⟩
def R.SESS_LSTAT : Nat := 0x6040
def F.SESS_LSTAT_DONE : Fld := ⟨23, 0⟩
def F.SESS_LSTAT_SKIP : Fld := ⟨47, 24⟩
def F.SESS_LSTAT_STEPPED : Fld := ⟨48, 48⟩
def R.SESS_CMD : Nat := 0x6048
def F.SESS_CMD_SLOT : Fld := ⟨11, 0⟩
def F.SESS_CMD_SID : Fld := ⟨31, 16⟩
def F.SESS_CMD_OP : Fld := ⟨33, 32⟩
def F.SESS_CMD_GO : Fld := ⟨34, 34⟩
def F.SESS_CMD_BUSY : Fld := ⟨35, 35⟩
def F.SESS_CMD_RESULT : Fld := ⟨39, 36⟩
def R.SESS_LANESRV : Nat := 0x6080
def F.SESS_LANESRV_COUNT : Fld := ⟨63, 0⟩
def R.SESS_LSKIPS : Nat := 0x6088
def F.SESS_LSKIPS_COUNT : Fld := ⟨63, 0⟩
def R.SESS_SCHLATE : Nat := 0x6090
def F.SESS_SCHLATE_COUNT : Fld := ⟨63, 0⟩
def R.SESS_STEPS : Nat := 0x6098
def F.SESS_STEPS_COUNT : Fld := ⟨63, 0⟩
def R.SESS_SH_LANESRV : Nat := 0x60C0
def F.SESS_SH_LANESRV_COUNT : Fld := ⟨63, 0⟩
def R.SESS_SH_LSKIPS : Nat := 0x60C8
def F.SESS_SH_LSKIPS_COUNT : Fld := ⟨63, 0⟩
def R.SESS_SH_SCHLATE : Nat := 0x60D0
def F.SESS_SH_SCHLATE_COUNT : Fld := ⟨63, 0⟩
def R.SESS_SH_STEPS : Nat := 0x60D8
def F.SESS_SH_STEPS_COUNT : Fld := ⟨63, 0⟩
def R.SESS_LANE (i : Nat) : Nat := 0x6100 + 0x8 * i
def F.SESS_LANE_SLOT : Fld := ⟨11, 0⟩
def F.SESS_LANE_EN : Fld := ⟨12, 12⟩
def F.SESS_LANE_VW : Fld := ⟨18, 13⟩
def F.SESS_LANE_ROWBASE : Fld := ⟨27, 19⟩
def F.SESS_LANE_SKIP : Fld := ⟨28, 28⟩

/-- The registers of the GCTL block. -/
def regsGCTL : List RegDesc :=
  [⟨0x0, [], false, [⟨15, 0, .ro, false⟩, ⟨31, 16, .ro, false⟩, ⟨39, 32, .ro, false⟩]⟩,
   ⟨0x8, [], false, [⟨0, 0, .rw, true⟩, ⟨1, 1, .ro, false⟩]⟩,
   ⟨0x10, [], false, [⟨1, 0, .ro, false⟩, ⟨2, 2, .ro, false⟩]⟩,
   ⟨0x18, [], false, [⟨40, 28, .rw, false⟩]⟩,
   ⟨0x20, [], false, [⟨2, 0, .ro, false⟩, ⟨8, 4, .ro, false⟩, ⟨9, 9, .ro, false⟩, ⟨10, 10, .ro, false⟩]⟩,
   ⟨0x28, [], false, [⟨0, 0, .w1c, false⟩, ⟨41, 1, .ro, false⟩, ⟨42, 42, .ro, false⟩, ⟨44, 43, .ro, false⟩]⟩,
   ⟨0x40, [], false, [⟨63, 0, .ro, false⟩]⟩,
   ⟨0x80, [], false, [⟨63, 0, .ro, false⟩]⟩,
   ⟨0x100, [], false, [⟨0, 0, .ro, false⟩, ⟨1, 1, .ro, false⟩, ⟨31, 16, .ro, false⟩, ⟨47, 32, .ro, false⟩]⟩,
   ⟨0x108, [], false, [⟨15, 0, .w1c, false⟩, ⟨19, 16, .ro, false⟩, ⟨27, 20, .ro, false⟩, ⟨35, 28, .ro, false⟩]⟩,
   ⟨0x2000, [(16, 0x8)], false, [⟨0, 0, .rw, true⟩, ⟨1, 1, .rw, true⟩, ⟨19, 4, .rw, true⟩, ⟨35, 20, .rw, true⟩]⟩,
   ⟨0x4000, [], false, [⟨11, 0, .rw, false⟩]⟩,
   ⟨0x4008, [], false, [⟨15, 0, .rw, true⟩]⟩,
   ⟨0x4010, [], false, [⟨15, 0, .rw, false⟩, ⟨31, 16, .rw, false⟩, ⟨47, 32, .rw, false⟩, ⟨52, 48, .rw, false⟩]⟩,
   ⟨0x4018, [], false, [⟨47, 21, .rw, false⟩]⟩,
   ⟨0x4020, [], false, [⟨47, 21, .rw, false⟩]⟩,
   ⟨0x4028, [], false, [⟨15, 0, .rw, false⟩, ⟨18, 16, .rw, false⟩, ⟨19, 19, .wo, false⟩, ⟨23, 20, .ro, false⟩, ⟨24, 24, .ro, false⟩, ⟨52, 32, .rw, false⟩]⟩,
   ⟨0x4030, [], false, [⟨31, 0, .ro, false⟩, ⟨63, 32, .ro, false⟩]⟩,
   ⟨0x4038, [], false, [⟨0, 0, .w1c, false⟩, ⟨15, 8, .ro, false⟩, ⟨31, 16, .ro, false⟩, ⟨43, 32, .ro, false⟩, ⟨44, 44, .ro, false⟩]⟩,
   ⟨0x4040, [], false, [⟨63, 0, .ro, false⟩]⟩,
   ⟨0x4048, [], false, [⟨63, 0, .ro, false⟩]⟩,
   ⟨0x4050, [], false, [⟨63, 0, .ro, false⟩]⟩,
   ⟨0x4058, [], false, [⟨63, 0, .ro, false⟩]⟩,
   ⟨0x4080, [], false, [⟨63, 0, .ro, false⟩]⟩,
   ⟨0x4088, [], false, [⟨63, 0, .ro, false⟩]⟩,
   ⟨0x4090, [], false, [⟨63, 0, .ro, false⟩]⟩,
   ⟨0x4098, [], false, [⟨63, 0, .ro, false⟩]⟩,
   ⟨0x4100, [(64, 0x8)], false, [⟨63, 0, .rw, true⟩]⟩,
   ⟨0x10000, [(4096, 0x8)], false, [⟨0, 0, .rw, true⟩, ⟨4, 1, .rw, true⟩, ⟨5, 5, .rw, true⟩, ⟨9, 6, .rw, true⟩, ⟨10, 10, .rw, true⟩]⟩]

/-- The registers of the BEAT block. -/
def regsBEAT : List RegDesc :=
  [⟨0x100000, [], false, [⟨0, 0, .rw, false⟩, ⟨1, 1, .rw, true⟩, ⟨3, 2, .rw, true⟩, ⟨7, 4, .rw, true⟩, ⟨8, 8, .rw, true⟩]⟩,
   ⟨0x100008, [], false, [⟨24, 0, .rw, true⟩]⟩,
   ⟨0x100010, [], false, [⟨4, 0, .rw, true⟩, ⟨10, 8, .rw, true⟩]⟩,
   ⟨0x100018, [], false, [⟨19, 0, .rw, true⟩, ⟨51, 32, .rw, true⟩]⟩,
   ⟨0x100020, [], true, [⟨63, 0, .rw, false⟩]⟩,
   ⟨0x100028, [], true, [⟨63, 0, .ro, false⟩]⟩,
   ⟨0x100030, [], true, [⟨63, 0, .ro, false⟩]⟩,
   ⟨0x100038, [], true, [⟨63, 0, .ro, false⟩]⟩,
   ⟨0x100040, [], true, [⟨63, 0, .rw, false⟩]⟩,
   ⟨0x100048, [], false, [⟨0, 0, .ro, false⟩, ⟨1, 1, .ro, false⟩, ⟨4, 2, .ro, false⟩, ⟨8, 8, .w1c, false⟩, ⟨9, 9, .w1c, false⟩, ⟨10, 10, .w1c, false⟩, ⟨11, 11, .w1c, false⟩, ⟨12, 12, .w1c, false⟩, ⟨13, 13, .w1c, false⟩]⟩,
   ⟨0x100050, [], false, [⟨0, 0, .wo, false⟩]⟩,
   ⟨0x100058, [], true, [⟨63, 0, .ro, false⟩]⟩,
   ⟨0x100060, [], false, [⟨10, 0, .rw, false⟩, ⟨15, 15, .rw, false⟩, ⟨26, 16, .rw, false⟩, ⟨31, 31, .rw, false⟩]⟩,
   ⟨0x100068, [], false, [⟨47, 0, .ro, false⟩]⟩,
   ⟨0x100070, [], false, [⟨16, 0, .ro, false⟩]⟩,
   ⟨0x100078, [], false, [⟨3, 0, .ro, false⟩, ⟨7, 4, .ro, false⟩, ⟨27, 8, .ro, false⟩, ⟨63, 32, .ro, false⟩]⟩,
   ⟨0x100080, [], false, [⟨31, 0, .ro, false⟩, ⟨32, 32, .ro, false⟩]⟩,
   ⟨0x100088, [], false, [⟨15, 0, .rw, false⟩, ⟨31, 16, .rw, false⟩]⟩,
   ⟨0x100090, [], false, [⟨0, 0, .wo, false⟩, ⟨1, 1, .wo, false⟩, ⟨2, 2, .wo, false⟩]⟩,
   ⟨0x100098, [], true, [⟨63, 0, .rw, false⟩]⟩,
   ⟨0x1000A0, [], false, [⟨1, 0, .ro, false⟩, ⟨5, 2, .ro, false⟩, ⟨8, 8, .w1c, false⟩, ⟨9, 9, .ro, false⟩, ⟨57, 32, .ro, false⟩]⟩,
   ⟨0x1000A8, [], true, [⟨63, 0, .ro, false⟩]⟩,
   ⟨0x1000C0, [], false, [⟨31, 0, .ro, false⟩]⟩,
   ⟨0x1000C8, [], false, [⟨31, 0, .ro, false⟩]⟩,
   ⟨0x1000D0, [], false, [⟨31, 0, .ro, false⟩]⟩,
   ⟨0x1000E0, [], false, [⟨31, 0, .ro, false⟩]⟩,
   ⟨0x1000E8, [], false, [⟨31, 0, .ro, false⟩]⟩,
   ⟨0x1000F0, [], false, [⟨31, 0, .ro, false⟩]⟩,
   ⟨0x100100, [(16, 0x8)], false, [⟨15, 0, .rw, false⟩]⟩,
   ⟨0x101000, [(48, 0x8)], false, [⟨0, 0, .rw, true⟩, ⟨1, 1, .rw, true⟩, ⟨47, 2, .rw, true⟩]⟩]

/-- The registers of the FQ block. -/
def regsFQ : List RegDesc :=
  [⟨0x200000, [], false, [⟨47, 6, .rw, false⟩]⟩,
   ⟨0x200008, [], false, [⟨0, 0, .rw, false⟩, ⟨12, 8, .rw, false⟩, ⟨31, 16, .rw, false⟩, ⟨41, 32, .rw, false⟩]⟩,
   ⟨0x200010, [], false, [⟨31, 0, .rw, false⟩]⟩,
   ⟨0x200018, [], false, [⟨31, 0, .ro, false⟩]⟩,
   ⟨0x200020, [], false, [⟨0, 0, .ro, false⟩, ⟨1, 1, .w1c, false⟩, ⟨2, 2, .w1c, false⟩, ⟨3, 3, .w1c, false⟩, ⟨4, 4, .w1c, false⟩, ⟨5, 5, .w1c, false⟩, ⟨25, 16, .ro, false⟩, ⟨31, 28, .ro, false⟩, ⟨38, 32, .ro, false⟩]⟩,
   ⟨0x200028, [], false, [⟨15, 0, .rw, false⟩, ⟨19, 16, .rw, false⟩]⟩,
   ⟨0x200030, [], false, [⟨0, 0, .rw, false⟩, ⟨1, 1, .rw, false⟩, ⟨2, 2, .rw, false⟩, ⟨26, 16, .rw, false⟩, ⟨31, 31, .rw, false⟩]⟩,
   ⟨0x200038, [], false, [⟨31, 0, .ro, false⟩]⟩,
   ⟨0x200040, [], false, [⟨63, 0, .ro, false⟩]⟩,
   ⟨0x200048, [], false, [⟨63, 0, .ro, false⟩]⟩,
   ⟨0x200050, [], false, [⟨63, 0, .ro, false⟩]⟩,
   ⟨0x200058, [], false, [⟨63, 0, .ro, false⟩]⟩,
   ⟨0x200060, [], false, [⟨63, 0, .ro, false⟩]⟩,
   ⟨0x200068, [], false, [⟨63, 0, .ro, false⟩]⟩,
   ⟨0x2000C0, [], false, [⟨63, 0, .ro, false⟩]⟩,
   ⟨0x2000C8, [], false, [⟨63, 0, .ro, false⟩]⟩,
   ⟨0x2000D0, [], false, [⟨63, 0, .ro, false⟩]⟩,
   ⟨0x2000D8, [], false, [⟨63, 0, .ro, false⟩]⟩,
   ⟨0x2000E0, [], false, [⟨63, 0, .ro, false⟩]⟩,
   ⟨0x2000E8, [], false, [⟨63, 0, .ro, false⟩]⟩,
   ⟨0x210000, [(256, 0x8)], false, [⟨0, 0, .rw, false⟩, ⟨6, 1, .rw, false⟩, ⟨11, 7, .rw, false⟩, ⟨12, 12, .rw, false⟩]⟩,
   ⟨0x211000, [(48, 0x8)], false, [⟨1, 0, .wo, false⟩, ⟨3, 2, .wo, false⟩]⟩]

/-- The registers of the SLUICE block. -/
def regsSLUICE : List RegDesc :=
  [⟨0x400000, [(16, 0x10000)], false, [⟨3, 0, .ro, false⟩, ⟨4, 4, .ro, false⟩]⟩,
   ⟨0x400008, [(16, 0x10000)], false, [⟨0, 0, .rw, false⟩, ⟨1, 1, .rw, false⟩, ⟨26, 16, .rw, false⟩, ⟨31, 31, .rw, false⟩]⟩,
   ⟨0x400010, [(16, 0x10000)], false, [⟨3, 0, .w1c, false⟩, ⟨7, 4, .w1c, false⟩]⟩,
   ⟨0x400020, [(16, 0x10000)], false, [⟨6, 0, .rw, false⟩, ⟨8, 8, .rw, false⟩, ⟨9, 9, .rw, false⟩, ⟨13, 12, .rw, false⟩]⟩,
   ⟨0x400028, [(16, 0x10000)], false, [⟨63, 0, .rw, false⟩]⟩,
   ⟨0x400030, [(16, 0x10000)], false, [⟨63, 0, .rw, false⟩]⟩,
   ⟨0x400038, [(16, 0x10000)], false, [⟨63, 0, .rw, false⟩]⟩,
   ⟨0x400040, [(16, 0x10000)], false, [⟨63, 0, .ro, false⟩]⟩,
   ⟨0x400048, [(16, 0x10000)], false, [⟨63, 0, .ro, false⟩]⟩,
   ⟨0x400080, [(16, 0x10000)], false, [⟨63, 0, .ro, false⟩]⟩,
   ⟨0x400088, [(16, 0x10000)], false, [⟨63, 0, .ro, false⟩]⟩,
   ⟨0x400090, [(16, 0x10000)], false, [⟨63, 0, .ro, false⟩]⟩,
   ⟨0x4000C0, [(16, 0x10000)], false, [⟨63, 0, .ro, false⟩]⟩,
   ⟨0x4000C8, [(16, 0x10000)], false, [⟨63, 0, .ro, false⟩]⟩,
   ⟨0x4000D0, [(16, 0x10000)], false, [⟨63, 0, .ro, false⟩]⟩,
   ⟨0x400100, [(16, 0x10000), (4, 0x80)], false, [⟨47, 6, .rw, false⟩]⟩,
   ⟨0x400108, [(16, 0x10000), (4, 0x80)], false, [⟨47, 5, .rw, false⟩]⟩,
   ⟨0x400110, [(16, 0x10000), (4, 0x80)], false, [⟨0, 0, .rw, false⟩, ⟨5, 1, .rw, false⟩, ⟨6, 6, .rw, false⟩, ⟨7, 7, .rw, false⟩]⟩,
   ⟨0x400118, [(16, 0x10000), (4, 0x80)], false, [⟨31, 0, .rw, false⟩]⟩,
   ⟨0x400120, [(16, 0x10000), (4, 0x80)], false, [⟨31, 0, .ro, false⟩]⟩,
   ⟨0x400128, [(16, 0x10000), (4, 0x80)], false, [⟨0, 0, .wo, false⟩, ⟨1, 1, .wo, false⟩, ⟨2, 2, .wo, false⟩]⟩,
   ⟨0x400130, [(16, 0x10000), (4, 0x80)], false, [⟨2, 0, .ro, false⟩, ⟨3, 3, .w1c, false⟩, ⟨15, 8, .ro, false⟩]⟩,
   ⟨0x400138, [(16, 0x10000), (4, 0x80)], false, [⟨15, 0, .rw, false⟩]⟩,
   ⟨0x400140, [(16, 0x10000), (4, 0x80)], false, [⟨31, 0, .ro, false⟩, ⟨32, 32, .ro, false⟩]⟩,
   ⟨0x400148, [(16, 0x10000), (4, 0x80)], false, [⟨31, 0, .ro, false⟩, ⟨32, 32, .ro, false⟩]⟩,
   ⟨0x400150, [(16, 0x10000), (4, 0x80)], false, [⟨31, 0, .ro, false⟩]⟩,
   ⟨0x401000, [(16, 0x10000), (16, 0x8)], true, [⟨31, 0, .rw, false⟩]⟩]

/-- The registers of the REEL block. -/
def regsREEL : List RegDesc :=
  [⟨0x800000, [], false, [⟨0, 0, .rw, false⟩]⟩,
   ⟨0x800008, [], false, [⟨6, 0, .ro, false⟩, ⟨30, 16, .ro, false⟩]⟩,
   ⟨0x800010, [], false, [⟨0, 0, .rw, false⟩, ⟨1, 1, .rw, false⟩, ⟨26, 16, .rw, false⟩, ⟨31, 31, .rw, false⟩]⟩,
   ⟨0x800018, [], false, [⟨63, 0, .w1c, false⟩]⟩,
   ⟨0x800020, [], false, [⟨63, 0, .w1c, false⟩]⟩,
   ⟨0x800028, [], false, [⟨47, 17, .rw, false⟩]⟩,
   ⟨0x800030, [], false, [⟨31, 0, .ro, false⟩]⟩,
   ⟨0x800080, [], false, [⟨63, 0, .ro, false⟩]⟩,
   ⟨0x800088, [], false, [⟨63, 0, .ro, false⟩]⟩,
   ⟨0x800090, [], false, [⟨63, 0, .ro, false⟩]⟩,
   ⟨0x800098, [], false, [⟨63, 0, .ro, false⟩]⟩,
   ⟨0x8000A0, [], false, [⟨63, 0, .ro, false⟩]⟩,
   ⟨0x8000A8, [], false, [⟨63, 0, .ro, false⟩]⟩,
   ⟨0x8000B0, [], false, [⟨63, 0, .ro, false⟩]⟩,
   ⟨0x8000C0, [], false, [⟨63, 0, .ro, false⟩]⟩,
   ⟨0x8000C8, [], false, [⟨63, 0, .ro, false⟩]⟩,
   ⟨0x8000D0, [], false, [⟨63, 0, .ro, false⟩]⟩,
   ⟨0x8000D8, [], false, [⟨63, 0, .ro, false⟩]⟩,
   ⟨0x8000E0, [], false, [⟨63, 0, .ro, false⟩]⟩,
   ⟨0x8000E8, [], false, [⟨63, 0, .ro, false⟩]⟩,
   ⟨0x8000F0, [], false, [⟨63, 0, .ro, false⟩]⟩,
   ⟨0x801000, [(64, 0x40)], false, [⟨47, 7, .rw, false⟩]⟩,
   ⟨0x801008, [(64, 0x40)], false, [⟨0, 0, .wo, false⟩, ⟨1, 1, .wo, false⟩, ⟨2, 2, .rw, false⟩]⟩,
   ⟨0x801010, [(64, 0x40)], false, [⟨1, 0, .ro, false⟩, ⟨2, 2, .w1c, false⟩, ⟨15, 8, .ro, false⟩, ⟨31, 16, .ro, false⟩, ⟨63, 32, .ro, false⟩]⟩,
   ⟨0x801018, [(64, 0x40)], false, [⟨4, 0, .ro, false⟩, ⟨63, 32, .ro, false⟩]⟩]

/-- The registers of the HANK block. -/
def regsHANK : List RegDesc :=
  [⟨0xC00000, [(16, 0x10000)], false, [⟨0, 0, .rw, false⟩, ⟨1, 1, .wo, false⟩, ⟨2, 2, .rw, false⟩, ⟨3, 3, .rw, false⟩]⟩,
   ⟨0xC00008, [(16, 0x10000)], false, [⟨2, 0, .ro, false⟩, ⟨3, 3, .ro, false⟩, ⟨7, 4, .ro, false⟩, ⟨15, 8, .ro, false⟩]⟩,
   ⟨0xC00010, [(16, 0x10000)], false, [⟨11, 0, .ro, false⟩, ⟨15, 12, .ro, false⟩, ⟨16, 16, .ro, false⟩]⟩,
   ⟨0xC00018, [(16, 0x10000)], false, [⟨15, 0, .rw, false⟩, ⟨23, 16, .rw, false⟩, ⟨47, 32, .rw, false⟩]⟩,
   ⟨0xC00020, [(16, 0x10000)], false, [⟨63, 0, .ro, false⟩]⟩,
   ⟨0xC00028, [(16, 0x10000)], false, [⟨63, 0, .ro, false⟩]⟩,
   ⟨0xC00030, [(16, 0x10000)], false, [⟨0, 0, .w1c, false⟩, ⟨1, 1, .w1c, false⟩, ⟨2, 2, .w1c, false⟩, ⟨3, 3, .w1c, false⟩, ⟨11, 8, .rw, false⟩, ⟨26, 16, .rw, false⟩, ⟨31, 31, .rw, false⟩]⟩,
   ⟨0xC00038, [(16, 0x10000)], false, [⟨63, 0, .ro, false⟩]⟩,
   ⟨0xC00100, [(16, 0x10000)], false, [⟨63, 0, .ro, false⟩]⟩,
   ⟨0xC00108, [(16, 0x10000)], false, [⟨63, 0, .ro, false⟩]⟩,
   ⟨0xC00110, [(16, 0x10000)], false, [⟨63, 0, .ro, false⟩]⟩,
   ⟨0xC00118, [(16, 0x10000)], false, [⟨63, 0, .ro, false⟩]⟩,
   ⟨0xC00120, [(16, 0x10000)], false, [⟨63, 0, .ro, false⟩]⟩,
   ⟨0xC00128, [(16, 0x10000)], false, [⟨63, 0, .ro, false⟩]⟩,
   ⟨0xC00130, [(16, 0x10000)], false, [⟨63, 0, .ro, false⟩]⟩,
   ⟨0xC00180, [(16, 0x10000)], false, [⟨63, 0, .ro, false⟩]⟩,
   ⟨0xC00188, [(16, 0x10000)], false, [⟨63, 0, .ro, false⟩]⟩,
   ⟨0xC00190, [(16, 0x10000)], false, [⟨63, 0, .ro, false⟩]⟩,
   ⟨0xC00198, [(16, 0x10000)], false, [⟨63, 0, .ro, false⟩]⟩,
   ⟨0xC001A0, [(16, 0x10000)], false, [⟨63, 0, .ro, false⟩]⟩,
   ⟨0xC001A8, [(16, 0x10000)], false, [⟨63, 0, .ro, false⟩]⟩,
   ⟨0xC001B0, [(16, 0x10000)], false, [⟨63, 0, .ro, false⟩]⟩]

/-- The registers of the MEM block. -/
def regsMEM : List RegDesc :=
  [⟨0x1000000, [(24, 0x10000)], false, [⟨0, 0, .wo, false⟩, ⟨1, 1, .rw, false⟩, ⟨2, 2, .rw, false⟩, ⟨3, 3, .wo, false⟩]⟩,
   ⟨0x1000008, [(24, 0x10000)], false, [⟨2, 0, .ro, false⟩, ⟨4, 3, .ro, false⟩, ⟨5, 5, .ro, false⟩, ⟨15, 6, .ro, false⟩, ⟨16, 16, .ro, false⟩]⟩,
   ⟨0x1000010, [(24, 0x10000)], false, [⟨15, 0, .rw, false⟩, ⟨24, 16, .rw, false⟩]⟩,
   ⟨0x1000018, [(24, 0x10000)], false, [⟨15, 0, .rw, false⟩, ⟨21, 16, .ro, false⟩, ⟨44, 22, .ro, false⟩]⟩,
   ⟨0x1000020, [(24, 0x10000)], false, [⟨9, 0, .ro, false⟩, ⟨25, 16, .ro, false⟩, ⟨41, 32, .ro, false⟩, ⟨51, 48, .ro, false⟩]⟩,
   ⟨0x1000028, [(24, 0x10000)], false, [⟨9, 0, .ro, false⟩, ⟨25, 16, .ro, false⟩, ⟨41, 32, .ro, false⟩, ⟨57, 48, .ro, false⟩]⟩,
   ⟨0x1000030, [(24, 0x10000), (4, 0x8)], false, [⟨9, 0, .ro, false⟩, ⟨25, 16, .ro, false⟩, ⟨41, 32, .ro, false⟩, ⟨57, 48, .ro, false⟩]⟩,
   ⟨0x1000060, [(24, 0x10000)], false, [⟨0, 0, .w1c, false⟩, ⟨6, 1, .ro, false⟩, ⟨8, 7, .ro, false⟩, ⟨10, 9, .ro, false⟩, ⟨12, 11, .ro, false⟩, ⟨27, 13, .ro, false⟩, ⟨29, 28, .ro, false⟩, ⟨32, 30, .ro, false⟩, ⟨35, 33, .ro, false⟩]⟩,
   ⟨0x1000068, [(24, 0x10000)], false, [⟨5, 0, .rw, false⟩, ⟨7, 6, .rw, false⟩, ⟨9, 8, .rw, false⟩, ⟨11, 10, .rw, false⟩, ⟨26, 12, .rw, false⟩, ⟨32, 32, .wo, false⟩, ⟨34, 33, .ro, false⟩, ⟨38, 35, .ro, false⟩, ⟨44, 40, .ro, false⟩]⟩,
   ⟨0x1000070, [(24, 0x10000)], false, [⟨5, 0, .rw, false⟩, ⟨8, 8, .wo, false⟩, ⟨10, 9, .ro, false⟩, ⟨13, 11, .ro, false⟩, ⟨14, 14, .ro, false⟩, ⟨20, 15, .ro, false⟩, ⟨43, 21, .ro, false⟩, ⟨51, 44, .rw, false⟩]⟩,
   ⟨0x1000078, [(24, 0x10000)], false, [⟨63, 0, .ro, false⟩]⟩,
   ⟨0x1000080, [(24, 0x10000)], false, [⟨5, 0, .rw, false⟩, ⟨8, 8, .wo, false⟩]⟩,
   ⟨0x1000088, [(24, 0x10000)], false, [⟨5, 0, .rw, false⟩, ⟨7, 6, .rw, false⟩, ⟨15, 8, .rw, false⟩, ⟨16, 16, .wo, false⟩, ⟨17, 17, .ro, false⟩, ⟨19, 18, .ro, false⟩, ⟨23, 20, .rw, false⟩, ⟨55, 24, .rw, false⟩]⟩,
   ⟨0x1000090, [(24, 0x10000)], false, [⟨31, 0, .ro, false⟩, ⟨63, 32, .ro, false⟩]⟩,
   ⟨0x1000098, [(24, 0x10000)], false, [⟨0, 0, .w1c, false⟩, ⟨1, 1, .w1c, false⟩, ⟨2, 2, .w1c, false⟩, ⟨3, 3, .w1c, false⟩, ⟨4, 4, .w1c, false⟩, ⟨5, 5, .w1c, false⟩, ⟨6, 6, .w1c, false⟩, ⟨7, 7, .w1c, false⟩, ⟨15, 8, .rw, false⟩, ⟨26, 16, .rw, false⟩, ⟨31, 31, .rw, false⟩]⟩,
   ⟨0x1000100, [(24, 0x10000)], false, [⟨63, 0, .ro, false⟩]⟩,
   ⟨0x1000108, [(24, 0x10000)], false, [⟨63, 0, .ro, false⟩]⟩,
   ⟨0x1000110, [(24, 0x10000)], false, [⟨63, 0, .ro, false⟩]⟩,
   ⟨0x1000118, [(24, 0x10000)], false, [⟨63, 0, .ro, false⟩]⟩,
   ⟨0x1000120, [(24, 0x10000)], false, [⟨63, 0, .ro, false⟩]⟩,
   ⟨0x1000128, [(24, 0x10000)], false, [⟨63, 0, .ro, false⟩]⟩,
   ⟨0x1000130, [(24, 0x10000)], false, [⟨63, 0, .ro, false⟩]⟩,
   ⟨0x1000180, [(24, 0x10000)], false, [⟨63, 0, .ro, false⟩]⟩,
   ⟨0x1000188, [(24, 0x10000)], false, [⟨63, 0, .ro, false⟩]⟩,
   ⟨0x1000190, [(24, 0x10000)], false, [⟨63, 0, .ro, false⟩]⟩,
   ⟨0x1000198, [(24, 0x10000)], false, [⟨63, 0, .ro, false⟩]⟩,
   ⟨0x10001A0, [(24, 0x10000)], false, [⟨63, 0, .ro, false⟩]⟩,
   ⟨0x10001A8, [(24, 0x10000)], false, [⟨63, 0, .ro, false⟩]⟩,
   ⟨0x10001B0, [(24, 0x10000)], false, [⟨63, 0, .ro, false⟩]⟩]

/-- The registers of the SPINDLE block. -/
def regsSPINDLE : List RegDesc :=
  [⟨0x2000000, [(12, 0x100000), (4, 0x80)], false, [⟨0, 0, .wo, false⟩, ⟨1, 1, .wo, false⟩]⟩,
   ⟨0x2000008, [(12, 0x100000), (4, 0x80)], false, [⟨47, 2, .rw, false⟩]⟩,
   ⟨0x2000010, [(12, 0x100000), (4, 0x80)], false, [⟨2, 0, .ro, false⟩, ⟨3, 3, .ro, false⟩, ⟨4, 4, .ro, false⟩, ⟨5, 5, .ro, false⟩, ⟨6, 6, .w1c, false⟩]⟩,
   ⟨0x2000018, [(12, 0x100000), (4, 0x80)], false, [⟨63, 0, .ro, false⟩]⟩,
   ⟨0x2000020, [(12, 0x100000), (4, 0x80)], false, [⟨63, 0, .ro, false⟩]⟩,
   ⟨0x2000028, [(12, 0x100000), (4, 0x80)], false, [⟨31, 0, .ro, false⟩]⟩,
   ⟨0x2000030, [(12, 0x100000), (4, 0x80)], false, [⟨63, 0, .ro, false⟩]⟩,
   ⟨0x2000038, [(12, 0x100000), (4, 0x80)], false, [⟨63, 0, .ro, false⟩]⟩,
   ⟨0x2000040, [(12, 0x100000), (4, 0x80)], false, [⟨63, 0, .ro, false⟩]⟩,
   ⟨0x2000800, [(12, 0x100000), (4, 0x200), (64, 0x8)], false, [⟨63, 0, .rw, false⟩]⟩,
   ⟨0x2001000, [(12, 0x100000)], false, [⟨63, 0, .ro, false⟩]⟩,
   ⟨0x2001008, [(12, 0x100000)], false, [⟨63, 0, .ro, false⟩]⟩,
   ⟨0x2001010, [(12, 0x100000)], false, [⟨63, 0, .ro, false⟩]⟩,
   ⟨0x2001018, [(12, 0x100000)], false, [⟨63, 0, .ro, false⟩]⟩,
   ⟨0x2002000, [(12, 0x100000), (4, 0x8)], false, [⟨1, 0, .ro, false⟩, ⟨2, 2, .ro, false⟩, ⟨4, 3, .ro, false⟩, ⟨5, 5, .ro, false⟩, ⟨6, 6, .ro, false⟩, ⟨7, 7, .ro, false⟩, ⟨8, 8, .ro, false⟩, ⟨10, 9, .ro, false⟩, ⟨11, 11, .ro, false⟩, ⟨12, 12, .ro, false⟩, ⟨16, 13, .ro, false⟩, ⟨20, 17, .ro, false⟩, ⟨23, 21, .ro, false⟩, ⟨24, 24, .ro, false⟩, ⟨32, 32, .wo, false⟩]⟩,
   ⟨0x2002020, [(12, 0x100000), (2, 0x8)], false, [⟨1, 0, .ro, false⟩, ⟨3, 2, .ro, false⟩, ⟨22, 4, .ro, false⟩, ⟨41, 23, .ro, false⟩]⟩,
   ⟨0x2002030, [(12, 0x100000)], false, [⟨0, 0, .w1c, false⟩, ⟨2, 1, .ro, false⟩, ⟨3, 3, .ro, false⟩, ⟨10, 4, .ro, false⟩, ⟨19, 11, .ro, false⟩, ⟨21, 20, .ro, false⟩, ⟨37, 22, .ro, false⟩, ⟨41, 38, .ro, false⟩, ⟨49, 42, .ro, false⟩]⟩,
   ⟨0x2002038, [(12, 0x100000)], false, [⟨0, 0, .rw, false⟩, ⟨1, 1, .rw, false⟩, ⟨15, 8, .rw, false⟩]⟩,
   ⟨0x2002040, [(12, 0x100000)], false, [⟨63, 0, .ro, false⟩]⟩,
   ⟨0x2002048, [(12, 0x100000), (2, 0x8)], false, [⟨63, 0, .ro, false⟩]⟩,
   ⟨0x2002058, [(12, 0x100000), (2, 0x8)], false, [⟨63, 0, .ro, false⟩]⟩,
   ⟨0x2002068, [(12, 0x100000)], false, [⟨63, 0, .ro, false⟩]⟩,
   ⟨0x2002080, [(12, 0x100000)], false, [⟨63, 0, .ro, false⟩]⟩,
   ⟨0x2002088, [(12, 0x100000), (2, 0x8)], false, [⟨63, 0, .ro, false⟩]⟩,
   ⟨0x2002098, [(12, 0x100000), (2, 0x8)], false, [⟨63, 0, .ro, false⟩]⟩,
   ⟨0x20020A8, [(12, 0x100000)], false, [⟨63, 0, .ro, false⟩]⟩,
   ⟨0x2002100, [(12, 0x100000)], false, [⟨63, 0, .ro, false⟩]⟩,
   ⟨0x2002108, [(12, 0x100000), (2, 0x8)], false, [⟨63, 0, .ro, false⟩]⟩,
   ⟨0x2002118, [(12, 0x100000)], false, [⟨63, 0, .ro, false⟩]⟩,
   ⟨0x2002140, [(12, 0x100000)], false, [⟨63, 0, .ro, false⟩]⟩,
   ⟨0x2002148, [(12, 0x100000), (2, 0x8)], false, [⟨63, 0, .ro, false⟩]⟩,
   ⟨0x2002158, [(12, 0x100000)], false, [⟨63, 0, .ro, false⟩]⟩,
   ⟨0x2003000, [(12, 0x100000)], false, [⟨0, 0, .rw, false⟩, ⟨23, 8, .rw, false⟩]⟩,
   ⟨0x2003008, [(12, 0x100000)], false, [⟨0, 0, .w1c, false⟩, ⟨26, 3, .ro, false⟩, ⟨31, 28, .ro, false⟩]⟩,
   ⟨0x2003010, [(12, 0x100000)], false, [⟨2, 0, .rw, false⟩, ⟨4, 4, .rw, false⟩, ⟨6, 5, .rw, false⟩, ⟨8, 8, .rw, false⟩, ⟨12, 9, .rw, false⟩, ⟨23, 16, .ro, false⟩]⟩,
   ⟨0x2003018, [(12, 0x100000)], false, [⟨2, 0, .rw, false⟩, ⟨4, 4, .rw, false⟩, ⟨6, 5, .rw, false⟩, ⟨8, 8, .rw, false⟩, ⟨12, 9, .rw, false⟩, ⟨23, 16, .ro, false⟩]⟩,
   ⟨0x2003020, [(12, 0x100000)], false, [⟨15, 0, .rw, false⟩]⟩,
   ⟨0x2003028, [(12, 0x100000)], false, [⟨15, 0, .rw, false⟩]⟩,
   ⟨0x2003040, [(12, 0x100000)], false, [⟨63, 0, .ro, false⟩]⟩,
   ⟨0x2003048, [(12, 0x100000)], false, [⟨63, 0, .ro, false⟩]⟩,
   ⟨0x2003050, [(12, 0x100000)], false, [⟨63, 0, .ro, false⟩]⟩,
   ⟨0x2003058, [(12, 0x100000)], false, [⟨63, 0, .ro, false⟩]⟩,
   ⟨0x2003060, [(12, 0x100000)], false, [⟨63, 0, .ro, false⟩]⟩,
   ⟨0x2003080, [(12, 0x100000)], false, [⟨63, 0, .ro, false⟩]⟩,
   ⟨0x2003088, [(12, 0x100000)], false, [⟨63, 0, .ro, false⟩]⟩,
   ⟨0x2003090, [(12, 0x100000)], false, [⟨63, 0, .ro, false⟩]⟩,
   ⟨0x2003098, [(12, 0x100000)], false, [⟨63, 0, .ro, false⟩]⟩,
   ⟨0x20030A0, [(12, 0x100000)], false, [⟨63, 0, .ro, false⟩]⟩]

/-- The registers of the RTT block. -/
def regsRTT : List RegDesc :=
  [⟨0x3000000, [], false, [⟨0, 0, .rw, false⟩, ⟨1, 1, .wo, false⟩]⟩,
   ⟨0x3000008, [], false, [⟨19, 0, .rw, false⟩, ⟨20, 20, .rw, false⟩]⟩,
   ⟨0x3000010, [], false, [⟨3, 0, .rw, false⟩, ⟨16, 8, .rw, false⟩]⟩,
   ⟨0x3000018, [], false, [⟨19, 0, .ro, false⟩, ⟨20, 20, .ro, false⟩, ⟨37, 32, .ro, false⟩]⟩,
   ⟨0x3000020, [], false, [⟨63, 0, .ro, false⟩]⟩,
   ⟨0x3000028, [], false, [⟨63, 0, .ro, false⟩]⟩,
   ⟨0x3000030, [], false, [⟨63, 0, .ro, false⟩]⟩,
   ⟨0x3000038, [], false, [⟨63, 0, .ro, false⟩]⟩,
   ⟨0x3000040, [], false, [⟨63, 0, .ro, false⟩]⟩,
   ⟨0x3000080, [], false, [⟨63, 0, .ro, false⟩]⟩,
   ⟨0x3000088, [], false, [⟨63, 0, .ro, false⟩]⟩,
   ⟨0x3000090, [], false, [⟨63, 0, .ro, false⟩]⟩,
   ⟨0x3000098, [], false, [⟨63, 0, .ro, false⟩]⟩,
   ⟨0x30000A0, [], false, [⟨63, 0, .ro, false⟩]⟩,
   ⟨0x3001000, [(28, 0x8)], false, [⟨63, 0, .ro, false⟩]⟩,
   ⟨0x3001100, [(28, 0x8)], false, [⟨63, 0, .ro, false⟩]⟩]

/-- The registers of the SEC block. -/
def regsSEC : List RegDesc :=
  [⟨0x3400000, [], false, [⟨1, 0, .ro, false⟩, ⟨2, 2, .ro, false⟩, ⟨5, 4, .ro, false⟩, ⟨7, 6, .ro, false⟩, ⟨11, 8, .ro, false⟩]⟩,
   ⟨0x3400008, [], false, [⟨3, 0, .rw, false⟩, ⟨15, 8, .rw, false⟩, ⟨16, 16, .wo, false⟩, ⟨17, 17, .ro, false⟩, ⟨23, 20, .ro, false⟩]⟩,
   ⟨0x3400010, [], false, [⟨63, 0, .rw, false⟩]⟩,
   ⟨0x3400040, [(8, 0x8)], false, [⟨63, 0, .ro, false⟩]⟩,
   ⟨0x3400100, [(64, 0x8)], false, [⟨6, 0, .ro, false⟩]⟩,
   ⟨0x3400300, [(16, 0x40), (4, 0x8)], false, [⟨63, 0, .wo, false⟩]⟩,
   ⟨0x3400320, [(16, 0x40)], false, [⟨31, 0, .rw, false⟩, ⟨32, 32, .rw, false⟩, ⟨33, 33, .rw, false⟩]⟩,
   ⟨0x3400328, [(16, 0x40)], false, [⟨63, 0, .ro, false⟩]⟩,
   ⟨0x3400330, [(16, 0x40)], false, [⟨63, 0, .ro, false⟩]⟩,
   ⟨0x3400700, [(8, 0x8)], false, [⟨0, 0, .ro, false⟩, ⟨1, 1, .rw, false⟩, ⟨21, 2, .rw, false⟩, ⟨41, 22, .rw, false⟩]⟩,
   ⟨0x3400780, [], false, [⟨11, 0, .ro, false⟩]⟩,
   ⟨0x3400800, [(16, 0x8)], false, [⟨15, 0, .rw, false⟩, ⟨19, 16, .rw, false⟩]⟩,
   ⟨0x3400A00, [(2, 0x40), (4, 0x8)], false, [⟨63, 0, .wo, false⟩]⟩,
   ⟨0x3400A20, [(2, 0x40)], false, [⟨0, 0, .rw, false⟩]⟩,
   ⟨0x3400A80, [], false, [⟨0, 0, .rw, false⟩, ⟨1, 1, .rw, false⟩]⟩,
   ⟨0x3400A88, [], false, [⟨63, 0, .ro, false⟩]⟩,
   ⟨0x3400C00, [], false, [⟨63, 0, .ro, false⟩]⟩,
   ⟨0x3400C08, [], false, [⟨63, 0, .ro, false⟩]⟩,
   ⟨0x3400C40, [], false, [⟨63, 0, .ro, false⟩]⟩,
   ⟨0x3400C48, [], false, [⟨63, 0, .ro, false⟩]⟩]

/-- The registers of the MC block. -/
def regsMC : List RegDesc :=
  [⟨0x3800000, [], false, [⟨0, 0, .ro, false⟩, ⟨7, 4, .ro, false⟩, ⟨31, 8, .ro, false⟩]⟩,
   ⟨0x3800008, [], false, [⟨47, 6, .rw, false⟩]⟩,
   ⟨0x3800010, [], false, [⟨0, 0, .rw, false⟩, ⟨5, 1, .rw, false⟩, ⟨31, 16, .rw, false⟩]⟩,
   ⟨0x3800018, [], false, [⟨31, 0, .rw, false⟩]⟩,
   ⟨0x3800020, [], false, [⟨31, 0, .ro, false⟩]⟩,
   ⟨0x3800028, [], false, [⟨0, 0, .rw, false⟩, ⟨15, 4, .rw, false⟩, ⟨31, 16, .rw, false⟩, ⟨47, 32, .rw, false⟩]⟩,
   ⟨0x3800030, [], false, [⟨8, 0, .ro, false⟩, ⟨9, 9, .ro, false⟩, ⟨10, 10, .w1c, false⟩, ⟨11, 11, .w1c, false⟩, ⟨12, 12, .w1c, false⟩]⟩,
   ⟨0x3800038, [], false, [⟨7, 0, .wo, false⟩]⟩,
   ⟨0x3800040, [], false, [⟨0, 0, .w1c, false⟩, ⟨1, 1, .w1c, false⟩, ⟨2, 2, .w1c, false⟩, ⟨3, 3, .w1c, false⟩, ⟨11, 8, .rw, false⟩, ⟨26, 16, .rw, false⟩, ⟨31, 31, .rw, false⟩]⟩,
   ⟨0x3800048, [], false, [⟨3, 0, .rw, false⟩, ⟨4, 4, .rw, false⟩, ⟨5, 5, .rw, false⟩, ⟨19, 8, .rw, false⟩, ⟨20, 20, .wo, false⟩, ⟨21, 21, .ro, false⟩, ⟨27, 24, .ro, false⟩]⟩,
   ⟨0x3800050, [], false, [⟨47, 0, .rw, false⟩]⟩,
   ⟨0x3800058, [], false, [⟨11, 0, .ro, false⟩, ⟨27, 16, .ro, false⟩]⟩,
   ⟨0x3800060, [], false, [⟨0, 0, .ro, false⟩, ⟨2, 1, .ro, false⟩, ⟨3, 3, .w1c, false⟩, ⟨31, 16, .ro, false⟩, ⟨47, 32, .ro, false⟩]⟩,
   ⟨0x3800068, [], false, [⟨0, 0, .rw, true⟩, ⟨1, 1, .rw, true⟩]⟩,
   ⟨0x3800070, [], false, [⟨10, 0, .ro, false⟩]⟩,
   ⟨0x3800078, [], false, [⟨0, 0, .wo, false⟩]⟩,
   ⟨0x3800080, [], false, [⟨63, 0, .ro, false⟩]⟩,
   ⟨0x3800088, [], false, [⟨63, 0, .ro, false⟩]⟩,
   ⟨0x3800090, [], false, [⟨63, 0, .ro, false⟩]⟩,
   ⟨0x3800098, [], false, [⟨63, 0, .ro, false⟩]⟩,
   ⟨0x38000A0, [], false, [⟨63, 0, .ro, false⟩]⟩,
   ⟨0x38000C0, [], false, [⟨63, 0, .ro, false⟩]⟩,
   ⟨0x38000C8, [], false, [⟨63, 0, .ro, false⟩]⟩,
   ⟨0x38000D0, [], false, [⟨63, 0, .ro, false⟩]⟩,
   ⟨0x38000D8, [], false, [⟨63, 0, .ro, false⟩]⟩,
   ⟨0x38000E0, [], false, [⟨63, 0, .ro, false⟩]⟩,
   ⟨0x3810000, [(256, 0x400), (7, 0x8)], false, [⟨63, 0, .ro, false⟩]⟩,
   ⟨0x3810200, [(256, 0x400), (64, 0x8)], false, [⟨63, 0, .ro, false⟩]⟩]

/-- The registers of the PWR block. DESIGN CHOICE: assumption 10. -/
def regsPWR : List RegDesc :=
  [⟨0x3880000, [], false, [⟨0, 0, .rw, true⟩, ⟨1, 1, .rw, true⟩, ⟨31, 16, .rw, true⟩, ⟨47, 32, .rw, true⟩, ⟨51, 48, .rw, true⟩, ⟨55, 52, .rw, true⟩]⟩,
   ⟨0x3880010, [], false, [⟨15, 0, .ro, false⟩, ⟨31, 16, .ro, false⟩, ⟨32, 32, .ro, false⟩]⟩,
   ⟨0x3880020, [(4, 0x8)], false, [⟨6, 0, .rw, true⟩, ⟨14, 8, .ro, false⟩, ⟨25, 16, .ro, false⟩, ⟨30, 28, .ro, false⟩]⟩,
   ⟨0x3880040, [(4, 0x8)], false, [⟨10, 0, .rw, false⟩]⟩,
   ⟨0x3880100, [(12, 0x8)], false, [⟨63, 0, .ro, false⟩]⟩,
   ⟨0x3880180, [(4, 0x8)], false, [⟨63, 0, .ro, false⟩]⟩,
   ⟨0x3880200, [(12, 0x8)], false, [⟨63, 0, .ro, false⟩]⟩,
   ⟨0x3880280, [(4, 0x8)], false, [⟨63, 0, .ro, false⟩]⟩,
   ⟨0x3880300, [(8, 0x8)], false, [⟨6, 0, .ro, false⟩, ⟨25, 16, .ro, false⟩]⟩]

/-- The registers of the THERM block. -/
def regsTHERM : List RegDesc :=
  [⟨0x3881000, [], false, [⟨9, 0, .rw, false⟩, ⟨25, 16, .rw, false⟩, ⟨41, 32, .rw, false⟩]⟩,
   ⟨0x3881008, [], false, [⟨7, 0, .ro, false⟩, ⟨11, 8, .ro, false⟩, ⟨15, 12, .ro, false⟩, ⟨17, 16, .ro, false⟩, ⟨31, 24, .ro, false⟩]⟩,
   ⟨0x3881010, [], false, [⟨0, 0, .w1c, false⟩, ⟨1, 1, .w1c, false⟩, ⟨2, 2, .w1c, false⟩, ⟨3, 3, .w1c, false⟩, ⟨4, 4, .w1c, false⟩, ⟨5, 5, .w1c, false⟩, ⟨13, 8, .rw, false⟩, ⟨21, 16, .rw, false⟩, ⟨34, 24, .rw, false⟩, ⟨35, 35, .rw, false⟩]⟩]

/-- The registers of the MON block. -/
def regsMON : List RegDesc :=
  [⟨0x3890000, [(160, 0x8)], false, [⟨9, 0, .ro, false⟩, ⟨15, 15, .ro, false⟩, ⟨25, 16, .ro, false⟩, ⟨32, 32, .wo, false⟩]⟩,
   ⟨0x3890800, [(4, 0x8)], false, [⟨9, 0, .ro, false⟩]⟩,
   ⟨0x3891000, [(96, 0x8)], false, [⟨15, 0, .ro, false⟩, ⟨31, 16, .ro, false⟩, ⟨47, 32, .ro, false⟩, ⟨48, 48, .wo, false⟩, ⟨55, 52, .ro, false⟩]⟩,
   ⟨0x3891800, [(48, 0x8)], false, [⟨23, 0, .ro, false⟩, ⟨25, 24, .ro, false⟩]⟩,
   ⟨0x3891C00, [], false, [⟨63, 0, .ro, false⟩]⟩,
   ⟨0x3891C40, [], false, [⟨63, 0, .ro, false⟩]⟩]

/-- The registers of the MBOX block. -/
def regsMBOX : List RegDesc :=
  [⟨0x3C00000, [], false, [⟨2, 0, .ro, false⟩, ⟨4, 3, .ro, false⟩, ⟨5, 5, .w1c, false⟩, ⟨6, 6, .ro, false⟩]⟩,
   ⟨0x3C00008, [], false, [⟨15, 0, .wo, false⟩]⟩,
   ⟨0x3C00010, [], false, [⟨15, 0, .ro, false⟩, ⟨23, 16, .ro, false⟩]⟩,
   ⟨0x3C00018, [], false, [⟨0, 0, .wo, false⟩]⟩,
   ⟨0x3C00020, [], false, [⟨0, 0, .w1c, false⟩, ⟨1, 1, .w1c, false⟩, ⟨9, 8, .rw, false⟩, ⟨26, 16, .rw, false⟩, ⟨31, 31, .rw, false⟩]⟩,
   ⟨0x3C00028, [], false, [⟨63, 0, .ro, false⟩]⟩,
   ⟨0x3C01000, [(32, 0x8)], false, [⟨63, 0, .rw, false⟩]⟩,
   ⟨0x3C02000, [(32, 0x8)], false, [⟨63, 0, .ro, false⟩]⟩,
   ⟨0x3D00000, [(131072, 0x8)], false, [⟨63, 0, .rw, false⟩]⟩]

/-- The registers of the SESS block. -/
def regsSESS : List RegDesc :=
  [⟨0x6000, [], false, [⟨0, 0, .rw, true⟩, ⟨8, 1, .rw, true⟩, ⟨9, 9, .rw, true⟩, ⟨24, 16, .rw, true⟩]⟩,
   ⟨0x6008, [], false, [⟨47, 7, .rw, false⟩]⟩,
   ⟨0x6010, [], false, [⟨47, 6, .rw, false⟩]⟩,
   ⟨0x6018, [], false, [⟨0, 0, .rw, false⟩, ⟨4, 1, .rw, false⟩]⟩,
   ⟨0x6020, [], false, [⟨31, 0, .ro, false⟩]⟩,
   ⟨0x6028, [], false, [⟨31, 0, .rw, false⟩]⟩,
   ⟨0x6030, [], false, [⟨0, 0, .w1c, false⟩, ⟨1, 1, .w1c, false⟩, ⟨2, 2, .w1c, false⟩, ⟨40, 32, .ro, false⟩]⟩,
   ⟨0x6038, [], false, [⟨23, 0, .wo, false⟩]⟩,
   ⟨0x6040, [], false, [⟨23, 0, .ro, false⟩, ⟨47, 24, .ro, false⟩, ⟨48, 48, .ro, false⟩]⟩,
   ⟨0x6048, [], false, [⟨11, 0, .rw, false⟩, ⟨31, 16, .rw, false⟩, ⟨33, 32, .rw, false⟩, ⟨34, 34, .wo, false⟩, ⟨35, 35, .ro, false⟩, ⟨39, 36, .ro, false⟩]⟩,
   ⟨0x6080, [], false, [⟨63, 0, .ro, false⟩]⟩,
   ⟨0x6088, [], false, [⟨63, 0, .ro, false⟩]⟩,
   ⟨0x6090, [], false, [⟨63, 0, .ro, false⟩]⟩,
   ⟨0x6098, [], false, [⟨63, 0, .ro, false⟩]⟩,
   ⟨0x60C0, [], false, [⟨63, 0, .ro, false⟩]⟩,
   ⟨0x60C8, [], false, [⟨63, 0, .ro, false⟩]⟩,
   ⟨0x60D0, [], false, [⟨63, 0, .ro, false⟩]⟩,
   ⟨0x60D8, [], false, [⟨63, 0, .ro, false⟩]⟩,
   ⟨0x6100, [(24, 0x8)], false, [⟨11, 0, .ro, false⟩, ⟨12, 12, .ro, false⟩, ⟨18, 13, .ro, false⟩, ⟨27, 19, .ro, false⟩, ⟨28, 28, .ro, false⟩]⟩]

/-- Every register of BAR0. -/
def regTable : List RegDesc :=
  regsGCTL ++ regsBEAT ++ regsFQ ++ regsSLUICE ++ regsREEL ++ regsHANK ++ regsMEM ++ regsSPINDLE ++ regsRTT ++ regsSEC ++ regsMC ++ regsPWR ++ regsTHERM ++ regsMON ++ regsMBOX ++ regsSESS

/-- The offset of the register of the array at `base` that holds byte offset `off` (a multiple of 8), if one does. -/
def regMatch (off : Nat) : Nat → List (Nat × Nat) → Bool
  | base, [] => decide (off = base)
  | base, (n, st) :: ds =>
    decide (base ≤ off) && decide ((off - base) / st < n) && regMatch off (base + (off - base) / st * st) ds

/-- The map of the register at BAR0 offset `off`, a multiple of 8; none where the offset is reserved (R5, R7). -/
def regDesc (off : Nat) : Option RegDesc := regTable.find? (fun d => regMatch off d.base d.dims)

/-- All the offsets of an array of registers. -/
def regOffsets : Nat → List (Nat × Nat) → List Nat
  | base, [] => [base]
  | base, (n, st) :: ds => (List.range n).flatMap (fun i => regOffsets (base + i * st) ds)

/-- The reset values that are not zero (R11), in the order of the offsets. PWR.VFT holds the typical points of R594, which stand for the fused ones; the other fuse values stand in State. -/
def regResets : SMap Word :=
  [(R.GCTL_IDENT, 0x1024001FD4)]
  ++ [(R.GCTL_FABCFG, 0x10138807D00064)]
  ++ [(R.SESS_CFG, 0x400000)]
  ++ [(R.SESS_SCHCFG, 0x10)]
  ++ [(R.BEAT_PERIOD, 0xF4240)]
  ++ [(R.BEAT_STRETCH, 0x405)]
  ++ [(R.BEAT_GUARD, 0x7D000000FA0)]
  ++ [(R.BEAT_EDONE, 0x1FFFF)]
  ++ [(R.BEAT_MARK, 0xF)]
  ++ [(R.BEAT_SLIPTH, 0x3E80064)]
  ++ [(R.FQ_CFG, 0x2004E201000)]
  ++ [(R.FQ_PRICFG, 0x82710)]
  ++ (List.range 16).flatMap (fun e => [(R.SLUICE_CHKCFG e, 0x320), (R.SLUICE_CHKPOLY e, 0x4C11DB7), (R.SLUICE_CHKINIT e, 0xFFFFFFFF), (R.SLUICE_CHKXOR e, 0xFFFFFFFF)]
      ++ (List.range 4).flatMap (fun q => [(R.SLUICE_QCFG e q, 0x90), (R.SLUICE_QSTAT e q, 0x6)]))
  ++ [(R.REEL_CTRL, 0x1)]
  ++ (List.range 16).flatMap (fun p => [(R.HANK_CTRL p, 0x4), (R.HANK_RETRY p, 0x40000807D0)])
  ++ (List.range 24).flatMap (fun s => [(R.MEM_CTRL s, 0x6), (R.MEM_WCCFG s, 0x18007D0), (R.MEM_SCRUB s, 0x40), (R.MEM_RETIRE s, 0x100000000000), (R.MEM_SPARE s, 0x1900000000000), (R.MEM_MARGIN s, 0x10000000000)])
  ++ (List.range 12).flatMap (fun n => [(R.SPINDLE_MRESCFG n, 0x403), (R.SPINDLE_PANCFG n, 0x10001), (R.SPINDLE_L1DSEED n, 0xACE1), (R.SPINDLE_L1ISEED n, 0xACE1)])
  ++ [(R.RTT_CFG, 0x10004)]
  ++ [(R.MC_ERRCFG, 0x3E80014)]
  ++ [(R.MC_FMCFG, 0x6400000000)]
  ++ [(R.PWR_CTRL, 0x1200320E100000)]
  ++ (List.range 4).map (fun i => (R.PWR_QFREQ i, (0x13525454 : Word)))
  ++ (List.range 4).map (fun i => (R.PWR_ILIM i, (0x4B0 : Word)))
  ++ [(0, 32, 600), (1, 40, 620), (2, 48, 640), (3, 60, 690), (4, 72, 760), (5, 76, 790), (6, 80, 820), (7, 84, 850)].map
      (fun (x : Nat × Nat × Nat) => (R.PWR_VFT x.1, BitVec.ofNat 64 (x.2.1 + x.2.2 * 2 ^ 16)))
  ++ [(R.THERM_CFG, 0x1A4017C0168)]
  ++ (List.range 96).map (fun i => (R.MON_VOLT i, BitVec.ofNat 64 (0xFFFF0000 + (if i < 64 then i / 16 else 4 + (i - 64) / 4) * 2 ^ 52)))

/-- The counters that have a shadow (R34): the counter, its shadow, and the arrays they stand in. -/
def shadowTable : List (Nat × Nat × List (Nat × Nat)) :=
  [(0x40, 0x80, []),
   (0x4040, 0x4080, []),
   (0x4048, 0x4088, []),
   (0x4050, 0x4090, []),
   (0x4058, 0x4098, []),
   (0x1000C0, 0x1000E0, []),
   (0x1000C8, 0x1000E8, []),
   (0x1000D0, 0x1000F0, []),
   (0x200040, 0x2000C0, []),
   (0x200048, 0x2000C8, []),
   (0x200050, 0x2000D0, []),
   (0x200058, 0x2000D8, []),
   (0x200060, 0x2000E0, []),
   (0x200068, 0x2000E8, []),
   (0x400080, 0x4000C0, [(16, 0x10000)]),
   (0x400088, 0x4000C8, [(16, 0x10000)]),
   (0x400090, 0x4000D0, [(16, 0x10000)]),
   (0x800080, 0x8000C0, []),
   (0x800088, 0x8000C8, []),
   (0x800090, 0x8000D0, []),
   (0x800098, 0x8000D8, []),
   (0x8000A0, 0x8000E0, []),
   (0x8000A8, 0x8000E8, []),
   (0x8000B0, 0x8000F0, []),
   (0xC00100, 0xC00180, [(16, 0x10000)]),
   (0xC00108, 0xC00188, [(16, 0x10000)]),
   (0xC00110, 0xC00190, [(16, 0x10000)]),
   (0xC00118, 0xC00198, [(16, 0x10000)]),
   (0xC00120, 0xC001A0, [(16, 0x10000)]),
   (0xC00128, 0xC001A8, [(16, 0x10000)]),
   (0xC00130, 0xC001B0, [(16, 0x10000)]),
   (0x1000100, 0x1000180, [(24, 0x10000)]),
   (0x1000108, 0x1000188, [(24, 0x10000)]),
   (0x1000110, 0x1000190, [(24, 0x10000)]),
   (0x1000118, 0x1000198, [(24, 0x10000)]),
   (0x1000120, 0x10001A0, [(24, 0x10000)]),
   (0x1000128, 0x10001A8, [(24, 0x10000)]),
   (0x1000130, 0x10001B0, [(24, 0x10000)]),
   (0x2000018, 0x2000030, [(12, 0x100000), (4, 0x80)]),
   (0x2000020, 0x2000038, [(12, 0x100000), (4, 0x80)]),
   (0x2000028, 0x2000040, [(12, 0x100000), (4, 0x80)]),
   (0x2001000, 0x2001010, [(12, 0x100000)]),
   (0x2001008, 0x2001018, [(12, 0x100000)]),
   (0x2002040, 0x2002080, [(12, 0x100000)]),
   (0x2002048, 0x2002088, [(12, 0x100000), (2, 0x8)]),
   (0x2002058, 0x2002098, [(12, 0x100000), (2, 0x8)]),
   (0x2002068, 0x20020A8, [(12, 0x100000)]),
   (0x2002100, 0x2002140, [(12, 0x100000)]),
   (0x2002108, 0x2002148, [(12, 0x100000), (2, 0x8)]),
   (0x2002118, 0x2002158, [(12, 0x100000)]),
   (0x2003040, 0x2003080, [(12, 0x100000)]),
   (0x2003048, 0x2003088, [(12, 0x100000)]),
   (0x2003050, 0x2003090, [(12, 0x100000)]),
   (0x2003058, 0x2003098, [(12, 0x100000)]),
   (0x2003060, 0x20030A0, [(12, 0x100000)]),
   (0x3000020, 0x3000080, []),
   (0x3000028, 0x3000088, []),
   (0x3000030, 0x3000090, []),
   (0x3000038, 0x3000098, []),
   (0x3000040, 0x30000A0, []),
   (0x3001000, 0x3001100, [(28, 0x8)]),
   (0x3400C00, 0x3400C40, []),
   (0x3400C08, 0x3400C48, []),
   (0x3800080, 0x38000C0, []),
   (0x3800088, 0x38000C8, []),
   (0x3800090, 0x38000D0, []),
   (0x3800098, 0x38000D8, []),
   (0x38000A0, 0x38000E0, []),
   (0x3880100, 0x3880200, [(12, 0x8)]),
   (0x3880180, 0x3880280, [(4, 0x8)]),
   (0x3891C00, 0x3891C40, []),
   (0x6080, 0x60C0, []),
   (0x6088, 0x60C8, []),
   (0x6090, 0x60D0, []),
   (0x6098, 0x60D8, [])]

end Sys2Proof.Machine
end

