-- ==== Sys2Proof/Machine/State.lean ====
section
/-! DEFINITION. The state of the device, as plain data: the registers of BAR0 by offset, the bytes of memory, what each unit
holds beside its registers, the queue of waiting commands, and the machine after reset. -/

namespace Sys2Proof.Machine
open Sys2Proof

/-- Pins the device drives (R604, R609). -/
inductive PinName where
  | beatOut | alert | thermtrip
  deriving DecidableEq, Repr

/-! ### What leaves the device -/

/-- What the device sends: TLPs on PCIe (R357–R362, R377, R521), messages and markers on the fabric, and pin events. The list
`State.out` records them, oldest first; it is the model's own record, read by nothing. -/
inductive Out where
  /-- An MSI-X message on vector `v` (R521). -/
  | msix (v : Nat)
  /-- A posted write to host address `a`; `xlat` when the address is translated, `ns` No Snoop, `pasid` when it carries the prefix. -/
  | hostWrite (a : Nat) (data : List Byte) (xlat ns : Bool) (pasid : Option Nat) (poisoned : Bool)
  /-- A read of `n` bytes of host address `a` with transaction tag `tag`. -/
  | hostRead (tag a n : Nat) (xlat ns : Bool) (pasid : Option Nat)
  /-- An AtomicOp to host memory (R362). -/
  | hostAtomic (tag a : Nat) (op : AtomOp) (dbl : Bool) (operand compare : Word) (xlat ns : Bool) (pasid : Option Nat)
  /-- An ATS Translation Request (R357, R366): request number, first page, translations asked, No Write, and the PASID it carries. -/
  | atsRequest (req va count : Nat) (noWrite : Bool) (pasid : Option Nat)
  /-- An ATS Invalidation Completion (R372). -/
  | invalidationCompletion (itag : BitVec 5)
  /-- A Page Request (R377), and the PASID it carries (R357). -/
  | pageRequest (va : Nat) (w : Bool) (group : Nat) (last : Bool) (pasid : Option Nat)
  /-- The completion of a host read of a BAR, with data (R521), and a completion without data. -/
  | completion (data : List Byte) (poisoned : Bool)
  | completerAbort
  | unsupportedRequest
  /-- An error reported through AER (R527, R571): a Completion Timeout, or an Uncorrectable Internal Error. -/
  | aer (internal : Bool)
  /-- What a read or atomic returns to its requester: each byte with its Deferred mark (R335, R340). -/
  | readData (bytes : List (Byte × Bool))
  /-- A beat marker sent on a port (R29, R39, R41). -/
  | marker (port : Nat) (m : Marker)
  /-- The BEAT_OUT pin rises (R39). -/
  | beatOut
  /-- A message leaves on a port and a virtual lane (R437, R438). -/
  | message (port vl : Nat) (m : Msg)
  /-- A flit of the link protocol leaves a port (R422). -/
  | flit (port : Nat) (bytes : List Byte)
  /-- A pair of FEC codewords leaves a port: the symbols on each of its 8 lanes (R422). -/
  | codewords (port : Nat) (lanes : List (List (BitVec 10)))
  /-- A frame on the voltage-control bus (R616). -/
  | voltage (frame : BitVec 32)
  /-- A pin of the package changes level (R603, R604, R609). -/
  | pin (name : PinName) (high : Bool)
  /-- A DOE or MCTP object sent by the SPDM responder (R562). -/
  | spdm (session : Option (BitVec 32)) (answer : List Byte)
  deriving DecidableEq, Repr
/-! ### The beat (01_beat.md) -/

/-- The merged stretch request held for the pending edge (R24, R29): the first requester and the requester count. -/
structure StretchHeld where
  first : Nat
  count : Nat
  deriving DecidableEq, Repr

/-- What a port remembers of beat markers (R41, R42): the last one received and the transmit times of those sent. -/
structure MarkerClock where
  heard : Bool := false
  rxTime : Word := 0
  rxSeq : BitVec 16 := 0
  txSeq : BitVec 16 := 0
  sent : SMap Word := []
  deriving DecidableEq, Repr

/-- State of the beat logic that no register of R49 holds. -/
structure Beat where
  /-- Billionths of a ns beyond TIMEBASE, and the servo's rate in billionths (R43: steps of 0.001 ppm). -/
  frac : Nat := 0
  rate : Int := 0
  /-- An edge is scheduled at BEAT.NEXT; its guard instant; the quanta granted for it (R13, R25). -/
  scheduled : Bool := false
  guardAt : Word := 0
  quanta : Nat := 0
  held : Option StretchHeld := none
  /-- The next edge is the first since RUN was set (R16), and a beat has begun since reset (R22). -/
  fresh : Bool := true
  begun : Bool := false
  /-- The number of the beat that the pending edge begins, where it is not NUMBER + 1: at the first edge, and after a marker that
  names another beat (R16, R47). -/
  first : Option Word := some 0
  /-- The first edge is announced by the parent (R16): waiting for its marker. -/
  awaitParent : Bool := false
  /-- The two staging banks (R35, R36): whole registers by BAR0 offset. -/
  openBank : SMap (Option Word) := []
  armedBank : SMap (Option Word) := []
  armed : Bool := false
  armTarget : Word := 0
  /-- The armed bank passes over the pending edge (R37). -/
  armSkip : Bool := false
  /-- The time of a CANCEL that came later than NEXT − 100 ns while the root's decision was still open (R31). -/
  cancelAt : Option Word := none
  /-- A slip is to be stepped at the next edge (R44), in 1/8 ns, and the parent's NEXT for it. -/
  slip : Option (Int × Word) := none
  /-- A late grant has come for the pending edge, which stays where it is; and after that edge, the following one is taken from
  the parent's next marker (R31). -/
  lateGrant : Bool := false
  realign : Bool := false
  holdover : Bool := false
  /-- A marker of the parent port has been received since SRC or SRCPORT was last set (R47). -/
  synced : Bool := false
  /-- The running beat is to fail, whatever its work (R44). -/
  failNow : Bool := false
  /-- A BEAT_IN rising edge defined the pending edge (R48). -/
  binSeen : Bool := false
  ports : Vector MarkerClock 16 := Vector.replicate 16 {}
  /-- Path delay last measured, and the time of the last marker from the parent (R42, R45). -/
  lastParent : Word := 0
  /-- When the last BEAT_IN rising edge that was not ignored arrived, in 1/8 ns (R613). -/
  binAt : Option Word := none
  /-- MONOFF shows BEAT_IN rather than a port, and a rising edge has come since the last edge (R47). -/
  monBin : Bool := false
  monSeen : Bool := false
  /-- When markers were last sent for the marker interval (R458). -/
  markAt : Word := 0
  deriving DecidableEq, Repr

/-! ### Threads (02, 03, 05) -/

/-- SPINDLE.TSTAT.STATE (R103). -/
inductive RunState where
  | halted | running | parked | waiting | stalled
  deriving DecidableEq, Repr

/-- Classes of the pairing table (R57). -/
inductive Cls where
  | int | fpu | div | mem | cr | vm | br | solo
  deriving DecidableEq, Repr

/-- A line of a transaction's write set: its number, the bytes stored and their mask (R82). -/
structure TxLine where
  line : Nat
  data : BitVec 512
  mask : BitVec 64
  deriving DecidableEq, Repr

/-- A transaction in progress (R82): the write set, the read set, tbegin's destination, the fail
address. -/
structure Tx where
  rd : Reg6
  fail : Addr
  wset : List TxLine
  rset : List Nat
  /-- CR.CYCLE at tbegin (R86 cause 8). -/
  began : Word := 0
  deriving DecidableEq, Repr

/-- What a STALLED thread or a Sluice queue waits for (R359, R375, R384, R526): ATS translations of pages, the responses to
fault records (batch number and page), or space in the fault queue. -/
inductive Wait where
  | none
  | ats (pages : List Nat)
  | batch (recs : List (BitVec 32 × Nat))
  /-- The ATS requests that follow a group response (R378): what is still not permitted then is refused. -/
  | retry (pages : List Nat)
  | space
  /-- Bus Master Enable is clear (R526). -/
  | busMaster
  /-- An mwait has found tile `j` busy (R261). -/
  | tile (j : TileId)
  deriving DecidableEq, Repr

/-- State of a read or atomic sent to the host. -/
inductive HostData where
  | waiting
  | data (bytes : List Byte) (poisoned : Bool)
  | failed
  deriving DecidableEq, Repr

/-- A host read or atomic of a thread's stalled access or of a Sluice run: its PCIe tag, virtual address and length. -/
structure HostReq where
  tag : Nat
  va : Nat
  len : Nat
  reply : HostData
  deriving DecidableEq, Repr

/-- An access that the agent made and that was not granted a right: page, W needed, element, vector, and the rights that the
completion of a request for its page granted (R382). -/
structure Miss where
  va : Nat
  write : Bool
  atomic : Bool
  elem : Nat
  vec : Bool
  got : Option (Bool × Bool) := none
  deriving DecidableEq, Repr

/-- The open issue group (R57): the class and destinations of slot A, and the trap after completion that slot A raised. -/
structure GroupA where
  cls : Cls
  writes : List Nat
  lastOfLoop : Bool
  after : Option (Nat × Word)
  word : Word
  deriving DecidableEq, Repr

/-- A store that has not left its thread's store queue (R55, R66): its device address, its bytes within one line, and the memory
regions in force at its issue (R331). -/
structure StoreEnt where
  addr : Nat
  data : List Byte
  map : List Word
  deriving DecidableEq, Repr

/-- One hardware thread. Control registers are held by number: those with one copy in `cr`, the banked ones in `bankO` and
`bankS`, and the pending class-S writes of each bank in `pendO` and `pendS` (R76, R108). DESIGN CHOICE: assumption 8. -/
structure Thread where
  run : RunState := .halted
  pc : Addr := 0
  /-- World (true Sealed) and level (true supervisor) of R104. -/
  world : Bool := false
  level : Bool := true
  refused : Bool := false
  g : Vector Word 64 := Vector.replicate 64 0
  cr : SMap Word := []
  bankO : SMap Word := [(0x030, 0x100000)]
  bankS : SMap Word := [(0x030, 0x100000)]
  pendO : SMap (Option Word) := []
  pendS : SMap (Option Word) := []
  tx : Option Tx := none
  group : Option GroupA := none
  /-- Instructions retired: CR.INSTRET (R99). -/
  instret : Word := 0
  /-- R18, R19, R27: the world and level of the last bdone; an entry is pending; the block under which a parked thread's
  handler runs; a BEAT_OVERRUN is pending for that beat. -/
  bdWorld : Bool := false
  bdLevel : Bool := true
  entry : Bool := false
  parkBlock : Option (Bool × Nat) := none
  overrun : Option Word := none
  /-- Tiles whose MATRIX_ERROR is pending, with the world of the context (R264). -/
  matErr : List (Bool × Nat) := []
  /-- The Open exit block while a Sealed context is suspended (R123). -/
  suspended : Option Nat := none
  /-- What a STALLED thread waits for, and the accesses that missed (R359, R375). -/
  wait : Wait := .none
  misses : List Miss := []
  /-- Instruction word of the stalled access, for TSB.INSN. -/
  stallWord : Word := 0
  host : List HostReq := []
  /-- Host requests whose instruction was abandoned before their completions came (R134, R372). -/
  orphans : List HostReq := []
  /-- The store queue, oldest first (R55). -/
  storeQ : List StoreEnt := []
  /-- A HALT waits for the thread's outstanding host accesses (R101). -/
  haltReq : Bool := false
  /-- CR.FCSR.SAT as a vchain found it whose descriptor is on its way from the host (R184). -/
  satAt : Option Bool := none
  /-- The 4 KiB vector registers and the mask registers (R188, R204). -/
  v : Vector (BitVec 32768) 32 := Vector.replicate 32 0
  m : Vector (BitVec 4096) 8 := Vector.replicate 8 0
  deriving DecidableEq, Repr

/-! ### Caches and stacks (08, 09) -/

/-- A valid line of an L1 cache: its tag and its 64 bytes (byte 0 lowest). -/
structure Line where
  tag : Nat
  data : BitVec 512
  deriving DecidableEq, Repr

/-- An outstanding line fill (R308–R311): the line number (address / 64), the thread whose demand it serves, whether a
prefetch, the way it must take, whether R311 has dropped it, and the cache's control register and the memory regions as the
request found them (R315, R331). -/
structure Fill where
  line : Nat
  thr : Option Thr
  prefetch : Bool
  way : Option Nat
  drop : Bool
  ctl : Word := 0
  map : List Word := []
  deriving DecidableEq, Repr

/-- An L1 cache: its valid lines, keyed 4·set + way, latent parity errors (tag or data) by the same key, and its fills in
request order. -/
structure Cache where
  lines : SMap (Option Line) := []
  badTag : SMap Bool := []
  badData : SMap Bool := []
  fills : List Fill := []
  deriving DecidableEq, Repr

/-- An entry of a write-combining buffer (R334): the storage line (storage key / 64), its bytes, its byte mask, a parity
error, and the time it was allocated. -/
structure WcbEntry where
  line : Nat
  data : BitVec 512
  mask : BitVec 64
  bad : Bool
  since : Word
  deriving DecidableEq, Repr

/-- A row of a pseudo-channel (R328). -/
structure Row where
  pch : Nat
  sid : Nat
  bg : Nat
  ba : Nat
  row : Nat
  deriving DecidableEq, Repr

/-- An access that a stack holds: its device address, the command, and the memory regions under which it left its requester (R331,
R342). -/
structure Held where
  addr : Nat
  cmd : Instr
  map : List Word
  deriving DecidableEq, Repr

/-- A stack's state beside its registers: buffer entries oldest first, retired rows, the row being copied, the accesses that
wait for it (R342), the pseudo-channel being copied to the spare with the part of the next granule's copy that is done in 583rds
(R345), whether a margin test runs, and whether the stack's FAILED state came from a parity error. -/
structure Stack where
  wcb : List WcbEntry := []
  retired : List Row := []
  copying : Option Row := none
  held : List Held := []
  sparing : Option Nat := none
  spareFrac : Nat := 0
  /-- Pseudo-channels whose data a margin test destroyed, with the number that names their free contents, and the bytes
  written there since (R352). -/
  scrambled : SMap Nat := []
  rewritten : SMap Bool := []
  /-- The pseudo-channel under a margin test (R352). -/
  margin : Option Nat := none
  /-- Pseudo-channels that R346 has fenced. -/
  fenced : BitVec 64 := 0
  /-- Device address of the first access of this beat that R351 refused (R569). -/
  refusedAt : Option Nat := none
  deriving DecidableEq, Repr

/-! ### Translation (10) -/

/-- A valid RTT entry (R363). -/
structure Range where
  vstart : Nat
  pages : Nat
  pstart : Nat
  r : Bool
  w : Bool
  untr : Bool
  ns : Bool
  global : Bool
  age : Nat
  fillTime : Word
  fills : Nat
  deriving DecidableEq, Repr

/-- A copy of an entry in a range cache, with its RTT index (R373). -/
structure RangeCopy where
  idx : Nat
  ent : Range
  deriving DecidableEq, Repr

/-- An ATS Translation Request outstanding (R366): its number, page, translations asked, No Write, and the invalidations
received since it was sent (R369). -/
structure AtsReq where
  num : Nat
  page : Nat
  count : Nat
  noWrite : Bool
  invs : List (Nat × Nat)
  deriving DecidableEq, Repr

/-- A miss that waits because MAXREQ requests are outstanding (R366): its page, No Write, and whether it follows a group response, so
that it is sent even while another request for the page is outstanding (R378). -/
structure AtsWait where
  page : Nat
  noWrite : Bool
  again : Bool
  deriving DecidableEq, Repr

/-- An invalidation in progress (R372): its tag and the PCIe tags of the host reads it waits for. -/
structure Inval where
  itag : BitVec 5
  tags : List Nat
  deriving DecidableEq, Repr

structure Rtt where
  entries : SMap (Option Range) := []
  hand : Nat := 0
  /-- Range caches of agents 0–27 (R387), most recently used first. -/
  caches : Vector (List RangeCopy) 28 := Vector.replicate 28 []
  reqs : List AtsReq := []
  nextReq : Nat := 0
  invals : List Inval := []
  waiting : List AtsWait := []
  deriving DecidableEq, Repr

/-- A fault record as R382 lays it out, with the page and rights that later faults join (R375). -/
structure FaultRec where
  page : Nat
  write : Bool
  seq : BitVec 32
  deriving DecidableEq, Repr

/-- A closed batch of fault records (R376): whether all its page requests have been sent, and when the last was; and how many have
been. -/
structure Batch where
  num : BitVec 32
  recs : List FaultRec
  sent : Bool
  sentAt : Word := 0
  out : Nat := 0
  deriving DecidableEq, Repr

/-- An agent that waits for queue space (R384), in the order of stalling. -/
inductive FAgent where
  | thread (t : Thr)
  | sluice (e : EngineId) (q : QueueId)
  deriving DecidableEq, Repr

structure Fq where
  openNum : BitVec 32 := 0
  openRecs : List FaultRec := []
  openSince : Word := 0
  closed : List Batch := []
  parked : List FAgent := []
  /-- Agents that raise their faults again, in this order, once their translations are there (R384). -/
  retrying : List FAgent := []
  deriving DecidableEq, Repr
/-! ### The matrix unit (06, 07) -/

/-- MTILE.STATE (R256). -/
inductive TileState where
  | idle | filling | full | draining
  deriving DecidableEq, Repr

/-- A mop in the queue of its array, or of both when paired (R251): what it latched at issue, whether it has started, and the
flags and events it will publish when it completes. `poisonA` and `poisonW` hold a poisoned byte's K group with its row or
column. -/
structure Mop where
  /-- Which mop of the Spindle it is, in issue order, and whether Level 1 was in force at its issue (R249, R251). -/
  id : Nat := 0
  level1 : Bool := false
  thr : Fin 4
  world : Bool
  accum : Bool
  afmt : BitVec 4
  wfmt : BitVec 4
  shape : BitVec 2
  pair : Bool
  wide : Bool
  tile : TileId
  a : Word
  b : Word
  started : Bool
  flags : List (Nat × BitVec 5)
  events : List (Nat × Nat × Nat × Nat × Nat)
  groups : Nat
  deriving DecidableEq, Repr

/-- A fill of a staging buffer (R245, R246). -/
structure BufFill where
  thr : Fin 4
  arr : Fin 2
  buf : Fin 2
  addr : Nat
  len : Nat
  deriving DecidableEq, Repr

/-- A queued drain (R281): the issuing context with its level and caller ranges, the program address, and the bytes read at
issue with their Deferred marks: the header and stages, and the operand of each stage. -/
structure Drain where
  thr : Fin 4
  world : Bool
  level : Bool
  ranges : List (Word × Word)
  addr : Nat
  prog : List (Byte × Bool)
  operands : List (List (Byte × Bool))
  deriving DecidableEq, Repr

/-- Something that a running drain delivers (R288–R290): bytes to memory, bytes to vector registers, or one element to a Reel
slot. -/
inductive Delivery where
  | mem (addr : Nat) (data : List Byte) (deferred : Bool)
  | vreg (off : Nat) (data : List Byte)
  | reel (slot idx : Nat) (bits : Word) (size : Nat) (deferred : Bool)
  deriving DecidableEq, Repr

/-- A drain that has started: what it will deliver, the flags it will set, whether it delivers poison, its Reel
routes by slot and stage with the collective that the slot then ran, by SSTAT.SEQ (R293), and the status with the first failing stage of a drain that failed at its start (R292). -/
structure Draining where
  thr : Fin 4
  world : Bool
  out : List Delivery
  flags : BitVec 5
  poison : Bool
  reels : List (Nat × Nat × Nat)
  status : Nat
  stage : Nat
  deriving DecidableEq, Repr

/-- One tile: ownership and state (R254–R259), the format of its contents, the 64-bit registers of its cells by cell number
4096·q + 64·i + j (R232, R233), the poisoned cells, and its drain. -/
structure Tile where
  owner : Option (Fin 4 × Bool) := none
  releasing : Bool := false
  state : TileState := .idle
  boundTo : Option TileId := none
  shape : BitVec 2 := 0
  pair : Bool := false
  wide : Bool := false
  afmt : BitVec 4 := 0
  wfmt : BitVec 4 := 0
  cells : SMap (BitVec 64) := []
  poison : SMap Bool := []
  drain : Option Drain := none
  running : Option Draining := none
  deriving DecidableEq, Repr

/-- The matrix unit of a Spindle: its tiles, its mops in issue order, its fills, the staging buffers by
(2·array + buffer)·262,144 + offset with the Deferred marks of their bytes, the tiles whose queued drains are ready in the
order in which they became so, and the mismatches of each quarter in this beat (R265). -/
structure Matrix where
  tiles : Vector Tile 4 := Vector.replicate 4 {}
  mops : List Mop := []
  nextMop : Nat := 0
  fills : List BufFill := []
  buf : SMap Byte := []
  bufBad : SMap Bool := []
  ready : List TileId := []
  quarter : SMap Nat := []
  deriving DecidableEq, Repr

/-! ### Host interface and MC (15, 17) -/

/-- The endpoint's PCIe configuration that the spec names (R523–R531), the MSI-X table and Pending Bit Array by vector. -/
structure Endpoint where
  linkUp : Bool := false
  bme : Bool := false
  msixEn : Bool := false
  funcMask : Bool := false
  atsEn : Bool := false
  priEn : Bool := false
  priAlloc : Nat := 0
  d3hot : Bool := false
  /-- log2 of the BAR2 size: 64 GiB after reset (R527). -/
  barLog2 : Nat := 36
  msixAddr : SMap Word := []
  msixData : SMap (BitVec 32) := []
  unmasked : SMap Bool := []
  pba : SMap Bool := []
  nextTag : Nat := 0
  /-- Page requests outstanding (R377). -/
  pagesOut : Nat := 0
  deriving DecidableEq, Repr

/-- A valid entry of the fault-merge table (R576). -/
structure Merge where
  key : Word
  cls : BitVec 2
  code : Byte
  repair : Bool
  detail : Word
  firstDev : BitVec 12
  firstTime : Word
  beat : Word
  count : Nat
  map : BitVec 4096
  delivered : Bool
  opened : Word
  deriving DecidableEq, Repr

/-- An error record that waits for ring space (R579), without PHASE and SEQ. -/
structure ErrRec where
  cls : BitVec 2
  unmerged : Bool
  repair : Bool
  code : Byte
  entry : Nat
  key : Word
  firstTime : Word
  beat : Word
  firstDev : BitVec 12
  count : Nat
  nrep : Nat
  detail : Word
  deriving DecidableEq, Repr
/-! ### Sluice (11) -/

/-- A descriptor as R394 lays it out, its addresses without the fields of their bits [62:57]. `bad` says that a field marked zero
is not, or that an encoding is reserved. -/
structure Desc where
  op : Nat
  smode : Nat
  irq : Bool
  src : Nat
  dst : Nat
  chk : Nat
  alive : Nat
  cren : Bool
  cnt : Nat × Nat × Nat × Nat
  str : Int × Int × Int
  tag : Nat
  sext : Nat
  dext : Nat
  credit : Nat
  bad : Bool
  deriving DecidableEq, Repr

/-- The settings that a check unit sampled (R412): width, polynomial, reflections, final XOR, the queue served; and the queue whose
descriptor it now computes for. -/
structure ChkUnit where
  width : Nat := 32
  poly : Nat := 0x04C11DB7
  refin : Bool := true
  refout : Bool := true
  xorout : Nat := 0xFFFFFFFF
  ownq : Nat := 0
  owner : Option QueueId := none
  deriving DecidableEq, Repr

/-- A PUT of a run that awaits its ACK, or has it (R445): the run, the XID, its bytes, and whether it was accepted or failed. -/
structure Flight where
  run : Nat
  xid : BitVec 32
  bytes : List (Byte × Bool)
  acked : Bool := false
  failed : Bool := false
  deriving DecidableEq, Repr

/-- What a Sluice queue holds beside its registers: the current descriptor; the run in progress by its number, the bytes of it
delivered, how far it has come (0 to move, 1 awaiting a reply, 2 moved, 3 gathered and to deliver), the bytes gathered for it and the XID of its message;
whether marked data was delivered, the stamp received; whether the descriptor counts for the beat; the status with which it must
end at the run boundary; the wait of R359 and R385 with the offset it parked at, the host reads in progress, and the refusal
code that ends it (R380). `cursor` holds the cursor of the descriptor that halted the queue, and `chkSave` the check unit's settings and
raw register then (R413, R418). `pushed` counts the bytes of a message or record already handed on (R393); `waitChk` says that the
descriptor waits for the check unit; `cleared` that EN has been cleared while it ran (R419); `flights` are the PUTs of its runs that are not complete, oldest first (R445); `orphans` are host reads whose descriptor has ended and whose completion is still to come
(R372). -/
structure SlQueue where
  desc : Option Desc := none
  run : Nat := 0
  off : Nat := 0
  phase : Nat := 0
  buf : Option (List (Byte × Bool)) := none
  xid : Option (BitVec 32) := none
  poison : Bool := false
  stamp : Nat := 0
  counts : Bool := false
  stop : Option Nat := none
  cursor : Option (Nat × Nat) := none
  wait : Wait := .none
  misses : List Miss := []
  host : List HostReq := []
  stallAt : Nat := 0
  descAddr : Nat := 0
  refusal : Option Nat := none
  pushed : Nat := 0
  waitChk : Bool := false
  cleared : Bool := false
  chkSave : Option (ChkUnit × Nat) := none
  flights : List Flight := []
  orphans : List HostReq := []
  deriving DecidableEq, Repr

/-! ### The mailbox (15) -/

/-- The resident command in progress (R535): the 256 latched bytes, its sequence number, and, once its work is done, the status
and result words of its response. -/
structure Mailbox where
  active : Bool := false
  cmd : List Byte := []
  seq : BitVec 16 := 0
  result : Option (Nat × List Word) := none
  deriving DecidableEq, Repr

/-! ### Power, flash, security, start-up (15–19) -/

/-- A core rail under way from one voltage to another (R594): both in mV, and when the slew began. -/
structure Ramp where
  src : Nat := 850
  dst : Nat := 850
  start : Word := 0
  deriving DecidableEq, Repr

/-- Power control beside its registers: the cap limit, the one formed for the next edge, and the
thermal limits in 25 MHz units (R593, R598), whether the current
condition of R601 holds in a quadrant, the core rails, and whether THERMTRIP_L is asserted, PWRGD high and PERST_L asserted. DESIGN CHOICE: assumption 7. -/
structure Power where
  capLim : Nat := 84
  capNext : Nat := 84
  thermLim : Vector Nat 4 := Vector.replicate 4 84
  overAmps : Vector Bool 4 := Vector.replicate 4 false
  rails : Vector Ramp 4 := Vector.replicate 4 {}
  tripped : Bool := false
  powered : Bool := true
  perst : Bool := true
  deriving DecidableEq, Repr

/-- An entry of the repair log (R582). -/
inductive LogEntry where
  | retire (stack : Nat) (row : Row)
  | spare (stack pch : Nat)
  | pcfence (stack pch : Nat)
  | spindle (n : Nat) (scope : Bool)
  deriving DecidableEq, Repr

/-- QSPI flash and the fuses (R532, R548, R582, R603): the two image slots, the repair log, the cause of the last trip
(1 die, 2 stack) with its index, LIFECYCLE, FWREVOKE and the values of the anti-rollback counters. DESIGN CHOICE: assumption 9. -/
structure Flash where
  img : Vector (List Byte) 2 := Vector.replicate 2 []
  log : List LogEntry := []
  trip : Nat × Nat := (0, 0)
  lifecycle : BitVec 2 := 1
  revoked : BitVec 4 := 0
  arctr : Vector Nat 64 := Vector.replicate 64 0
  deriving DecidableEq, Repr

/-- An image that has passed verification (R551): its version, SVN, verifying key slot and the digest of header and body. -/
structure Image where
  version : Nat
  svn : Nat
  key : Nat
  digest : BitVec 512
  deriving DecidableEq, Repr

/-- Security beside its registers (16): the regions applied (R555) in the layout of SEC.SREGION with the number of each region's
key, the keys drawn so far, the number of the key under which each storage line of HBM stands encrypted (R556), the running MC
firmware and Sealed image, and the number of SPDM answers and challenges given. -/
structure Sec where
  regions : Vector Word 8 := Vector.replicate 8 0
  regKey : Vector Nat 8 := Vector.replicate 8 0
  draws : Nat := 0
  enc : SMap Nat := []
  fw : Option Image := none
  sealedImg : Option Image := none
  answers : Nat := 0
  challenges : Nat := 0
  deriving DecidableEq, Repr

/-- Start-up (R532, R533, R619–R623): the start is warm; starts since the last cold one; when the MC started; the image that a
BOOTLOAD assembles; a stack has been through SELFTEST since PWRGD rose. -/
structure Boot where
  warm : Bool := false
  warmCount : Nat := 0
  started : Bool := false
  image : SMap Byte := []
  deriving DecidableEq, Repr

/-! ### Links and the fabric (12) -/

/-- A sequenced flit to send (R423, R425): its flags and its payload. `vl` is its lane once it has been sent; `origin` is the link and
lane in whose receive buffer a forwarded flit stands (R428, R440). -/
structure TxFlit where
  stretch : Bool
  vl : Nat
  start : Bool
  fin : Bool
  abt : Bool
  dfd : Bool
  payload : List Byte
  origin : Option (Nat × Nat) := none
  deriving DecidableEq, Repr

/-- Where a message goes: to a device, by the route of its first flit (R436), or out of one port (R459). -/
inductive TxDest where
  | dev (d : BitVec 12)
  | port (p : Nat)
  deriving DecidableEq, Repr

/-- A message being sent or waiting to be sent: its number, where it goes, the lane it came on (1 for one that enters the fabric here),
its header, whether it is forwarded, and its flits that have not been sent. -/
structure TxMsg where
  id : Nat
  dest : TxDest
  lane : Nat
  hdr : Option Msg
  fwd : Bool
  flits : List TxFlit
  deriving DecidableEq, Repr

/-- What becomes of the message whose flits arrive on a lane: none is in progress; it is for this device; it goes on as message `id`; it
has been refused. -/
inductive Ingress where
  | idle
  | here
  | forward (id : Nat)
  | drop
  deriving DecidableEq, Repr

/-- A sequenced flit that came before its turn on a bond (R434): its SEQ, header and payload, and when it came, in 1/8 ns. -/
structure EarlyFlit where
  seq : Nat
  hdr : Nat
  payload : List Byte
  rx : Word
  deriving DecidableEq, Repr

/-- The codeword pairs of a port (R422): the flits of the pair being formed, the pairs sent, and whether FEC could correct the pair
whose flits arrive. -/
structure Pairing where
  flits : List (List Byte) := []
  sent : Nat := 0
  rxGood : Bool := true
  deriving DecidableEq, Repr

/-- The link layer of a port, or of a bond at its lower-numbered member (R425–R428, R434): the message that holds each lane, the
credits held, the next SEQ, the retry buffer, when ACK last advanced, the consecutive replays, the data lane whose turn it is; the SEQ
expected, whether an ACK or a NAK is due, whether flits are discarded until the expected one, the flits of a bond that came early, the
credits to return and the flits in the receive buffer by lane, what becomes of the messages arriving, the flits of those for this
device; whether this member carries traffic, what its peer offered at training, the replays of this beat, when training began. -/
structure Link where
  sending : Vector (Option TxMsg) 3 := Vector.replicate 3 none
  credits : Vector Nat 3 := #v[128, 960, 960]
  nextSeq : Nat := 0
  unacked : List (Nat × TxFlit) := []
  ackAt : Word := 0
  replays : Nat := 0
  lane : Nat := 1
  expect : Nat := 0
  ackDue : Bool := false
  nak : Bool := false
  resync : Bool := false
  early : List EarlyFlit := []
  owed : Vector Nat 3 := #v[0, 0, 0]
  used : Vector Nat 3 := #v[0, 0, 0]
  ingress : Vector Ingress 3 := Vector.replicate 3 .idle
  asm : Vector (List (List Byte × Bool)) 3 := Vector.replicate 3 []
  alive : Bool := false
  peerBond : Bool := false
  beatReplays : Nat := 0
  trainAt : Word := 0
  deriving DecidableEq, Repr

/-- Who waits for the reply to a PUT or GET (R445, R575). -/
inductive ReqOwner where
  | sluice (e : EngineId) (q : QueueId)
  | collector (r : Report)
  deriving DecidableEq, Repr

/-- A PUT or GET that awaits its reply: its XID, owner, destination, the Sluice run it belongs to, and when it was sent. -/
structure FabReq where
  xid : BitVec 32
  owner : ReqOwner
  dst : BitVec 12
  run : Nat
  sentAt : Word
  deriving DecidableEq, Repr

/-- What waits for a message of a channel (R451, R453): a GET and when it arrived, or descriptor number `n` of a local queue, by QDONE. -/
inductive Waiter where
  | get (m : Msg) (at' : Word)
  | take (e : EngineId) (q : QueueId) (n : Nat)
  deriving DecidableEq, Repr

/-- An open channel (R448, R450–R454): its entry, HEAD and TAIL, and what waits for a message, in arrival order. -/
structure Chan where
  world : Bool
  putok : Bool
  getok : Bool
  anypeer : Bool
  slotlog : Nat
  ringlog : Nat
  peer : BitVec 12
  base : Nat
  head : BitVec 32
  tail : BitVec 32
  waits : List Waiter
  deriving DecidableEq, Repr

/-- The fabric: links and codeword pairs by port, messages that have not begun to leave, in order, and the number of the next, messages
that have reached this device with the lane they came on, requests that await replies, the next XID, the open channels, the epoch before the current one with the time of the edge at which that applied (R456), and the
world of the channel whose indices GCTL.CHSTAT holds. -/
structure Fabric where
  links : Vector Link 16 := Vector.replicate 16 {}
  pairs : Vector Pairing 16 := Vector.replicate 16 {}
  waiting : List TxMsg := []
  nextTx : Nat := 0
  inbox : List (Msg × Nat) := []
  reqs : List FabReq := []
  nextXid : BitVec 32 := 0
  chans : SMap (Option Chan) := []
  lastEpoch : Option (BitVec 16 × Word) := none
  statWorld : Bool := false
  deriving DecidableEq, Repr


/-! ### Reel (13) -/

/-- A collective descriptor as R463 lays it out. -/
structure RDesc where
  cid : Nat
  op : Nat
  topo : Nat
  wire : Nat
  csrc : Bool
  rejp : Bool
  retain : Bool
  irq : Bool
  tag : Nat
  elems : Nat
  etype : Nat
  headroom : Nat
  root : Nat
  nrank : Nat
  dimx : Nat
  seglog : Nat
  shv : Bool
  shrank : Nat
  gaddr : Nat
  src : Nat
  sext : Nat
  dst : Nat
  dext : Nat
  raddr : Nat
  rext : Nat
  shaddr : Nat
  dlbase : Nat
  dlhop : Nat
  bkwait : Nat
  staddr : Nat
  uaddr : Nat
  deriving DecidableEq, Repr

/-- An entry of the group table (R464): device and designated backup. -/
structure GEntry where
  dev : Nat
  bk : Option Nat
  deriving DecidableEq, Repr

/-- A poisoned contribution element (R496): its index, source device, and whether it was marked Deferred. -/
structure RBad where
  elem : Nat
  src : Nat
  marked : Bool
  deriving DecidableEq, Repr

/-- A segment's payload with its Deferred marks, and the lowest poisoned element it contains. -/
structure RIn where
  data : List (Byte × Bool)
  bad : Option RBad
  deriving DecidableEq, Repr

/-- A role that the device plays in a collective: its rank, the hop from which it sends, its contribution (or shadow copy) by
the first block of each segment, the segments received and the final segments formed, the segments sent with their lengths, and the gathered segments whose values
have reached DST. -/
structure RRole where
  rank : Nat
  fromHop : Nat := 0
  own : SMap (Option (List (Byte × Bool))) := []
  got : SMap (Option RIn) := []
  fin : SMap (Option RIn) := []
  sent : SMap (Option (Nat × Option RBad)) := []
  put : SMap Bool := []
  deriving DecidableEq, Repr

/-- A running digest entry (R504): peer, received, bytes, CRC register. -/
structure RPeer where
  peer : Nat
  rx : Bool
  bytes : Nat
  crc : Nat
  deriving DecidableEq, Repr

/-- What a Reel slot holds beside its registers: the collective, its group and update block, its PHASH, whether it counts for the
beat; T0 (R487); its roles; the grants received by (own role, receiver), the device that plays each replaced role (1 + device), the roles
asked of a backup by (role, hop), those heard from a substitute, the contribution segments whose copy is awaited and since when;
the drain buffer; what the status record will hold; and whether its work waits for a copy of R342 or R345. -/
structure RSlot where
  desc : Option RDesc := none
  group : List GEntry := []
  update : List Byte := []
  phash : Nat := 0
  counts : Bool := false
  beat : Word := 0
  t0 : Word := 0
  roles : List RRole := []
  grants : SMap Nat := []
  acts : SMap Nat := []
  asked : SMap Bool := []
  heard : SMap Bool := []
  copies : SMap (Option Word) := []
  elems : SMap (Option (Word × Bool)) := []
  fl : BitVec 5 := 0
  nan : Bool := false
  deferred : Bool := false
  backup : Bool := false
  dstlost : Bool := false
  latehand : Bool := false
  rejected : Bool := false
  bad : Option RBad := none
  promoted : Nat := 0
  backups : Nat := 0
  miss : Option (Nat × Nat × Nat) := none
  peers : List RPeer := []
  stalled : Bool := false
  deriving DecidableEq, Repr

/-- The Reel: its slots, and whether an ending of R500 holds its EDONE bit clear until the next edge. -/
structure Reel where
  slots : Vector RSlot 64 := Vector.replicate 64 {}
  hold : Bool := false
  deriving DecidableEq, Repr

/-! ### Sessions (14) -/

/-- The schedule entries read for the pending edge (R512), with their marks, whether another entry lay behind the last, and whether they
were read for the edge as it stands; and until when the move of R510 keeps SESS.CMD busy. -/
structure Sess where
  entries : List (List (Byte × Bool)) := []
  more : Bool := false
  fresh : Bool := false
  busyUntil : Option Word := none
  deriving DecidableEq, Repr
/-- One Spindle's state beside its threads and registers. -/
structure Spindle where
  l1d : Cache := {}
  l1i : Cache := {}
  /-- The pan scrubber's next line (R306), and the offset of the first access of this beat refused by a fenced pan (R583). -/
  scrubLine : Nat := 0
  refusedAt : Option Nat := none
  mx : Matrix := {}
  deriving DecidableEq, Repr

/-- The MC (17): its report FIFO, the merge table by entry, the time each entry opened, records waiting for ring space. -/
structure Mc where
  running : Bool := false
  /-- When the watchdog was last kicked or the MC started (R580); a firmware swap is under way to this slot (R588). -/
  kickAt : Word := 0
  swapTo : Option Nat := none
  watchdog : Bool := false
  fifo : List Report := []
  table : SMap (Option Merge) := []
  waiting : List ErrRec := []
  deriving DecidableEq, Repr

/-- Reasons to stop with a fault. The spec gives every command an effect in every state, so no meaning of this model stops so. -/
inductive Fault where
  /-- Raised by no meaning; safe. -/
  | none
  deriving DecidableEq, Repr

/-- Reasons to refuse a command. -/
inductive Refusal where
  /-- The command has no meaning yet: answered by its arm of `exec` alone; safe. -/
  | notModelled (mnemonic : String)
  deriving DecidableEq, Repr

structure State where
  /-- The commands that wait, first in first out. -/
  pending : List Instr
  /-- The registers of BAR0, by the offset of their 8 bytes (R4, R5). -/
  regs : SMap Word
  /-- The bytes of memory: HBM by storage place (R327, R328, R332, R333), the other windows by device address (R2). -/
  mem : List Host.Cell
  /-- Words and codewords marked Deferred, by the key of their first byte (R303, R340). -/
  marks : SMap Bool
  /-- Latent errors by the same keys: 1 correctable, 2 uncorrectable. -/
  errs : SMap Nat
  /-- Latent parity errors of RTT entries, by index (R570). -/
  rttBad : SMap Bool
  beat : Beat
  /-- Cycles of the four quadrant core clocks, and fortieths of a cycle beyond them (R1, R99). -/
  cycles : Vector Nat 4
  cycleFrac : Vector Nat 4
  threads : Vector Thread 48
  spindles : Vector Spindle 12
  hbm : Vector Stack 24
  rtt : Rtt
  fq : Fq
  sluice : Vector (Vector SlQueue 4) 16
  chk : Vector ChkUnit 16
  host : Endpoint
  mc : Mc
  box : Mailbox
  power : Power
  flash : Flash
  sec : Sec
  fab : Fabric
  reel : Reel
  sess : Sess
  boot : Boot
  out : List Out
  /-- The model's own field: the number of free values used so far. -/
  free : Nat
  deriving DecidableEq, Repr

/-- The device right after reset: every register at its reset value, memory with nothing listed. DESIGN CHOICE: assumption 3. DESIGN CHOICE: assumption 7. DESIGN CHOICE: assumption 8. DESIGN CHOICE: assumption 62. -/
def State.reset : State where
  pending := []
  regs := regResets
  mem := []
  marks := []
  errs := []
  rttBad := []
  beat := {}
  cycles := Vector.replicate 4 0
  cycleFrac := Vector.replicate 4 0
  threads := Vector.replicate 48 {}
  spindles := Vector.replicate 12 {}
  hbm := Vector.replicate 24 {}
  rtt := {}
  fq := {}
  sluice := Vector.replicate 16 (Vector.replicate 4 {})
  chk := Vector.replicate 16 {}
  host := {}
  mc := {}
  box := {}
  power := {}
  flash := {}
  sec := {}
  fab := {}
  reel := {}
  sess := {}
  boot := {}
  out := []
  free := 0

end Sys2Proof.Machine
end

