-- ==== Sys2Proof/Machine/Ops.lean ====
section
/-! DEFINITION. The operations every unit shares: reading and writing a field of a register, counters, output, interrupts
(R131–R135, R531), fault reports (R569, R573, R574), and the effect of an access code on a write (R8, R10). -/

namespace Sys2Proof.Machine
open Sys2Proof

/-! ### Registers -/

def getF (w : Word) (f : Fld) : Nat := field w f.hi f.lo
def putF (w : Word) (f : Fld) (v : Nat) : Word := setField w f.hi f.lo v

def State.reg (s : State) (off : Nat) : Word := SMap.get 0 s.regs off
def State.setReg (s : State) (off : Nat) (v : Word) : State := { s with regs := SMap.set 0 s.regs off v }
def State.fld (s : State) (off : Nat) (f : Fld) : Nat := getF (s.reg off) f
def State.flag (s : State) (off : Nat) (f : Fld) : Bool := decide (s.fld off f ≠ 0)
def State.setFld (s : State) (off : Nat) (f : Fld) (v : Nat) : State := s.setReg off (putF (s.reg off) f v)
def State.setFlag (s : State) (off : Nat) (f : Fld) (b : Bool) : State := s.setFld off f (boolNat b)

/-- The canonical form of memory: addresses strictly rising, and no entry equal to zero, which an unlisted address reads as. -/
abbrev Memory.wf (m : List Host.Cell) : Prop := SMap.wf (0 : Byte) m = true

/-- A counter register advances by `n`; a 64-bit counter wraps. -/
def State.bump (s : State) (off n : Nat) : State := s.setReg off (s.reg off + BitVec.ofNat 64 n)

/-- A counter of 32 bits advances by `n` and wraps within its field. -/
def State.bump32 (s : State) (off n : Nat) : State := s.setReg off (setField (s.reg off) 31 0 (field (s.reg off) 31 0 + n))

def State.now (s : State) : Word := s.reg R.BEAT_TIMEBASE
def State.beatNo (s : State) : Word := s.reg R.BEAT_NUMBER
def State.devId (s : State) : BitVec 12 := BitVec.ofNat 12 (s.fld R.GCTL_DEVID F.GCTL_DEVID_ID)
def State.epoch (s : State) : BitVec 16 := BitVec.ofNat 16 (s.fld R.GCTL_EPOCH F.GCTL_EPOCH_EPOCH)
/-- Level 1 behaviour is in force (R12). -/
def State.level1 (s : State) : Bool := s.flag R.GCTL_COMPAT F.GCTL_COMPAT_LEVEL1
def State.running (s : State) : Bool := s.flag R.BEAT_CTRL F.BEAT_CTRL_RUN

/-- The device has stopped under R571. -/
def State.fatal (s : State) : Bool := s.flag R.MC_ERRSTAT F.MC_ERRSTAT_FATAL
/-- The clocks of the quadrants, weft, stacks and links stand still: after THERMTRIP_L (R603), without power (R624), or because
the device has stopped under R571. DESIGN CHOICE: assumption 13. -/
def State.stopped (s : State) : Bool := s.fatal || s.power.tripped || !s.power.powered
/-- SELFTEST has ended since the last device start: GCTL.BOOTINFO.VALID (R533, R623). -/
def State.selfTested (s : State) : Bool := s.flag R.GCTL_BOOTINFO F.GCTL_BOOTINFO_VALID

/-! ### Units by index -/

def State.thr (s : State) (t : Thr) : Thread := s.threads[t]
def State.setThr (s : State) (t : Thr) (x : Thread) : State := { s with threads := s.threads.set t x }
def State.updThr (s : State) (t : Thr) (f : Thread → Thread) : State := s.setThr t (f (s.thr t))
def State.spin (s : State) (n : SpindleId) : Spindle := s.spindles[n]
def State.setSpin (s : State) (n : SpindleId) (x : Spindle) : State := { s with spindles := s.spindles.set n x }
def State.updSpin (s : State) (n : SpindleId) (f : Spindle → Spindle) : State := s.setSpin n (f (s.spin n))
def State.stack (s : State) (k : StackId) : Stack := s.hbm[k]
def State.setStack (s : State) (k : StackId) (x : Stack) : State := { s with hbm := s.hbm.set k x }
def State.updStack (s : State) (k : StackId) (f : Stack → Stack) : State := s.setStack k (f (s.stack k))

/-- The Spindle of thread `t` and its number within it: t = 4n + k (R18). -/
def spindleOf (t : Thr) : SpindleId := ⟨t.val / 4, by have := t.isLt; omega⟩
def threadIn (t : Thr) : Fin 4 := ⟨t.val % 4, Nat.mod_lt _ (by decide)⟩
def thrOf (n : SpindleId) (k : Fin 4) : Thr := ⟨4 * n.val + k.val, by have := n.isLt; have := k.isLt; omega⟩
def stackNo (k : Nat) : StackId := ⟨k % 24, Nat.mod_lt _ (by decide)⟩
def spindleNo (n : Nat) : SpindleId := ⟨n % 12, Nat.mod_lt _ (by decide)⟩
def thrNo (t : Nat) : Thr := ⟨t % 48, Nat.mod_lt _ (by decide)⟩

def allThr : List Thr := List.finRange 48
def allSpindles : List SpindleId := List.finRange 12
def allStacks : List StackId := List.finRange 24

/-- g0 reads zero (R60). -/
def Thread.rg (x : Thread) (r : Reg6) : Word := if r = 0 then 0 else x.g[r.toFin]
/-- g0 discards writes (R60). -/
def Thread.wg (x : Thread) (r : Reg6) (v : Word) : Thread := if r = 0 then x else { x with g := x.g.set r.toFin v }

/-- The next free value (R62 and the other places where the spec leaves a value open). DESIGN CHOICE: assumption 4. -/
def State.freeWord (s : State) : State × Word := ({ s with free := s.free + 1 }, Config.freeWord s.free)
def State.freeByte (s : State) : State × Byte := ({ s with free := s.free + 1 }, Config.freeByte s.free)

/-- DESIGN CHOICE: assumption 110. -/
def State.emit (s : State) (o : Out) : State := { s with out := s.out ++ [o] }

/-! ### Control registers by number (R99, R143) -/

def CR.THID : Nat := 0x000
def CR.CYCLE : Nat := 0x001
def CR.INSTRET : Nat := 0x002
def CR.TIME : Nat := 0x003
def CR.LC (j : Nat) : Nat := 0x010 + 3 * j
def CR.LS (j : Nat) : Nat := 0x011 + 3 * j
def CR.LE (j : Nat) : Nat := 0x012 + 3 * j
def CR.TXSTAT : Nat := 0x018
def CR.TCR : Nat := 0x020
def CR.FCSR : Nat := 0x030
def CR.TFLAGS (j : Nat) : Nat := 0x034 + j
def CR.TDSTAT (j : Nat) : Nat := 0x038 + j
def CR.VCFG : Nat := 0x040
def CR.VRES : Nat := 0x041
def CR.TSBR : Nat := 0x100
def CR.STATUS : Nat := 0x101
def CR.IEN : Nat := 0x102
def CR.IPEND : Nat := 0x103
def CR.GTB : Nat := 0x104
def CR.SSP : Nat := 0x105
def CR.USP : Nat := 0x106
def CR.CRB (i : Nat) : Nat := 0x108 + i
def CR.CRL (i : Nat) : Nat := 0x10C + i
def CR.TCMP : Nat := 0x110
def CR.SVSA : Nat := 0x180
def CR.SWAKE : Nat := 0x181

def Thread.bank (x : Thread) (w : Bool) : SMap Word := if w then x.bankS else x.bankO
def Thread.setBank (x : Thread) (w : Bool) (b : SMap Word) : Thread := if w then { x with bankS := b } else { x with bankO := b }
def Thread.pend (x : Thread) (w : Bool) : SMap (Option Word) := if w then x.pendS else x.pendO
def Thread.setPend (x : Thread) (w : Bool) (b : SMap (Option Word)) : Thread :=
  if w then { x with pendS := b } else { x with pendO := b }
/-- The value in force of a banked register of world `w`. -/
def Thread.bcr (x : Thread) (w : Bool) (n : Nat) : Word := SMap.get 0 (x.bank w) n
def Thread.setBcr (x : Thread) (w : Bool) (n : Nat) (v : Word) : Thread := x.setBank w (SMap.set 0 (x.bank w) n v)
/-- A register with one copy per thread. -/
def Thread.ucr (x : Thread) (n : Nat) : Word := SMap.get 0 x.cr n
def Thread.setUcr (x : Thread) (n : Nat) (v : Word) : Thread := { x with cr := SMap.set 0 x.cr n v }

def Thread.ie (x : Thread) (w : Bool) : Bool := bit (x.bcr w CR.STATUS) 0
def Thread.inh (x : Thread) (w : Bool) : Bool := bit (x.bcr w CR.STATUS) 1
def Thread.nochain (x : Thread) (w : Bool) : Bool := bit (x.bcr w CR.STATUS) 2
def Thread.holdo (x : Thread) : Bool := bit (x.bcr true CR.STATUS) 3

/-! ### Interrupt lines (R131–R135) -/

/-- A timer line is pending while CR.TIME ≥ CR.TCMP and TCMP ≠ 0 in its bank (R132). -/
def timerPending (s : State) (x : Thread) (w : Bool) : Bool :=
  decide (x.bcr w CR.TCMP ≠ 0) && decide ((x.bcr w CR.TCMP).toNat ≤ s.now.toNat)

/-- CR.IPEND of world `w` as it reads: the event lines with the bank's timer line (R131, R132). -/
def pendingLines (s : State) (x : Thread) (w : Bool) : Nat :=
  (x.bcr w CR.IPEND).toNat ||| (if timerPending s x w then (if w then 2 ^ 25 else 2 ^ 24) else 0)

/-- wfi completes when any line of either bank is pending with its IEN bit set (R134). -/
def wakeWfi (s : State) (t : Thr) : State :=
  let x := s.thr t
  if x.run = .waiting ∧
      (pendingLines s x false &&& (x.bcr false CR.IEN).toNat ≠ 0 ∨ pendingLines s x true &&& (x.bcr true CR.IEN).toNat ≠ 0) then
    s.setThr t { x with run := .running }
  else s

/-- An event sets line `i` in CR.IPEND of the line's world `w` (R132). -/
def raiseLine (s : State) (t : Thr) (w : Bool) (i : Nat) : State :=
  let x := s.thr t
  wakeWfi (s.setThr t (x.setBcr w CR.IPEND (x.bcr w CR.IPEND ||| BitVec.ofNat 64 (2 ^ i)))) t

/-- Device source `src` raises an event on its routed line (R135). -/
def raiseSource (s : State) (src : Nat) : State :=
  let r := s.reg (R.FQ_TROUTE src)
  if getF r F.FQ_TROUTE_EN ≠ 0 ∧ getF r F.FQ_TROUTE_THREAD < 48 then
    raiseLine s (thrNo (getF r F.FQ_TROUTE_THREAD)) (decide (getF r F.FQ_TROUTE_WORLD ≠ 0)) (getF r F.FQ_TROUTE_LINE)
  else s

/-! ### MSI-X (R531) -/

/-- A source sends the message of vector `v`. -/
def sendMsix (s : State) (v : Nat) : State :=
  if s.host.msixEn && s.host.bme && !s.host.d3hot then
    if s.host.funcMask || !SMap.get false s.host.unmasked v then
      { s with host := { s.host with pba := SMap.set false s.host.pba v true } }
    else s.emit (.msix v)
  else s

/-- Pending vectors that are unmasked send their messages in increasing order (R531). -/
def releaseMsix (s : State) : State :=
  if s.host.msixEn && s.host.bme && !s.host.funcMask && !s.host.d3hot then
    let go := (s.host.pba.filter (fun e => SMap.get false s.host.unmasked e.1)).map (·.1)
    let s1 := { s with host := { s.host with pba := s.host.pba.filter (fun e => !SMap.get false s.host.unmasked e.1) } }
    go.foldl (fun z v => z.emit (.msix v)) s1
  else s

/-- An event of a register laid out as MEM.IRQ, HANK.IRQ, MC.IRQ, MBOX.IRQ and THERM.IRQ: its status bit is set, and if its
enable is set the unit raises its routed source and, with MSI_EN, one MSI-X message. -/
def unitEvent (s : State) (off ev en : Nat) (vec msi : Fld) (src : Option Nat) : State :=
  let s := s.setReg off (setBit (s.reg off) ev true)
  if bit (s.reg off) (en + ev) then
    let s := match src with | some n => raiseSource s n | none => s
    if s.flag off msi then sendMsix s (s.fld off vec) else s
  else s

/-- Event `ev` of stack `k` (R355). -/
def memEvent (s : State) (k : StackId) (ev : Nat) : State :=
  unitEvent s (R.MEM_IRQ k) ev 8 F.MEM_IRQ_MSIVEC F.MEM_IRQ_MSI_EN (some (21 + k.val))
/-- Event `ev` of port `p` (R461). -/
def hankEvent (s : State) (p : PortId) (ev : Nat) : State :=
  unitEvent s (R.HANK_IRQ p) ev 8 F.HANK_IRQ_MSIVEC F.HANK_IRQ_MSI_EN (some (45 + p.val))
/-- Event `ev` of MC.IRQ (R590). -/
def mcEvent (s : State) (ev : Nat) : State :=
  unitEvent s R.MC_IRQ ev 8 F.MC_IRQ_MSIVEC F.MC_IRQ_MSI_EN (some 20)
/-- ALERT_L is asserted (R604). -/
def alertOn (s : State) : Bool :=
  s.fatal || decide (s.fld R.THERM_IRQ ⟨5, 0⟩ &&& s.fld R.THERM_IRQ F.THERM_IRQ_ALERTEN ≠ 0)

/-- A change of ALERT_L leaves the package. -/
def alertAfter (old s : State) : State := if alertOn s = alertOn old then s else s.emit (.pin .alert (!alertOn s))

/-- Event `ev` of THERM.IRQ (R606). -/
def thermEvent (s : State) (ev : Nat) : State :=
  alertAfter s (unitEvent s R.THERM_IRQ ev 8 F.THERM_IRQ_MSIVEC F.THERM_IRQ_MSI_EN (some 20))
/-- Event `ev` of MBOX.IRQ (R536, R547). -/
def mboxEvent (s : State) (ev : Nat) : State :=
  unitEvent s R.MBOX_IRQ ev 8 F.MBOX_IRQ_MSIVEC F.MBOX_IRQ_MSI_EN none

/-- A fault-queue event of R388: its bit of FQ.STAT, and its enable in FQ.IRQ. -/
def fqEvent (s : State) (ev : Fld) (en : Fld) : State :=
  let s := s.setFlag R.FQ_STAT ev true
  if s.flag R.FQ_IRQ en then
    let s := raiseSource s 19
    if s.flag R.FQ_IRQ F.FQ_IRQ_MSI_EN then sendMsix s (s.fld R.FQ_IRQ F.FQ_IRQ_MSIVEC) else s
  else s

/-! ### Fault reports (R568, R569, R573, R574) -/

/-- Unit kinds of R573. -/
def UKind.SPINDLE : Nat := 1
def UKind.QUARTER : Nat := 2
def UKind.PAN : Nat := 3
def UKind.STACK : Nat := 4
def UKind.PCH : Nat := 5
def UKind.PORT : Nat := 6
def UKind.SLUICE : Nat := 7
def UKind.REELC : Nat := 8
def UKind.WEFT : Nat := 9
def UKind.MC : Nat := 10
def UKind.PCIE : Nat := 11
def UKind.TSTORE : Nat := 12
def UKind.SESSION : Nat := 13

/-- The class of each error code (R569): 0 Corrected, 1 Deferred, 2 Contained, 3 Fatal. -/
def codeClass (code : Nat) : Nat :=
  if code ∈ [0x01, 0x03, 0x07, 0x0F, 0x10, 0x14] then 0
  else if code ∈ [0x02, 0x04, 0x05, 0x08, 0x15, 0x16] then 1
  else if code ∈ [0x09, 0x11, 0x12] then 3
  else 2

/-- A unit hands its report to the MC, whose FIFO holds 4,096 entries while the MC does not run (R574, R580). -/
def pushReport (s : State) (r : Report) : State :=
  if !s.mc.running && decide (4096 ≤ s.mc.fifo.length) then s.bump R.MC_REPLOST 1
  else { s with mc := { s.mc with fifo := s.mc.fifo ++ [r] } }

/-- A report on device `dev`, made by this device at this moment. -/
def reportOn (s : State) (dev : BitVec 12) (kind index code : Nat) (repair : Bool) (detail : Word) : State :=
  pushReport s
    { dev := dev, kind := BitVec.ofNat 4 kind, index := BitVec.ofNat 12 index, epoch := s.epoch, time := s.now,
      cls := BitVec.ofNat 2 (codeClass code), repair := repair, code := BitVec.ofNat 8 code, reporter := s.devId, detail := detail }

def report (s : State) (kind index code : Nat) (detail : Word) : State := reportOn s s.devId kind index code false detail

/-! ### Writes by access code (R8, R10) -/

/-- The bits of the 8 bytes that an access covers: all, the lower half or the upper half. -/
def accessMask (size8 hi : Bool) : Word :=
  if size8 then BitVec.allOnes 64 else if hi then 0xFFFFFFFF00000000 else 0x00000000FFFFFFFF

def fieldMask (hi lo : Nat) : Word := BitVec.ofNat 64 ((2 ^ (hi + 1 - lo) - 1) <<< lo)

/-- What one field's bits become under a write of `v` to the bits of `m`. -/
def writeField (v m : Word) (old : Word) (f : FieldDesc) : Word :=
  let b := fieldMask f.hi f.lo &&& m
  match f.acc with
  | .rw => maskMerge old v b
  | .w1c => old &&& ~~~(v &&& b)
  | .ro | .wo | .rc => old

/-- The register after a write of `v` to the bits of `m`, by its access codes alone. -/
def writeByCodes (d : RegDesc) (old v m : Word) : Word := d.fields.foldl (writeField v m) old

/-- Only the staged fields, or only the others. -/
def writeOnly (d : RegDesc) (staged : Bool) (old v m : Word) : Word :=
  (d.fields.filter (fun f => f.staged == staged)).foldl (writeField v m) old

def RegDesc.anyStaged (d : RegDesc) : Bool := d.fields.any (·.staged)

/-- The bits that read as held: not write-only and not RSV (R10). -/
def readMask (d : RegDesc) : Word :=
  d.fields.foldl (fun a f => if f.acc = .wo then a else a ||| fieldMask f.hi f.lo) 0

/-- The bits of write-only fields that a write of `v` to the bits of `m` carries. -/
def woBits (d : RegDesc) (v m : Word) : Word :=
  d.fields.foldl (fun a f => if f.acc = .wo then a ||| (v &&& m &&& fieldMask f.hi f.lo) else a) 0

/-- A read clears the RC fields within the addressed bits (R8, R10). -/
def clearRc (d : RegDesc) (old m : Word) : Word :=
  d.fields.foldl (fun a f => if f.acc = .rc then a &&& ~~~(fieldMask f.hi f.lo &&& m) else a) old

end Sys2Proof.Machine
end

