-- ==== Sys2Proof/Machine/Link.lean ====
section
/-! DEFINITION. The sending side of the fabric: codeword pairs (R422), message headers and flits (R423, R441), routes (R435–R439),
lanes, credits and retry (R425–R428), bonds (R434), and messages sent on by cut-through (R440). -/

namespace Sys2Proof.Machine
open Sys2Proof

def State.updFab (s : State) (f : Fabric → Fabric) : State := { s with fab := f s.fab }
def State.updLink (s : State) (p : Nat) (f : Link → Link) : State :=
  s.updFab (fun x => match x.links[p]? with | some l => { x with links := x.links.set! p (f l) } | none => x)
def State.link (s : State) (p : Nat) : Link := (s.fab.links.toList[p]?).getD {}
def State.updPairs (s : State) (p : Nat) (f : Pairing → Pairing) : State :=
  s.updFab (fun x => match x.pairs[p]? with | some l => { x with pairs := x.pairs.set! p (f l) } | none => x)
def State.pairing (s : State) (p : Nat) : Pairing := (s.fab.pairs.toList[p]?).getD {}

/-! ### Port states (R429, R434) -/

def portState (s : State) (p : Nat) : Nat := s.fld (R.HANK_STAT p) F.HANK_STAT_STATE
/-- UP or DEGRADED. -/
def portLive (s : State) (p : Nat) : Bool := decide (portState s p = 2 ∨ portState s p = 3)
def bonded (s : State) (p : Nat) : Bool := s.flag (R.HANK_STAT p) F.HANK_STAT_BONDED
/-- The other member of a port pair. -/
def mate (p : Nat) : Nat := if p % 2 = 0 then p + 1 else p - 1
/-- Where the link layer of a port is held: a bond has one, at its lower-numbered member. -/
def linkAt (s : State) (p : Nat) : Nat := if bonded s p then p / 2 * 2 else p
/-- The ports that carry the flits of link `l`. -/
def members (s : State) (l : Nat) : List Nat :=
  (if bonded s l then [l, l + 1] else [l]).filter (fun p => portLive s p && (s.link p).alive)

/-! ### Messages as bytes (R441) -/

def msgWithKind (m : Msg) (k : Nat) : Msg := { m with kind := BitVec.ofNat 4 k }
def MK.PUT : Nat := 1
def MK.GET : Nat := 2
def MK.GETDATA : Nat := 3
def MK.ACK : Nat := 4
def MK.NACK : Nat := 5
def MK.REEL : Nat := 6

/-- The 32-byte message header. -/
def msgHeader (m : Msg) : List Byte :=
  [BitVec.ofNat 8 (m.kind.toNat + boolNat m.sealed * 16 + boolNat m.sv * 32), m.reason] ++ leBytes 2 m.chan.toNat ++
    leBytes 2 m.dst.toNat ++ leBytes 2 m.src.toNat ++ leBytes 2 m.stamp.toNat ++ leBytes 2 m.epoch.toNat ++ leBytes 4 m.len.toNat ++
    leBytes 4 m.xid.toNat ++ [m.hops] ++
    (if m.sealed then [BitVec.ofNat 8 m.keyid.toNat] ++ leBytes 8 m.nonce.toNat ++ [0, 0] else List.replicate 11 0)

/-- The message whose header stands in the payload of its first flit, without its data. -/
def readHeader (h : List Byte) : Msg :=
  let n (i k : Nat) := ofLe ((h.drop i).take k)
  let w0 := n 0 1
  let sealed' := w0.testBit 4
  { kind := BitVec.ofNat 4 w0, sealed := sealed', sv := w0.testBit 5, reason := BitVec.ofNat 8 (n 1 1), chan := BitVec.ofNat 16 (n 2 2),
    dst := BitVec.ofNat 12 (n 4 2), src := BitVec.ofNat 12 (n 6 2), stamp := BitVec.ofNat 16 (n 8 2), epoch := BitVec.ofNat 16 (n 10 2),
    len := BitVec.ofNat 17 (n 12 4), xid := BitVec.ofNat 32 (n 16 4), hops := BitVec.ofNat 8 (n 20 1),
    keyid := if sealed' then BitVec.ofNat 1 (n 21 1) else 0, nonce := if sealed' then BitVec.ofNat 64 (n 22 8) else 0, tag := 0, data := [],
    marks := [] }

/-- The data bytes on the wire: the tag of a Sealed message follows its data (R560). -/
def msgBody (m : Msg) : List Byte := m.data ++ (if m.sealed then leBytes 16 m.tag.toNat else [])

/-- A list cut into parts of `n`; `fuel` bounds their number. -/
def chunks (n : Nat) : Nat → List Byte → List (List Byte)
  | 0, _ => []
  | fuel + 1, l => if l = [] then [] else l.take n :: chunks n fuel (l.drop n)

def padTo (n : Nat) (l : List Byte) : List Byte := l ++ List.replicate (n - l.length) 0

/-- The flits of a message (R423, R441, R446). -/
def msgFlits (m : Msg) : List TxFlit :=
  let b := msgBody m
  let rest := chunks 244 (b.length / 244 + 1) (b.drop 212)
  let parts := (msgHeader m ++ b.take 212) :: rest
  let n := parts.length
  parts.mapIdx (fun i p => { stretch := false, vl := 0, start := decide (i = 0), fin := decide (i + 1 = n), abt := false,
                             dfd := decide (i ∈ m.marks), payload := padTo 244 p })

/-! ### Flits and codeword pairs (R422–R425) -/

/-- The 256 bytes of a flit (R423, R424). -/
def flitBytes (ftype vl : Nat) (start fin abt dfd nak : Bool) (seq ack cvl ccount : Nat) (payload : List Byte) : List Byte :=
  let h := ftype + vl * 8 + boolNat start * 32 + boolNat fin * 64 + boolNat abt * 128 + boolNat dfd * 256 + boolNat nak * 512 +
    seq % 4096 * 2 ^ 10 + ack % 4096 * 2 ^ 22 + cvl * 2 ^ 34 + ccount % 4096 * 2 ^ 36
  let b := leBytes 8 h ++ padTo 244 payload
  b ++ leBytes 4 (crc32 b)

/-- Message symbols of one codeword of a pair. -/
def Fec.msgSymbols : Nat := 514
/-- Flits of a codeword pair. -/
def Fec.flits : Nat := 5

/-- The symbols of codeword `j` of a pair whose 10,280 message bits are `n`: symbols of 10 bits are dealt to the two codewords by turns. -/
def codeword (n j : Nat) : List (BitVec 10) :=
  let m := (List.range Fec.msgSymbols).map (fun k => BitVec.ofNat 10 (n / 2 ^ (10 * (2 * k + j))))
  m ++ (Config.rsParity m).toList

/-- The symbols of a codeword pair on each of the 8 lanes: header and flits, lowest bit first, interleaved and striped symbol by symbol
(R422). DESIGN CHOICE: assumption 69. -/
def pairLanes (header : BitVec 40) (flits : List Byte) : List (List (BitVec 10)) :=
  let n := header.toNat + ofLe flits * 2 ^ 40
  let syms := ((codeword n 0).zip (codeword n 1)).flatMap (fun p => [p.1, p.2])
  (List.range 8).map (fun l => (syms.zipIdx.filter (fun x => decide (x.2 % 8 = l))).map (·.1))

/-- The message bytes of a codeword pair, from the message symbols of its two codewords: the 5-byte header and the five flits (R422). -/
def pairMessage (a b : List (BitVec 10)) : List Byte :=
  let n := ((a.zip b).flatMap (fun p => [p.1, p.2])).foldr (fun x acc => x.toNat + acc * 2 ^ 10) 0
  leBytes 1285 n

/-- A flit joins the codeword pair of port `p`; the fifth completes it. -/
def joinPair (s : State) (p : Nat) (flit : List Byte) : State :=
  let x := s.pairing p
  let fs := x.flits ++ [flit]
  if fs.length < Fec.flits then s.updPairs p (fun y => { y with flits := fs })
  else (s.updPairs p (fun y => { y with flits := [], sent := y.sent + 1 })).emit (.codewords p (pairLanes (Config.pairHeader x.sent) fs.flatten))

/-- The member on which a sequenced flit leaves: a bond alternates its members (R434). -/
def egress (s : State) (l seq : Nat) : Nat :=
  match members s l with
  | [p, q] => if seq % 2 = 0 then p else q
  | p :: _ => p
  | [] => l

/-- A flit leaves on port `p`: it carries ACK, a due NAK and the credits of one lane (R425). -/
def putFlit (s : State) (l p ftype vl seq : Nat) (start fin abt dfd : Bool) (payload : List Byte) : State :=
  let x := s.link l
  let cvl := ((List.range 3).find? (fun v => decide (x.owed.toList.getD v 0 ≠ 0))).getD 0
  let n := x.owed.toList.getD cvl 0
  let s := s.updLink l (fun y => { y with nak := false, ackDue := false, owed := y.owed.set! cvl 0 })
  let s := if ftype = 0 then s else s.bump (R.HANK_TXFLITS p) 1
  let b := flitBytes ftype vl start fin abt dfd x.nak seq (x.expect + 4095) cvl n payload
  joinPair (s.emit (.flit p b)) p b

/-- An IDLE flit (R423). -/
def putIdle (s : State) (l p : Nat) : State := putFlit s l p 0 0 0 false false false false []

/-- DESIGN CHOICE: assumption 69. -/
def sendSeq (s : State) (l seq : Nat) (f : TxFlit) : State :=
  putFlit s l (egress s l seq) (if f.stretch then 4 else 2) f.vl seq f.start f.fin f.abt f.dfd f.payload

/-! ### Routes (R436–R439) -/

/-- The port by which a message to device `d` leaves. -/
def routePort (s : State) (d : Nat) : Option Nat :=
  let r := s.reg (R.GCTL_ROUTE d)
  if getF r F.GCTL_ROUTE_VALID = 0 then none
  else if portLive s (getF r F.GCTL_ROUTE_PORT) then some (getF r F.GCTL_ROUTE_PORT)
  else if getF r F.GCTL_ROUTE_ALTV ≠ 0 ∧ portLive s (getF r F.GCTL_ROUTE_ALT) then some (getF r F.GCTL_ROUTE_ALT)
  else none

def isReply (m : Msg) : Bool := decide (m.kind = 4 ∨ m.kind = 5)

/-- The port by which a message would leave now. -/
def TxMsg.port (s : State) (t : TxMsg) : Option Nat :=
  match t.dest with
  | .dev d => routePort s d.toNat
  | .port p => if portLive s p then some p else none

/-- The lane on which it would leave now (R427, R438, R442). -/
def TxMsg.vl (s : State) (t : TxMsg) : Nat :=
  match t.dest with
  | .port _ => 0
  | .dev d => if t.hdr.any isReply then 0 else if t.lane = 2 ∨ s.flag (R.GCTL_ROUTE d.toNat) F.GCTL_ROUTE_DATELINE then 2 else 1

/-- The message waits for lane `v` of link `l`. -/
def TxMsg.wants (s : State) (l v : Nat) (t : TxMsg) : Bool :=
  match t.port s with
  | some p => decide (linkAt s p = l) && decide (t.vl s = v)
  | none => false

/-! ### Receive buffers (R427, R428) -/

/-- A flit leaves the receive buffer of its ingress lane, and its credit is due. -/
def freeFlits (s : State) (l v n : Nat) : State :=
  s.updLink l (fun y => { y with owed := y.owed.set! v (y.owed.toList.getD v 0 + n), used := y.used.set! v (y.used.toList.getD v 0 - n) })

def freeOrigin (s : State) (f : TxFlit) : State := match f.origin with | some (l, v) => freeFlits s l v 1 | none => s

/-! ### Refusals -/

/-- The NACK of a refused PUT or GET (R442, R452). -/
def nackOf (s : State) (m : Msg) (reason : Nat) : Msg :=
  { kind := 5, sealed := false, sv := false, reason := BitVec.ofNat 8 reason, chan := m.chan, dst := m.src, src := s.devId, stamp := 0,
    epoch := s.epoch, len := 0, xid := m.xid, hops := 0, keyid := 0, nonce := 0, tag := 0, data := [], marks := [] }

/-- A message joins those that wait to leave. -/
def queueTx (s : State) (dest : TxDest) (lane : Nat) (hdr : Option Msg) (fwd : Bool) (fs : List TxFlit) : State :=
  s.updFab (fun x => { x with nextTx := x.nextTx + 1, waiting := x.waiting ++ [⟨x.nextTx, dest, lane, hdr, fwd, fs⟩] })

/-- A message leaves, or is delivered to this device itself; none when no port can carry it. `vl` is the lane it came on, 1 for
a message that enters the fabric; `fwd` says that it is forwarded. -/
def trySend (s : State) (m : Msg) (vl : Nat) (fwd : Bool) : Option State :=
  if m.dst = s.devId then some (s.updFab (fun x => { x with inbox := x.inbox ++ [(m, if isReply m then 0 else vl)] }))
  else match routePort s m.dst.toNat with
    | none => none
    | some _ => some (queueTx s (.dev m.dst) vl (some m) fwd (msgFlits m))

/-- A PUT or GET is refused; other kinds are dropped. A NACK that no port can carry is lost. -/
def refuseMsg (s : State) (m : Msg) (reason : Nat) : State :=
  if m.kind = 1 ∨ m.kind = 2 then
    let s := s.bump R.GCTL_NACKTX 1
    match trySend s (nackOf s m reason) 1 false with
    | some s' => s'
    | none => s
  else s

/-! ### Which flit leaves next (R428) -/

/-- The message of lane `v`: the one that holds it, or the first that waits for it. -/
def laneHead (s : State) (l v : Nat) : Option TxMsg :=
  match (s.link l).sending.toList.getD v none with
  | some t => some t
  | none => s.fab.waiting.find? (fun t => t.wants s l v)

/-- The lane from which the next sequenced flit comes: VL 0, then VL 1 and VL 2 alternately by message. A message begun on a data lane
goes on before the turn passes. -/
def nextLane (s : State) (l : Nat) : Option Nat :=
  let x := s.link l
  let ready (v : Nat) : Bool := decide (0 < x.credits.toList.getD v 0) && (match laneHead s l v with | some t => !t.flits.isEmpty | none => false)
  let busy (v : Nat) : Bool := (x.sending.toList.getD v none).isSome
  if x.unacked.length ≥ 1024 then none
  else if ready 0 then some 0
  else
    let order := if busy x.lane then [x.lane, 3 - x.lane] else if busy (3 - x.lane) then [3 - x.lane, x.lane] else [x.lane, 3 - x.lane]
    order.find? ready

/-- The first flit of message `t` leaves: its lane is its own until END. -/
def beginTx (s : State) (l v : Nat) (t : TxMsg) : State :=
  let s := s.updFab (fun x => { x with waiting := x.waiting.filter (fun u => decide (u.id ≠ t.id)) })
  let p := egress s l (s.link l).nextSeq
  let s := if t.fwd then s.bump (R.HANK_FWDMSG p) 1 else s
  match t.hdr with
  | some m => s.emit (.message p v m)
  | none => s

/-- The next flit `f` of message `t` leaves on lane `v`; `more` stay. -/
def sendFlit (s : State) (l v : Nat) (t : TxMsg) (f : TxFlit) (more : List TxFlit) : State :=
  let s := if (s.link l).sending.toList.getD v none = none then beginTx s l v t else s
  let seq := (s.link l).nextSeq
  let g := { f with vl := v, origin := none }
  let s := s.updLink l (fun y =>
    { y with sending := y.sending.set! v (if f.fin || f.stretch then none else some { t with flits := more }),
             credits := y.credits.set! v (y.credits.toList.getD v 0 - 1), nextSeq := (seq + 1) % 4096,
             ackAt := if y.unacked = [] then s.now else y.ackAt, unacked := y.unacked ++ [(seq, g)],
             lane := if f.fin && decide (v ≠ 0) then 3 - v else if v = 0 then y.lane else v })
  sendSeq (freeOrigin s f) l seq g

/-- Flits of a link leave while a lane has one, a credit for it and room in the retry buffer. -/
def pumpFuel (l : Nat) : Nat → State → State
  | 0, s => s
  | fuel + 1, s =>
    match nextLane s l with
    | none => s
    | some v =>
      match laneHead s l v with
      | some t => match t.flits with
        | f :: more => pumpFuel l fuel (sendFlit s l v t f more)
        | [] => s
      | none => s

def pumpLink (s : State) (l : Nat) : State := if members s l = [] ∨ linkAt s l ≠ l then s else pumpFuel l 2048 s

/-- A waiting message that no port can carry is refused with UNREACHABLE, reason 8 (R436). -/
def dropUnrouted (s : State) : State :=
  (s.fab.waiting.filter (fun t => (t.port s).isNone)).foldl (fun z t =>
    let z := t.flits.foldl freeOrigin (z.updFab (fun x => { x with waiting := x.waiting.filter (fun u => decide (u.id ≠ t.id)) }))
    match t.hdr with | some m => refuseMsg z m 8 | none => z) s

/-- Everything that can leave, leaves. -/
def pump (s : State) : State := (List.range 16).foldl pumpLink (dropUnrouted s)

/-! ### Messages (R436–R442) -/

/-- UNREACHABLE is reason 8. -/
def sendMsg (s : State) (m : Msg) (vl : Nat) (fwd : Bool) : State :=
  pump (match trySend s m vl fwd with
    | some s' => s'
    | none => refuseMsg s m 8)

/-- The STRETCH flit of a request to the parent on port `p` (R459). -/
def sendStretch (s : State) (p : Nat) (beat : Word) (dev count : Nat) : State :=
  let b := padTo 244 (leBytes 8 beat.toNat ++ leBytes 2 dev ++ leBytes 2 count)
  pump (queueTx s (.port p) 0 none false [⟨true, 0, false, false, false, false, b, none⟩])

/-- The header may go one hop further: HOPS below HOPMAX (R439). -/
def hopsLeft (s : State) (m : Msg) : Bool := decide (m.hops.toNat ≠ s.fld R.GCTL_FABCFG F.GCTL_FABCFG_HOPMAX)

/-- A whole message for another device goes on, one hop further (R439): HOPS is reason 9. DESIGN CHOICE: assumption 68. -/
def forwardMsg (s : State) (m : Msg) (vl : Nat) : State :=
  if hopsLeft s m then sendMsg s { m with hops := m.hops + 1 } vl true else pump (refuseMsg (s.bump R.GCTL_HOPDROP 1) m 9)

/-! ### Cut-through (R440, R443) -/

/-- Flit `f` joins message `id`, which still waits or is being sent; none when it is neither. -/
def joinTx (s : State) (id : Nat) (f : TxFlit) : Option State :=
  let add (t : TxMsg) : TxMsg := if t.id = id then { t with flits := t.flits ++ [f] } else t
  if s.fab.waiting.any (fun t => decide (t.id = id)) then some (s.updFab (fun x => { x with waiting := x.waiting.map add }))
  else if s.fab.links.toList.any (fun l => l.sending.toList.any (fun t => t.any (fun t => decide (t.id = id)))) then
    some (s.updFab (fun x => { x with links := x.links.map (fun l => { l with sending := l.sending.map (fun t => t.map add) }) }))
  else none

/-- The first flit of a message for another device: it is refused, or waits to leave with HOPS increased. What becomes of the rest. -/
def forwardStart (s : State) (m : Msg) (vl : Nat) (f : TxFlit) : State × Ingress :=
  if !hopsLeft s m then (refuseMsg (s.bump R.GCTL_HOPDROP 1) m 9, .drop)
  else if (routePort s m.dst.toNat).isNone then (refuseMsg s m 8, .drop)
  else
    let f := { f with payload := f.payload.take 20 ++ [m.hops + 1] ++ f.payload.drop 21 }
    (queueTx s (.dev m.dst) vl (some { m with hops := m.hops + 1 }) true [f], .forward s.fab.nextTx)

/-- The END flit with which a forwarder ends a message that is cut off. -/
def abortFlit : TxFlit := { stretch := false, vl := 0, start := false, fin := true, abt := true, dfd := false, payload := List.replicate 244 0 }

/-- A message of this device, with its epoch (R441). -/
def ownMsg (s : State) (kind : Nat) (chan : BitVec 16) (dst : BitVec 12) (xid : BitVec 32) (len : Nat) (data : List Byte) : Msg :=
  { kind := BitVec.ofNat 4 kind, sealed := false, sv := false, reason := 0, chan := chan, dst := dst, src := s.devId, stamp := 0,
    epoch := s.epoch, len := BitVec.ofNat 17 len, xid := xid, hops := 0, keyid := 0, nonce := 0, tag := 0, data := data, marks := [] }

/-! ### Sealed messages (R560, R561) -/

def fkeyBits (s : State) (j : Nat) : BitVec 256 :=
  BitVec.ofNat 256 (ofLe ((List.range 4).flatMap (fun i => leBytes 8 (s.reg (R.SEC_FKEY_KEY j i)).toNat)))

def msgIv (m : Msg) : List Byte := leBytes 4 m.src.toNat ++ leBytes 8 m.nonce.toNat
def msgAad (m : Msg) : List Byte := msgHeader { m with hops := 0 }

/-- The sender's protection, under SEC.FCTL.TXKEY and the next NONCE. -/
def sealMsg (s : State) (m : Msg) : State × Msg :=
  let j := s.fld R.SEC_FCTL F.SEC_FCTL_TXKEY
  let m := { m with sealed := true, keyid := BitVec.ofNat 1 j, nonce := s.reg R.SEC_FSEQ }
  let k := fkeyBits s j
  let ct := Config.gcmSeal k (msgIv m) (msgAad m) m.data
  (s.bump R.SEC_FSEQ 1, { m with data := ct, tag := Config.gcmTag k (msgIv m) (msgAad m) ct })

/-- The destination's check; none for a message that is discarded. -/
def openMsg (s : State) (m : Msg) : State × Option Msg :=
  if !m.sealed then (s, some m)
  else
    let k := fkeyBits s m.keyid.toNat
    if s.flag (R.SEC_FKEY_CTL m.keyid.toNat) F.SEC_FKEY_CTL_VALID && decide (Config.gcmTag k (msgIv m) (msgAad m) m.data = m.tag) then
      (s, some { m with data := Config.gcmOpen k (msgIv m) (msgAad m) m.data })
    else (s.bump R.SEC_FAUTHFAIL 1, none)

end Sys2Proof.Machine
end

