-- ==== Sys2Proof/Machine/Mem.lean ====
section
/-! DEFINITION. Memory: the windows of the device address space (R2), the interleaves of HBM (R326–R333), the error codes of
the pans and stacks (R303, R304, R340), the write-combining buffers (R334–R339), service refusals (R351, R583), and what a
write does to caches and transactions (R66, R83, R316). -/

namespace Sys2Proof.Machine
open Sys2Proof

/-! ### Windows (R2) -/

inductive Window where
  | hbm | pan (n : SpindleId) | control | openHandler | sealedHandler | tstore | session | unmapped
  deriving DecidableEq, Repr

def windowOf (a : Nat) : Window :=
  if a < Config.hbmBytes then .hbm
  else if inRange a Config.panBase (12 * Config.panBytes) then .pan (spindleNo ((a - Config.panBase) / Config.panBytes))
  else if inRange a Config.ctlBase Config.ctlBytes then .control
  else if inRange a Config.openHandler Config.handlerBytes then .openHandler
  else if inRange a Config.sealedHandler Config.handlerBytes then .sealedHandler
  else if inRange a Config.tstoreBase Config.tstoreBytes then .tstore
  else if inRange a Config.sessBase Config.sessBytes then .session
  else .unmapped

/-- Every byte of [a, a + n) is mapped. -/
def allMapped (a n : Nat) : Bool :=
  decide (n = 0) || (decide (windowOf a ≠ .unmapped) && decide (windowOf (a + n - 1) ≠ .unmapped) &&
    (decide (windowOf a = windowOf (a + n - 1)) ||
      -- the pans follow one another, as do the two handler windows
      (inRange a Config.panBase (12 * Config.panBytes) && inRange (a + n - 1) Config.panBase (12 * Config.panBytes)) ||
      (inRange a Config.openHandler (2 * Config.handlerBytes) && inRange (a + n - 1) Config.openHandler (2 * Config.handlerBytes))))

def panOffset (a : Nat) : Nat := (a - Config.panBase) % Config.panBytes
def panAddr (n : SpindleId) (o : Nat) : Nat := Config.panBase + n.val * Config.panBytes + o

/-! ### Interleave (R326–R333) -/

/-- Where a byte of HBM lies: stack, pseudo-channel, local index and byte within the granule (R327). -/
structure Place where
  stack : Nat
  pch : Nat
  l : Nat
  b : Nat
  deriving DecidableEq, Repr

/-- R332. -/
def globalPlace (a : Nat) : Place :=
  let g := a / 256
  let t := g / 512
  let l := t / 3
  let c := (t + l) % 3
  let h := (l % 512) ^^^ (l / 512 % 512) ^^^ (l / 2 ^ 18 % 32)
  let q := 512 * c + ((g % 512) ^^^ h)
  { stack := q % 24, pch := q / 24, l := l, b := a % 256 }

/-- R333, for the region that starts at unit `base` and ends before unit `limit`. -/
def localPlace (base limit a : Nat) : Place :=
  let w := (limit - base) * Config.unitBytes / 12
  let o := a - base * Config.unitBytes
  let n := o / w
  let g := (o % w) / 256
  let r := g / 128
  let h := (r % 128) ^^^ (r / 128 % 128) ^^^ (r / 2 ^ 14 % 128) ^^^ (r / 2 ^ 21 % 4)
  let x := (g % 128) ^^^ h
  { stack := 2 * n + x % 2, pch := x / 2, l := 128 * base + r, b := a % 256 }

/-- The registers that fix the interleave (R329). -/
def mapping (s : State) : List Word := (List.range 16).map (fun i => s.reg (R.GCTL_MREGION i))

def setMapping (s : State) (m : List Word) : State :=
  (List.range 16).foldl (fun z i => z.setReg (R.GCTL_MREGION i) (m.getD i 0)) s

/-- An access that left its requester under the regions `m` is performed under them (R331). -/
def underMapping (s : State) (m : List Word) (f : State → State × α) : State × α :=
  if m = mapping s then f s
  else
    let r := f (setMapping s m)
    (setMapping r.1 (mapping s), r.2)

/-- The enabled region that covers HBM address `a`, if any (R329). -/
def regionOf (s : State) (a : Nat) : Option Nat :=
  (List.range 16).find? (fun i =>
    let r := s.reg (R.GCTL_MREGION i)
    decide (getF r F.GCTL_MREGION_EN ≠ 0) && decide (getF r F.GCTL_MREGION_BASE * Config.unitBytes ≤ a) &&
      decide (a < getF r F.GCTL_MREGION_LIMIT * Config.unitBytes))

def hbmPlace (s : State) (a : Nat) : Place :=
  match regionOf s a with
  | none => globalPlace a
  | some i =>
    let r := s.reg (R.GCTL_MREGION i)
    if getF r F.GCTL_MREGION_MODE = 0 then globalPlace a
    else localPlace (getF r F.GCTL_MREGION_BASE) (getF r F.GCTL_MREGION_LIMIT) a

/-- The storage key of a place: below the HBM window's size, one to one. -/
def Place.key (p : Place) : Nat := ((p.stack * 64 + p.pch) * Config.granulesPerPch + p.l) * 256 + p.b

/-- The place of a storage key. -/
def placeOfKey (k : Nat) : Place :=
  { stack := k / 256 / Config.granulesPerPch / 64, pch := k / 256 / Config.granulesPerPch % 64,
    l := k / 256 % Config.granulesPerPch, b := k % 256 }

/-- The DRAM row of local index `l` (R328). -/
def rowOf (p : Place) : Row :=
  let row := p.l / 256
  { pch := p.pch, sid := p.l / 64 % 4, ba := (p.l / 16 % 4) ^^^ (row % 4), bg := (p.l / 4 % 4) ^^^ (row / 4 % 4), row := row }

/-- The inverse of `globalPlace`. -/
def globalAddr (p : Place) : Nat :=
  let q := p.pch * 24 + p.stack
  let t := 3 * p.l + (q / 512 + 2 * p.l) % 3
  let h := (p.l % 512) ^^^ (p.l / 512 % 512) ^^^ (p.l / 2 ^ 18 % 32)
  (t * 512 + ((q % 512) ^^^ h)) * 256 + p.b

/-- The inverse of `localPlace`. -/
def localAddr (base limit : Nat) (p : Place) : Nat :=
  let w := (limit - base) * Config.unitBytes / 12
  let r := p.l - 128 * base
  let h := (r % 128) ^^^ (r / 128 % 128) ^^^ (r / 2 ^ 14 % 128) ^^^ (r / 2 ^ 21 % 4)
  base * Config.unitBytes + p.stack / 2 * w + (r * 128 + ((2 * p.pch + p.stack % 2) ^^^ h)) * 256 + p.b

/-- The device address of a place: both interleaves keep unit `u` in the local indices 128·u to 128·u + 127. -/
def addrOfPlace (s : State) (p : Place) : Nat :=
  let u := p.l / 128
  match (List.range 16).find? (fun i =>
    let r := s.reg (R.GCTL_MREGION i)
    decide (getF r F.GCTL_MREGION_EN ≠ 0) && decide (getF r F.GCTL_MREGION_BASE ≤ u) && decide (u < getF r F.GCTL_MREGION_LIMIT)) with
  | none => globalAddr p
  | some i =>
    let r := s.reg (R.GCTL_MREGION i)
    if getF r F.GCTL_MREGION_MODE = 0 then globalAddr p
    else localAddr (getF r F.GCTL_MREGION_BASE) (getF r F.GCTL_MREGION_LIMIT) p

/-- The key under which device address `a` is stored. -/
def keyOf (s : State) (a : Nat) : Nat := if a < Config.hbmBytes then (hbmPlace s a).key else a

/-! ### Sealed memory and service -/

/-- The applied copy of Sealed region `i` (R555). -/
def State.sregion (s : State) (i : Nat) : Word := s.sec.regions.toList.getD i 0

/-- The number of the key of the encrypted Sealed region that covers HBM address `a`; 0 outside (R556). DESIGN CHOICE: assumption 60. -/
def keyAt (s : State) (a : Nat) : Nat :=
  match (List.range 8).find? (fun i =>
      let r := s.sregion i
      decide (getF r F.SEC_SREGION_EN ≠ 0) && decide (getF r F.SEC_SREGION_ENC ≠ 0) && decide (getF r F.SEC_SREGION_BASE * 0x200000 ≤ a) &&
        decide (a < getF r F.SEC_SREGION_LIMIT * 0x200000)) with
  | some i => s.sec.regKey.toList.getD i 0
  | none => 0

/-- Device address `a` lies in memory of the Sealed world (R104, R555): a region of SEC.SREGION, or a pan of SEC.SPAN. -/
def sealedAt (s : State) (a : Nat) : Bool :=
  match windowOf a with
  | .hbm => (List.range 8).any (fun i =>
      let r := s.sregion i
      decide (getF r F.SEC_SREGION_EN ≠ 0) && decide (getF r F.SEC_SREGION_BASE * 0x200000 ≤ a) &&
        decide (a < getF r F.SEC_SREGION_LIMIT * 0x200000))
  | .pan n => bit (s.reg R.SEC_SPAN) n.val
  | .sealedHandler => true
  | _ => false

/-- [a, a + n) meets [lo, hi). -/
def meetsRange (a n lo hi : Nat) : Bool := decide (0 < n) && decide (lo < a + n) && decide (a < hi) && decide (lo < hi)

/-- Some byte of [a, a + n) lies in Sealed memory: a region of SEC.SREGION or a pan of SEC.SPAN (R555). -/
def anySealedMem (s : State) (a n : Nat) : Bool :=
  (List.range 8).any (fun i =>
    let r := s.sregion i
    decide (getF r F.SEC_SREGION_EN ≠ 0) &&
      meetsRange a n (getF r F.SEC_SREGION_BASE * 0x200000) (getF r F.SEC_SREGION_LIMIT * 0x200000)) ||
  allSpindles.any (fun m => bit (s.reg R.SEC_SPAN) m.val && meetsRange a n (panAddr m 0) (panAddr m Config.panBytes))

/-- Some byte of [a, a + n) is the Sealed world's alone: Sealed memory, or the Sealed handler window (R105). -/
def anySealed (s : State) (a n : Nat) : Bool :=
  anySealedMem s a n || meetsRange a n Config.sealedHandler (Config.sealedHandler + Config.handlerBytes)

def stackOf (p : Place) : StackId := stackNo p.stack

/-- The stack is in SERVICE and the pseudo-channel, or the spare that replaces it, is in service (R345, R351). -/
def inService (s : State) (p : Place) : Bool :=
  let k := p.stack
  decide (s.fld (R.MEM_STAT k) F.MEM_STAT_STATE = 1) && !(s.stack (stackOf p)).fenced.getLsbD p.pch &&
    (!bit (s.reg (R.MEM_PCOOS k)) p.pch ||
      (s.flag (R.MEM_SPARE k) F.MEM_SPARE_USED && decide (s.fld (R.MEM_SPARE k) F.MEM_SPARE_SPARED = p.pch)))

/-- A pan is out of service under R583. -/
def panOut (s : State) (n : SpindleId) : Bool := bit (s.reg R.MC_FENCED) (16 + n.val)

/-- The place lies in a row whose retirement is being copied, in a stack whose accesses are served (R342, R349, R351). -/
def placeBusy (s : State) (p : Place) : Bool :=
  inService s p &&
    (match (s.stack (stackOf p)).copying with
     | some r => decide (rowOf p = r)
     | none => false)

/-- An access to a row whose retirement is being copied waits (R342). -/
def rowBusy (s : State) (a : Nat) : Bool := decide (a < Config.hbmBytes) && placeBusy s (hbmPlace s a)

/-- The granules that [a, a + n) touches. -/
def granulesOf (a n : Nat) : List Nat := strideList (a / 256 * 256) 256 ((a + n - 1) / 256 + 1 - a / 256)

/-- Some byte of [a, a + n) lies in such a row. -/
def anyRowBusy (s : State) (a n : Nat) : Bool := decide (0 < n) && (granulesOf a n).any (rowBusy s)

/-- The place lies in the granule that a sparing copy is copying (R345). -/
def granuleCopied (s : State) (p : Place) : Bool :=
  decide ((s.stack (stackOf p)).sparing = some p.pch) && decide (s.fld (R.MEM_SPARE p.stack) F.MEM_SPARE_PTR = p.l)

/-- A write to the granule waits: its row is being copied, or it is itself being copied to the spare (R342, R345). -/
def writeBusy (s : State) (a : Nat) : Bool :=
  decide (a < Config.hbmBytes) && (placeBusy s (hbmPlace s a) || (inService s (hbmPlace s a) && granuleCopied s (hbmPlace s a)))

def anyWriteBusy (s : State) (a n : Nat) : Bool := decide (0 < n) && (granulesOf a n).any (writeBusy s)

/-! ### Refused accesses (R351, R583) -/

/-- An access to device address `a` at place `p` is refused: counted, and reported with the first refused address of the beat. -/
def refuseHbm (s : State) (p : Place) (a : Nat) : State :=
  let k := stackOf p
  let first := match (s.stack k).refusedAt with | some x => x | none => a
  let s := s.bump (R.MEM_FENCEERR k) 1
  let s := s.updStack k (fun x => { x with refusedAt := some first })
  if s.fld (R.MEM_STAT k) F.MEM_STAT_STATE = 1 then report s UKind.PCH (64 * k.val + p.pch) 0x0B (BitVec.ofNat 64 first)
  else report s UKind.STACK k.val 0x0B (BitVec.ofNat 64 first)

def refusePan (s : State) (n : SpindleId) (a : Nat) : State :=
  let first := match (s.spin n).refusedAt with | some x => x | none => a
  let s := s.updSpin n (fun x => { x with refusedAt := some first })
  report s UKind.PAN n.val 0x0B (BitVec.ofNat 64 first)

/-- `n` free bytes: the data of a refused read is marked Deferred and its value is not stated. -/
def freeBytes (s : State) (n : Nat) : State × List Byte :=
  ({ s with free := s.free + n }, (List.range n).map (fun i => Config.freeByte (s.free + i)))

/-! ### Who reads or writes -/

/-- The requester of a memory access: a thread's scalar or vector access, an L1 fill, the units of a Spindle, a device
engine. `entry` is the device's own access to the block of a thread's trap entry or return (R115, R121, R123). -/
inductive Who where
  | entry (t : Thr) | thread (t : Thr) | vector (t : Thr) | fill (n : SpindleId) | act (n : SpindleId) | stream (n : SpindleId)
  | drain (n : SpindleId) | scrub (n : SpindleId) | sluice (e : EngineId) | reel | host | mc | atomic (t : Thr)
  deriving DecidableEq, Repr

/-- The Spindle whose unit requests; none over the weft. -/
def Who.spindle : Who → Option SpindleId
  | .entry t | .thread t | .vector t | .atomic t => some (spindleOf t)
  | .fill n | .act n | .stream n | .drain n | .scrub n => some n
  | .sluice _ | .reel | .host | .mc => none

/-- SPINDLE.PANERR.AGENT for a read of pan `n` (R325). -/
def Who.panAgent (w : Who) (n : SpindleId) : Nat :=
  if w.spindle = some n then
    match w with
    | .entry _ | .thread _ | .atomic _ => 0
    | .fill _ => 1
    | .vector _ => 2
    | .act _ => 3
    | .stream _ => 4
    | .drain _ => 5
    | .scrub _ => 7
    | .sluice _ | .reel | .host | .mc => 6
  else 6

/-- The thread whose access it is; a thread's own writes neither conflict with its transaction nor need R316. -/
def Who.thr? : Who → Option Thr
  | .thread t | .vector t | .atomic t => some t
  | _ => none

/-! ### Transactions (R83, R85, R86) -/

/-- A transaction ends: the write set is discarded, the status written to tbegin's destination and CR.TXSTAT, and the thread
continues at the fail address. DEDUCED: assumption 23. -/
def txAbort (s : State) (t : Thr) (cause code : Nat) (retry : Bool) : State :=
  let x := s.thr t
  match x.tx with
  | none => s
  | some tx =>
    let st : Nat := cause + code * 2 ^ 8 + boolNat retry * 2 ^ 16 + tx.wset.length % 32 * 2 ^ 17 + tx.rset.length % 128 * 2 ^ 22
    let v := BitVec.ofNat 64 st
    let x1 := ({ x with tx := none, pc := tx.fail, group := none }.wg tx.rd v).setUcr CR.TXSTAT v
    (s.setThr t x1).bump32 (R.SPINDLE_TXABORT (spindleOf t) (threadIn t)) 1

/-- A write by another agent to a line of a read or write set aborts the transaction with CONFLICT (R83). -/
def txConflict (s : State) (w : Who) (line : Nat) : State :=
  allThr.foldl (fun z t =>
    match (z.thr t).tx with
    | some tx =>
      if w.thr? ≠ some t ∧ (line ∈ tx.rset ∨ line ∈ tx.wset.map (·.line)) then txAbort z t 1 0 true else z
    | none => z) s

/-- An uncorrectable pan error on a read-set line aborts the transaction with ECC (R305, R86). -/
def txEcc (s : State) (line : Nat) : State :=
  allThr.foldl (fun z t =>
    match (z.thr t).tx with
    | some tx => if line ∈ tx.rset then txAbort z t 12 0 false else z
    | none => z) s

/-! ### L1 invalidation (R66, R311, R313, R316) -/

def setOf (line : Nat) : Nat := line % 256
def tagOf (line : Nat) : Nat := line / 256

/-- The way of `c` that holds line number `line` in a valid way that is not disabled, if one does. -/
def Cache.find (c : Cache) (line : Nat) : Option (Fin 4) :=
  (List.finRange 4).find? (fun w =>
    match SMap.get none c.lines (4 * setOf line + w.val) with
    | some l => decide (l.tag = tagOf line)
    | none => false)

def Cache.drop (c : Cache) (k : Nat) : Cache :=
  { c with lines := SMap.set none c.lines k none, badTag := SMap.set false c.badTag k false,
           badData := SMap.set false c.badData k false }

/-- Invalidation of one line: the line goes, and an outstanding fill of it will not be allocated (R311). -/
def Cache.inval (c : Cache) (line : Nat) : Cache :=
  let c := match c.find line with | some w => c.drop (4 * setOf line + w.val) | none => c
  { c with fills := c.fills.map (fun f => if f.line = line then { f with drop := true } else f) }

def State.cache (s : State) (n : SpindleId) (isData : Bool) : Cache := if isData then (s.spin n).l1d else (s.spin n).l1i
def State.setCache (s : State) (n : SpindleId) (isData : Bool) (c : Cache) : State :=
  s.updSpin n (fun x => if isData then { x with l1d := c } else { x with l1i := c })

/-- A parity event: counted and reported as Corrected (R312). -/
def l1Parity (s : State) (n : SpindleId) (d : Bool) (set : Nat) : State :=
  report (s.bump (R.SPINDLE_L1PERR n) 1) UKind.SPINDLE n.val 0x03 (BitVec.ofNat 64 (boolNat d + set * 256))

/-- Every lookup, whatever its purpose, reads and checks the tags of all four ways; a way whose tag fails is invalidated (R312). -/
def checkTags (s : State) (n : SpindleId) (d : Bool) (set : Nat) : State :=
  (List.finRange 4).foldl (fun z w =>
    let k := 4 * set + w.val
    let c := z.cache n d
    if SMap.get false c.badTag k then l1Parity (z.setCache n d (c.drop k)) n d set else z) s

/-- The line is looked up in one L1 of Spindle `n` and goes, with its outstanding fills (R311, R312). -/
def invalLine (s : State) (n : SpindleId) (d : Bool) (line : Nat) : State :=
  let s := checkTags s n d (setOf line)
  s.setCache n d ((s.cache n d).inval line)

/-- A store of a thread of Spindle `n` to `line` passes the L1: L1D takes the new bytes if it holds the line, L1I loses the
line, and outstanding fills of it are not allocated (R66, R311). DESIGN CHOICE: assumption 28. -/
def storePasses (s : State) (n : SpindleId) (a : Nat) (data : List Byte) : State :=
  let line := a / 64
  let s := checkTags (checkTags s n true (setOf line)) n false (setOf line)
  s.updSpin n (fun x =>
    let d := x.l1d
    let d := match d.find line with
      | some w =>
        let k := 4 * setOf line + w.val
        match SMap.get none d.lines k with
        | some l =>
          let old := lineBytes l.data
          let new := (List.range 64).map (fun i =>
            if a % 64 ≤ i ∧ i < a % 64 + data.length then data.getD (i - a % 64) 0 else old.getD i 0)
          { d with lines := SMap.set none d.lines k (some { l with data := lineOf new }) }
        | none => d
      | none => d
    let d := { d with fills := d.fills.map (fun f => if f.line = line then { f with drop := true } else f) }
    { x with l1d := d, l1i := x.l1i.inval line })

/-- A write to pan `n` by an agent other than the threads of Spindle `n` invalidates the L1D line of Spindle `n` (R316). -/
def panCoherence (s : State) (w : Who) (n : SpindleId) (line : Nat) : State :=
  let own := match w.thr? with | some t => decide (spindleOf t = n) | none => false
  if own then s else invalLine s n true line

/-- [a, a + n) shares a byte with a store of the queue `q` (R317). -/
def queueHits (q : List StoreEnt) (a n : Nat) : Bool :=
  q.any (fun e => decide (a < e.addr + e.data.length) && decide (e.addr < a + n))

/-! ### Bytes of storage -/

/-- The byte stored under a key; in a pseudo-channel whose data a margin test destroyed, a free byte until it is written. DESIGN CHOICE: assumption 3. -/
def rawByte (s : State) (k : Nat) : Byte :=
  if k < Config.hbmBytes then
    let p := placeOfKey k
    let st := s.stack (stackOf p)
    let n := SMap.get 0 st.scrambled p.pch
    if n ≠ 0 ∧ !SMap.get false st.rewritten k then Config.freeByte (n * 2 ^ 48 + k) else SMap.get 0 s.mem k
  else SMap.get 0 s.mem k

def rawLine (s : State) (line : Nat) : List Byte := (List.range 64).map (fun i => rawByte s (64 * line + i))

/-- Byte `i` of storage line `line` as the stack port sees it through key `n` (0: none), when the line stands encrypted under
key `t` (R556, R557). The two agree for memory that is used as it was written. -/
def portByte (s : State) (line t n i : Nat) : Byte :=
  let a := addrOfPlace s (placeOfKey (64 * line))
  let wire (j : Nat) : Byte := if t = 0 then rawByte s (64 * line + j) else Config.xtsByte (Config.randomKey t) a (lineOf (rawLine s line)) j
  if t = n then rawByte s (64 * line + i)
  else if n = 0 then wire i
  else Config.xtsOpen (Config.randomKey n) a (lineOf ((List.range 64).map wire)) i

/-- Encryption plays no part: no line stands encrypted and no region has a key. -/
def noKeys (s : State) : Bool := decide (s.sec.enc = []) && s.sec.regKey.toList.all (fun n => decide (n = 0))

/-- The byte that a read of key `k` finds. -/
def storedByte (s : State) (k : Nat) : Byte :=
  if noKeys s || !decide (k < Config.hbmBytes) then rawByte s k
  else portByte s (k / 64) (SMap.get 0 s.sec.enc (k / 64)) (keyAt s (addrOfPlace s (placeOfKey k))) (k % 64)

def rawStore (s : State) (k : Nat) (b : Byte) : State :=
  let s := { s with mem := SMap.set 0 s.mem k b }
  if k < Config.hbmBytes then
    let p := placeOfKey k
    if SMap.get 0 (s.stack (stackOf p)).scrambled p.pch = 0 then s
    else s.updStack (stackOf p) (fun x => { x with rewritten := SMap.set false x.rewritten k true })
  else s

/-- The whole line is stored again as key `n` sees it, and then stands under that key. DESIGN CHOICE: assumption 60. -/
def rekeyLine (s : State) (line t n : Nat) : State :=
  let bytes := (List.range 64).map (fun i => (64 * line + i, portByte s line t n i))
  let s := bytes.foldl (fun z e => rawStore z e.1 e.2) s
  { s with sec := { s.sec with enc := SMap.set 0 s.sec.enc line n } }

def storeByte (s : State) (k : Nat) (b : Byte) : State :=
  if noKeys s || !decide (k < Config.hbmBytes) then rawStore s k b
  else
    let t := SMap.get 0 s.sec.enc (k / 64)
    let n := keyAt s (addrOfPlace s (placeOfKey k))
    rawStore (if t = n then s else rekeyLine s (k / 64) t n) k b

def storedBytes (s : State) (k n : Nat) : List Byte := (List.range n).map (fun i => storedByte s (k + i))

def storeBytes (s : State) (k : Nat) : List Byte → State
  | [] => s
  | b :: bs => storeBytes (storeByte s k b) (k + 1) bs

/-! ### Error codes (R303, R304, R340, R507) -/

/-- MEM.ECCERR as R355 lays it out. -/
def eccerr (p : Place) (agent : Nat) : Word :=
  let r := rowOf p
  BitVec.ofNat 64 (1 + p.pch * 2 + r.sid * 2 ^ 7 + r.bg * 2 ^ 9 + r.ba * 2 ^ 11 + r.row * 2 ^ 13 + p.l % 4 * 2 ^ 28 +
    p.b / 32 * 2 ^ 30 + agent * 2 ^ 33)

/-- A read of the codeword at key `k` (a multiple of 32) as R340 treats it: whether its data is Deferred. -/
def checkCodeword (s : State) (k agent : Nat) : State × Bool :=
  let p := placeOfKey k
  let st := stackOf p
  match SMap.get 0 s.errs k with
  | 0 => (s, SMap.get false s.marks k)
  | 1 =>
    let s := { s with errs := SMap.set 0 s.errs k 0 }
    let s := s.bump (R.MEM_CE st) 1
    (report s UKind.PCH (64 * p.stack + p.pch) 0x07 (BitVec.ofNat 64 p.l), SMap.get false s.marks k)
  | _ =>
    let s := { s with errs := SMap.set 0 s.errs k 0 }
    if SMap.get false s.marks k then (s, true)
    else
      let s := { s with marks := SMap.set false s.marks k true }
      let s := s.bump (R.MEM_UE st) 1
      let s := if s.flag (R.MEM_ECCERR st) F.MEM_ECCERR_VALID then s else s.setReg (R.MEM_ECCERR st) (eccerr p agent)
      let s := memEvent s st 3
      (report s UKind.PCH (64 * p.stack + p.pch) 0x08 (s.reg (R.MEM_ECCERR st)), true)

/-- A read of the pan or session word at device address `k` (a multiple of 8): whether its data is Deferred. -/
def checkWord (s : State) (w : Who) (k : Nat) : State × Bool :=
  match SMap.get 0 s.errs k with
  | 0 => (s, SMap.get false s.marks k)
  | 1 =>
    let s := { s with errs := SMap.set 0 s.errs k 0 }
    match windowOf k with
    | .pan n => (report (s.bump (R.SPINDLE_PANCE n) 1) UKind.PAN n.val 0x01 (BitVec.ofNat 64 (panOffset k)), SMap.get false s.marks k)
    | _ => (s, SMap.get false s.marks k)
  | _ =>
    let s := { s with errs := SMap.set 0 s.errs k 0 }
    if SMap.get false s.marks k then (s, true)
    else
      let s := { s with marks := SMap.set false s.marks k true }
      match windowOf k with
      | .pan n =>
        let s := s.bump (R.SPINDLE_PANUE n) 1
        let s := if s.flag (R.SPINDLE_PANERR n) F.SPINDLE_PANERR_VALID then s
          else s.setReg (R.SPINDLE_PANERR n) (BitVec.ofNat 64 (1 + panOffset k / 8 * 8 + w.panAgent n * 2 ^ 28))
        let s := txEcc s (k / 64)
        (report s UKind.PAN n.val 0x02 (s.reg (R.SPINDLE_PANERR n)), true)
      | .session => (report s UKind.SESSION 0 0x15 (BitVec.ofNat 64 ((k - Config.sessBase) / 128)), true)
      | _ => (s, true)

/-- A write of `data` at key `k` within one checked unit of `u` bytes: a write of the whole unit replaces it and clears its
mark; a smaller one merges, and is lost where the old unit is Deferred (R304, R340). `deferred` marks the new data. -/
def writeUnit (s : State) (k u : Nat) (data : List Byte) (deferred : Bool) (check : State → Nat → State × Bool) : State :=
  let base := k / u * u
  if data.length = u then
    let s := { s with errs := SMap.set 0 s.errs base 0, marks := SMap.set false s.marks base deferred }
    storeBytes s k data
  else
    let (s, bad) := check s base
    if bad then s
    else storeBytes { s with marks := SMap.set false s.marks base deferred } k data

/-! ### Write-combining buffers (R334–R339) -/

/-- A parity error in an entry is Fatal for the stack (R339, R569). -/
def wcbFail (s : State) (k : StackId) : State :=
  let s := s.setFld (R.MEM_STAT k) F.MEM_STAT_STATE 3
  let s := s.setFlag (R.MC_ERRSTAT) ⟨8 + k.val, 8 + k.val⟩ true
  let s := report s UKind.STACK k.val 0x09 (BitVec.ofNat 64 (s.stack k).wcb.length)
  memEvent s k 7

/-- The mask bytes of an entry in codeword `c` (0 or 1) of its line, as runs of consecutive bytes: (offset in line, bytes). -/
def runsOf (mask : Nat → Bool) (data : List Byte) : Nat → Nat → List (Nat × List Byte)
  | _, 0 => []
  | i, n + 1 =>
    let rest := runsOf mask data (i + 1) n
    if mask i then
      match rest with
      | (j, bs) :: more => if j = i + 1 then (i, data.getD i 0 :: bs) :: more else (i, [data.getD i 0]) :: rest
      | [] => [(i, [data.getD i 0])]
    else rest

/-- The DRAM write of one entry, codeword by codeword (R337). -/
def drainEntry (s : State) (e : WcbEntry) : State :=
  let data := lineBytes e.data
  [0, 32].foldl (fun z c =>
    let rs := runsOf (fun i => e.mask.getLsbD i) data c 32
    let base := e.line * 64
    -- a partial codeword is read once, then merged
    if (rs.map (fun r => r.2.length)).sum = 32 then writeUnit z (base + c) 32 ((data.drop c).take 32) false (fun x k => checkCodeword x k 1)
    else if rs = [] then z
    else
      let (z, bad) := checkCodeword z (base + c) 1
      if bad then z else rs.foldl (fun y r => storeBytes y (base + r.1) r.2) z) s

/-- One entry, found at its place in the buffer, leaves for DRAM; a stack that has FAILED writes no further entry. -/
def flushEntry (s : State) (k : StackId) (e : WcbEntry) : State :=
  if s.fld (R.MEM_STAT k) F.MEM_STAT_STATE = 3 then s
  else if e.bad then wcbFail s k
  else
    let s := s.updStack k (fun x => { x with wcb := x.wcb.filter (fun y => !decide (y.line = e.line)) })
    drainEntry s e

/-- The entries that `p` names are written, oldest first. -/
def flushWhere (s : State) (k : StackId) (p : WcbEntry → Bool) : State :=
  ((s.stack k).wcb.filter p).foldl (fun z e => flushEntry z k e) s

/-- While more than HIWM entries are in use, the oldest are written (R336). -/
def flushHigh (s : State) (k : StackId) : State :=
  let hi := s.fld (R.MEM_WCCFG k) F.MEM_WCCFG_HIWM
  ((s.stack k).wcb.take ((s.stack k).wcb.length - hi)).foldl (fun z e => flushEntry z k e) s

/-- A write of `data`, within one 64-byte line, to the storage key `key`: accepted by the stack's controller (R334). Data
marked Deferred is written past the buffer, so that its mark is kept. DESIGN CHOICE: assumption 56. -/
def writeLine (s : State) (key : Nat) (data : List Byte) (deferred : Bool) : State :=
  let k := stackOf (placeOfKey key)
  let line := key / 64
  let off := key % 64
  let s := s.bump (R.MEM_WRBYTES k) data.length
  let old := (s.stack k).wcb.find? (fun e => decide (e.line = line))
  if deferred then
    let s := match old with | some e => flushEntry s k e | none => s
    let n0 := min data.length (32 - off % 32)
    let s := writeUnit s key 32 (data.take n0) true (fun x u => checkCodeword x u 0)
    if n0 < data.length then writeUnit s (key + n0) 32 (data.drop n0) true (fun x u => checkCodeword x u 0) else s
  else
    let m : BitVec 64 := BitVec.ofNat 64 ((2 ^ data.length - 1) * 2 ^ off)
    match old with
    | some e =>
      if e.bad then wcbFail s k
      else
        let bytes := lineBytes e.data
        let new := (List.range 64).map (fun i => if off ≤ i ∧ i < off + data.length then data.getD (i - off) 0 else bytes.getD i 0)
        let e' := { e with data := lineOf new, mask := e.mask ||| m }
        let s := s.updStack k (fun x => { x with wcb := x.wcb.map (fun y => if y.line = line then e' else y) })
        if e'.mask = BitVec.allOnes 64 then flushEntry s k e' else s
    | none =>
      if data.length = 64 then drainEntry s { line := line, data := lineOf data, mask := BitVec.allOnes 64, bad := false, since := s.now }
      else
        let e : WcbEntry := { line := line, data := lineOf (List.replicate off 0 ++ data), mask := m, bad := false, since := s.now }
        flushHigh (s.updStack k (fun x => { x with wcb := x.wcb ++ [e] })) k

/-- A read of bytes [key, key + n) within one 32-byte codeword: the buffer's bytes merged over DRAM, and whether they are
Deferred (R335, R340). -/
def readCodeword (s : State) (key n agent : Nat) : State × List Byte × Bool :=
  let k := stackOf (placeOfKey key)
  let s := s.bump (R.MEM_RDBYTES k) n
  let e? := (s.stack k).wcb.find? (fun e => decide (e.line = key / 64))
  let dram := storedBytes s key n
  match e? with
  | none =>
    let (s, bad) := checkCodeword s (key / 32 * 32) agent
    (s, dram, bad)
  | some e =>
    if e.bad then
      let s := wcbFail s k
      (s, dram, true)
    else
      let bytes := lineBytes e.data
      let merged := (List.range n).map (fun i =>
        if e.mask.getLsbD (key % 64 + i) then bytes.getD (key % 64 + i) 0 else dram.getD i 0)
      let whole := (List.range 32).all (fun i => e.mask.getLsbD (key % 64 / 32 * 32 + i))
      if whole then (s, merged, false)
      else
        let (s, bad) := checkCodeword s (key / 32 * 32) agent
        (s, merged, bad)

/-- A write in an encrypted region: less than a line is a read-modify-write of the line at the stack port, lost where the old
line is Deferred (R557). DESIGN CHOICE: assumption 60. -/
def writeSealedLine (s : State) (key : Nat) (data : List Byte) (deferred : Bool) : State :=
  let base := key / 64 * 64
  if data.length = 64 then writeLine s key data deferred
  else
    let (s, lo, b0) := readCodeword s base 32 0
    let (s, hi, b1) := readCodeword s (base + 32) 32 0
    if b0 || b1 then s
    else
      let old := lo ++ hi
      let new := (List.range 64).map (fun i =>
        if key % 64 ≤ i ∧ i < key % 64 + data.length then data.getD (i - key % 64) 0 else old.getD i 0)
      writeLine s base new deferred

/-! ### Reads and writes by device address -/

/-- Where [a, a + n) is cut at multiples of `u`: (address, length) pieces; `fuel` bounds their number. -/
def pieces (u : Nat) : Nat → Nat → Nat → List (Nat × Nat)
  | 0, _, _ => []
  | fuel + 1, a, n =>
    if n = 0 then []
    else
      let k := min n (u - a % u)
      (a, k) :: pieces u fuel (a + k) (n - k)

def piecesOf (u a n : Nat) : List (Nat × Nat) := pieces u (n / u + 2) a n

/-- The pieces of a read, each by `f`, one after another. -/
def readPieces (f : State → Nat → Nat → State × List (Byte × Bool)) (s : State) (l : List (Nat × Nat)) : State × List (Byte × Bool) :=
  l.foldl (fun (acc : State × List (Byte × Bool)) (pc : Nat × Nat) =>
    let r := f acc.1 pc.1 pc.2
    (r.1, acc.2 ++ r.2)) (s, [])

/-- Bytes of one codeword of HBM; a Deferred codeword of an encrypted region makes its line Deferred (R557). -/
def readHbm (agent : Nat) (s : State) (a n : Nat) : State × List (Byte × Bool) :=
  let k := (hbmPlace s a).key
  let (s, bytes, bad) := readCodeword s k n agent
  let (s, bad) := if keyAt s a = 0 then (s, bad)
    else
      let (s, other) := checkCodeword s (k / 32 * 32 ^^^ 32) agent
      (s, bad || other)
  (s, bytes.map (fun b => (b, bad)))

/-- Bytes of one checked word of a pan or of the session table. -/
def readWord (w : Who) (s : State) (a n : Nat) : State × List (Byte × Bool) :=
  let (s, bad) := checkWord s w (a / 8 * 8)
  (s, (storedBytes s a n).map (fun b => (b, bad)))

/-- The data of a refused read is marked Deferred, and its value is not stated. -/
def refusedBytes (s : State) (n : Nat) : State × List (Byte × Bool) :=
  let (s, bytes) := freeBytes s n
  (s, bytes.map (fun b => (b, true)))

/-- One access to [a, a + n), within one line: a home out of service refuses it once (R351, R583). -/
def readLine (w : Who) (agent : Nat) (s : State) (a n : Nat) : State × List (Byte × Bool) :=
  match windowOf a with
  | .hbm =>
    let p := hbmPlace s a
    if inService s p then readPieces (readHbm agent) s (piecesOf 32 a n) else refusedBytes (refuseHbm s p a) n
  | .pan m => if panOut s m then refusedBytes (refusePan s m a) n else readPieces (readWord w) s (piecesOf 8 a n)
  | .session => readPieces (readWord w) s (piecesOf 8 a n)
  | _ => (s, (storedBytes s a n).map (fun b => (b, false)))

/-- A read of device addresses [a, a + n) at their home by `w`: each byte with its Deferred mark. `agent` is MEM.ECCERR's. -/
def memRead (s : State) (w : Who) (agent a n : Nat) : State × List (Byte × Bool) := readPieces (readLine w agent) s (piecesOf 64 a n)

/-- A write of `data` at device address `a` by `w`, performed at its home: caches and transactions see it first (R83, R316),
then the home accepts it. `deferred` marks the data. -/
def memWrite (s : State) (w : Who) (a : Nat) (data : List Byte) (deferred : Bool := false) : State :=
  (piecesOf 64 a data.length).foldl (fun (s : State) (pc : Nat × Nat) =>
    let bytes := (data.drop (pc.1 - a)).take pc.2
    match windowOf pc.1 with
    | .hbm =>
      let p := hbmPlace s pc.1
      if inService s p then (if keyAt s pc.1 = 0 then writeLine s p.key bytes deferred else writeSealedLine s p.key bytes deferred)
      else refuseHbm s p pc.1
    | .pan m =>
      if panOut s m then refusePan s m pc.1
      else
        let s := txConflict s w (pc.1 / 64)
        let s := panCoherence s w m (pc.1 / 64)
        (piecesOf 8 pc.1 pc.2).foldl (fun z q =>
          writeUnit z q.1 8 ((bytes.drop (q.1 - pc.1)).take q.2) deferred (fun x k => checkWord x w k)) s
    | .session =>
      (piecesOf 8 pc.1 pc.2).foldl (fun z q =>
        writeUnit z q.1 8 ((bytes.drop (q.1 - pc.1)).take q.2) deferred (fun x k => checkWord x w k)) s
    | .openHandler | .sealedHandler => storeBytes s pc.1 bytes
    | .control | .tstore | .unmapped => s) s

/-- A write of bytes that carry their own marks: a checked unit that receives a marked byte is marked (R304, R340, R402, R446). -/
def memWriteMarked (s : State) (w : Who) (a : Nat) (bs : List (Byte × Bool)) : State :=
  if bs.any (·.2) then
    (piecesOf (if a < Config.hbmBytes then 32 else 8) a bs.length).foldl (fun z pc =>
      let part := (bs.drop (pc.1 - a)).take pc.2
      memWrite z w pc.1 (part.map (·.1)) (part.any (·.2))) s
  else memWrite s w a (bs.map (·.1))

/-- What a read of [a, a + n) would find, with no effect. -/
def peekBytes (s : State) (a n : Nat) : List Byte := ((memRead s .mc 0 a n).2).map (·.1)

/-- The value of an atomic's result (R95). -/
def atomicValue (op : AtomOp) (bits : Nat) (old operand compare : Nat) : Nat :=
  let m := 2 ^ bits
  let so := sextNat old bits
  let sp := sextNat operand bits
  (match op with
  | .swap => operand
  | .add => old + operand
  | .and => old &&& operand
  | .or => old ||| operand
  | .xor => old ^^^ operand
  | .min => if so ≤ sp then old else operand
  | .max => if sp ≤ so then old else operand
  | .minu => min (old % m) (operand % m)
  | .maxu => max (old % m) (operand % m)
  | .cas => if old % m = compare % m then operand else old) % m

/-- An atomic at its home (R68, R335): the old value, whether it was Deferred (then nothing is written), the state after. -/
def memAtomic (s : State) (w : Who) (a : Nat) (op : AtomOp) (dbl : Bool) (operand compare : Word) : State × Nat × Bool :=
  let n := if dbl then 8 else 4
  let (s, bs) := memRead s w 2 a n
  let old := ofLe (bs.map (·.1))
  if bs.any (·.2) then (s, old, true)
  else
    let bits := 8 * n
    let new := atomicValue op bits old (operand.toNat % 2 ^ bits) (compare.toNat % 2 ^ bits)
    if op = .cas ∧ old ≠ compare.toNat % 2 ^ bits then (s, old, false)
    else (memWrite s w a (leBytes n new), old, false)

/-! ### Physical upsets -/

/-- An upset strikes a store (R303, R312, R339, R340, R570): it stays latent until a read finds it. -/
def strike (s : State) (u : Upset) : State :=
  match u with
  | .word a d =>
    match windowOf a with
    | .pan _ | .session => { s with errs := SMap.set 0 s.errs (a / 8 * 8) (if d then 2 else 1) }
    | _ => s
  | .codeword k d => if k < Config.hbmBytes then { s with errs := SMap.set 0 s.errs (k / 32 * 32) (if d then 2 else 1) } else s
  | .l1 sp isData set way tag =>
    let k := 4 * set.val + way.val
    s.updSpin sp (fun x =>
      let c := if isData then x.l1d else x.l1i
      let c := if SMap.get none c.lines k = none then c
        else if tag then { c with badTag := SMap.set false c.badTag k true } else { c with badData := SMap.set false c.badData k true }
      if isData then { x with l1d := c } else { x with l1i := c })
  | .wcb k i => s.updStack k (fun x =>
      { x with wcb := x.wcb.mapIdx (fun j e => if j = i then { e with bad := true } else e) })
  | .rtt i => { s with rttBad := SMap.set false s.rttBad i true }

def strikes (s : State) (us : List Upset) : State := us.foldl strike s

end Sys2Proof.Machine
end

