-- ==== Sys2Proof/Machine/Trap.lean ====
section
/-! DEFINITION. Taking a trap, as the ONE shared operation `trapEntry` (R115), the double fault (R117), the Sealed exit (R123),
the task-state block (R119), and the returns from them: `tretRestore` (R121, R122, R125). -/

namespace Sys2Proof.Machine
open Sys2Proof

/-! ### Causes (R109) -/

def Cause.ILLEGAL : Nat := 1
def Cause.PRIVILEGE : Nat := 2
def Cause.DEV_ADDR : Nat := 3
def Cause.ALIGN : Nat := 4
def Cause.ACCESS : Nat := 5
def Cause.TRANSLATE : Nat := 6
def Cause.POISON : Nat := 7
def Cause.BREAK : Nat := 8
def Cause.GATE : Nat := 9
def Cause.TILE_OWN : Nat := 10
def Cause.VEC_CONFIG : Nat := 11
def Cause.OVERFLOW : Nat := 12
def Cause.DIVZERO : Nat := 13
def Cause.BEAT_OVERRUN : Nat := 14
def Cause.MATRIX_ERROR : Nat := 15
def Cause.INT (i : Nat) : Nat := 32 + i

/-- What a fault reports: its cause, its code and TVAL. -/
structure TrapInfo where
  cause : Nat
  code : Nat
  tval : Word
  deriving DecidableEq, Repr

/-- The classes of trap that TSB.CAUSE distinguishes: a fault, a trap after completion, or an asynchronous event (R119). -/
inductive TrapKind where
  | fault | after | async
  deriving DecidableEq, Repr

/-! ### Pending class-S writes (R76) -/

def applyBank (x : Thread) (w : Bool) : Thread :=
  let b := (x.pend w).foldl (fun m e => match e.2 with | some v => SMap.set 0 m e.1 v | none => m) (x.bank w)
  (x.setBank w b).setPend w []

/-- A synchronisation point applies the thread's pending class-S writes, each in the bank in which it was made (R76, R140). -/
def applyPending (x : Thread) : Thread := applyBank (applyBank x false) true

/-! ### The task-state block (R119) -/

/-- The address in CR.TSBR of world `w`. -/
def tsbAddr (x : Thread) (w : Bool) : Nat := (x.bcr w CR.TSBR).toNat % 2 ^ 48 / 512 * 512

/-- The supervisor of world `w` may read and write [a, a + n), in HBM or a pan (R105, R119). -/
def blockOk (s : State) (w : Bool) (a n : Nat) : Bool :=
  (match windowOf a, windowOf (a + n - 1) with
   | .hbm, .hbm => true
   | .pan i, .pan j => decide (i = j)
   | _, _ => false) && (w || !anySealed s a n)

/-- The contents of a block, as trap entry writes it: bytes 0x000–0x06F and 0x100–0x1FF. -/
structure Tsb where
  pc : Addr
  pie : Bool
  plevel : Bool
  pworld : Bool
  sealx : Bool
  vrv : Bool
  chain : Nat
  cause : Nat
  async : Bool
  after : Bool
  code : Nat
  tval : Word
  insn : Word
  loops : List Word
  vres : BitVec 32
  vcfg : Word
  tick : Word
  g : List Word
  deriving DecidableEq, Repr

def Tsb.statusWord (b : Tsb) : Nat :=
  boolNat b.pie + boolNat b.plevel * 2 + boolNat b.pworld * 4 + boolNat b.sealx * 8 + boolNat b.vrv * 16 + b.chain % 256 * 256
def Tsb.causeWord (b : Tsb) : Nat := b.cause % 64 + boolNat b.async * 64 + boolNat b.after * 128 + b.code % 256 * 256

/-- The first 0x70 bytes of the block. -/
def Tsb.head (b : Tsb) : List Byte :=
  leBytes 8 b.pc.toNat ++ leBytes 8 b.statusWord ++ leBytes 8 b.causeWord ++ leBytes 8 b.tval.toNat ++ leBytes 8 b.insn.toNat ++
    (b.loops.flatMap (fun w => leBytes 8 w.toNat)) ++ leBytes 8 b.vres.toNat ++ leBytes 8 b.vcfg.toNat ++ leBytes 8 b.tick.toNat

/-- The bytes from 0x100 on: g32–g63. -/
def Tsb.tail (b : Tsb) : List Byte := b.g.flatMap (fun w => leBytes 8 w.toNat)

def wordAt (bs : List Byte) (o : Nat) : Word := BitVec.ofNat 64 (ofLe ((bs.drop o).take 8))

def tsbOf (head tail : List Byte) : Tsb :=
  let st := wordAt head 8
  let ca := wordAt head 16
  { pc := BitVec.ofNat 48 ((wordAt head 0).toNat % 2 ^ 48 / 4 * 4), pie := bit st 0, plevel := bit st 1, pworld := bit st 2,
    sealx := bit st 3, vrv := bit st 4, chain := field st 15 8, cause := field ca 5 0, async := bit ca 6, after := bit ca 7,
    code := field ca 15 8, tval := wordAt head 24, insn := wordAt head 32,
    loops := (List.range 6).map (fun i => wordAt head (0x28 + 8 * i)), vres := BitVec.ofNat 32 (wordAt head 0x58).toNat,
    vcfg := wordAt head 0x60, tick := wordAt head 0x68, g := (List.range 32).map (fun i => wordAt tail (8 * i)) }

/-- The device writes for thread `t` at trap entry, tret and Sealed exit. These are not the thread's own stores: L1D of a pan's Spindle
loses the lines (R115, R316), and the thread's own L1D loses them wherever the block lies, so that its handler finds what was written.
DEDUCED: assumption 29. -/
def entryWrite (s : State) (t : Thr) (a : Nat) (bs : List Byte) : State :=
  memWrite ((piecesOf 64 a bs.length).foldl (fun z pc => invalLine z (spindleOf t) true (pc.1 / 64)) s) (.entry t) a bs

/-- The device writes the task-state block (R115, R119). -/
def writeTsb (s : State) (t : Thr) (a : Nat) (b : Tsb) : State := entryWrite (entryWrite s t a b.head) t (a + 0x100) b.tail

/-- A read of the block: its contents, or the fault and the address of the first byte that fails (R121). -/
def readTsb (s : State) (t : Thr) (w : Bool) (a : Nat) : State × Except TrapInfo Tsb :=
  if windowOf a = .unmapped then (s, .error ⟨Cause.DEV_ADDR, 0, BitVec.ofNat 64 a⟩)
  else if !blockOk s w a 512 then (s, .error ⟨Cause.ACCESS, 0, BitVec.ofNat 64 a⟩)
  else
    let (s, hd) := memRead s (.entry t) 0 a 0x70
    let (s, tl) := memRead s (.entry t) 0 (a + 0x100) 0x100
    match hd.findIdx? (·.2) with
    | some i => (s, .error ⟨Cause.POISON, 0, BitVec.ofNat 64 (a + i)⟩)
    | none =>
      match tl.findIdx? (·.2) with
      | some i => (s, .error ⟨Cause.POISON, 0, BitVec.ofNat 64 (a + 0x100 + i)⟩)
      | none => (s, .ok (tsbOf (hd.map (·.1)) (tl.map (·.1))))

def loopsOf (x : Thread) : List Word :=
  [x.ucr (CR.LC 0), x.ucr (CR.LS 0), x.ucr (CR.LE 0), x.ucr (CR.LC 1), x.ucr (CR.LS 1), x.ucr (CR.LE 1)]

def setLoops (x : Thread) (l : List Word) : Thread :=
  let put (x : Thread) (n i : Nat) (m : Word) := x.setUcr n (l.getD i 0 &&& m)
  let lc : Word := 0xFFFFFFFF
  let ad : Word := 0x0000FFFFFFFFFFFC
  put (put (put (put (put (put x (CR.LC 0) 0 lc) (CR.LS 0) 1 ad) (CR.LE 0) 2 ad) (CR.LC 1) 3 lc) (CR.LS 1) 4 ad) (CR.LE 1) 5 ad

/-- The block that records the thread's state for an entry (R115 step 4, R119). -/
def tsbFor (s : State) (x : Thread) (w : Bool) (pc : Addr) (k : TrapKind) (i : TrapInfo) (insn : Word) : Tsb :=
  { pc := pc, pie := x.ie w, plevel := x.level, pworld := x.world, sealx := false, vrv := bit (x.ucr CR.VRES) 32, chain := 0,
    cause := i.cause, async := decide (k = .async), after := decide (k = .after), code := i.code, tval := i.tval, insn := insn,
    loops := loopsOf x, vres := BitVec.ofNat 32 (x.ucr CR.VRES).toNat, vcfg := x.ucr CR.VCFG, tick := s.now,
    g := (List.finRange 32).map (fun j => x.g[32 + j.val]) }

/-! ### Double fault (R117) -/

/-- The instruction in progress is given up: of its host accesses, those whose completions are still to come are remembered until
they do (R134, R372). -/
def abandonHost (x : Thread) : Thread :=
  { x with host := [], satAt := none, orphans := x.orphans ++ x.host.filter (fun r => decide (r.reply = .waiting)) }

/-- The thread halts in its world; TPC takes its PC, or zero in Sealed; the MC hears of it. DESIGN CHOICE: assumption 24. -/
def doubleFault (s : State) (t : Thr) (cause : Nat) : State :=
  let x := s.thr t
  let n := spindleOf t
  let s := s.setReg (R.SPINDLE_TPC n (threadIn t)) (if x.world then 0 else BitVec.ofNat 64 x.pc.toNat)
  let s := s.setThr t { abandonHost x with run := .halted, group := none, wait := .none, misses := [], haltReq := false }
  report s UKind.SPINDLE n.val 0x06 (BitVec.ofNat 64 ((threadIn t).val + cause % 64 * 256))

/-! ### Sealed exit (R123) -/

def vecBytes (x : Thread) : List Byte := x.v.toList.flatMap (fun r => leBytes 4096 r.toNat)
def maskBytes (x : Thread) : List Byte := x.m.toList.flatMap (fun r => leBytes 512 r.toNat)

/-- The save area of CR.SVSA: 32 vector registers, then 8 mask registers. -/
def svsaEn (x : Thread) : Bool := bit (x.bcr true CR.SVSA) 0
def svsaAddr (x : Thread) : Nat := (x.bcr true CR.SVSA).toNat % 2 ^ 48 / 4096 * 4096
def svsaLen : Nat := 135168

/-- Step 3 of a Sealed exit. -/
def clearSealed (x : Thread) : Thread :=
  let x := setLoops { x with g := Vector.replicate 64 0, v := Vector.replicate 32 0, m := Vector.replicate 8 0 } []
  ((x.setUcr CR.VRES 0).setUcr CR.VCFG 0).setUcr CR.TXSTAT 0

/-- Steps 1 to 3: the Sealed context goes to the Sealed block and the save area, and is cleared. None when a write faults. DESIGN CHOICE: assumption 26. -/
def sealedSave (s : State) (t : Thr) (pc : Addr) (k : TrapKind) (i : TrapInfo) : Option State :=
  let x := s.thr t
  let a := tsbAddr x true
  if !blockOk s true a 512 || (svsaEn x && !blockOk s true (svsaAddr x) svsaLen) then none
  else
    let s := writeTsb s t a { tsbFor s x true pc k i 0 with sealx := true }
    let s := if svsaEn x then entryWrite s t (svsaAddr x) (vecBytes x ++ maskBytes x) else s
    some (s.updThr t clearSealed)

/-! ### Trap entry (R115) -/

def handlerAddr (w : Bool) (cause : Nat) : Addr :=
  BitVec.ofNat 48 ((if w then Config.sealedHandler else Config.openHandler) + 32 * cause)

/-- In W's CR.STATUS, IE is cleared and INH set; the thread enters W at supervisor level at the handler (steps 5 and 6). -/
def enterHandler (x : Thread) (w : Bool) (cause : Nat) : Thread :=
  let st := x.bcr w CR.STATUS
  let x := x.setBcr w CR.STATUS (setBit (setBit st 0 false) 1 true)
  { abandonHost x with world := w, level := true, pc := handlerAddr w cause, run := .running, group := none, wait := .none, misses := [] }

/-- Entry into world `w`, saving `pc`. A thread that was PARKED is PARKED again when the block is returned from (R19). -/
def trapEntry (s : State) (t : Thr) (w : Bool) (pc : Addr) (k : TrapKind) (i : TrapInfo) (insn : Word) : State :=
  let s := s.updThr t (fun x => { applyPending x with pc := pc })
  let x := s.thr t
  let a := tsbAddr x w
  let parked := decide (x.run = .parked)
  let exits := x.world && !w
  if exits then
    match sealedSave s t pc k i with
    | none => doubleFault s t i.cause
    | some s1 => if !blockOk s1 w a 512 then doubleFault s1 t i.cause else
      let y := s1.thr t
      let b : Tsb := { tsbFor s1 y w 0 k i 0 with sealx := true, vrv := false, vres := 0, vcfg := 0 }
      let s2 := writeTsb s1 t a b
      let y := { s2.thr t with suspended := some a, parkBlock := if parked then some (w, a) else x.parkBlock }
      s2.setThr t (enterHandler y w i.cause)
  else if !blockOk s w a 512 then doubleFault s t i.cause
  else
    let s1 := writeTsb s t a (tsbFor s x w pc k i insn)
    let y := { s1.thr t with parkBlock := if parked then some (w, a) else x.parkBlock }
    s1.setThr t (enterHandler y w i.cause)

/-- A fault, or a trap after completion, of the running thread: a transaction aborts instead (R86, R115); a world in a handler
makes it a double fault (R117). `pc` is the PC saved. -/
def takeTrap (s : State) (t : Thr) (pc : Addr) (k : TrapKind) (i : TrapInfo) (insn : Word) : State :=
  let x := s.thr t
  if x.tx.isSome then txAbort s t 6 i.cause false
  else
    let y := applyPending x
    if y.inh y.world then doubleFault (s.setThr t { y with pc := pc }) t i.cause
    else trapEntry s t x.world pc k i insn

/-! ### Interrupts (R113, R133, R134) -/

/-- The lines of world `w` that are takeable (R133). -/
def takeable (s : State) (x : Thread) (w : Bool) : Nat :=
  let lines := pendingLines s x w &&& (x.bcr w CR.IEN).toNat
  if x.ie w ∧ !x.inh w ∧ (w → x.suspended = none) ∧ (!w → !(x.world && x.level && x.holdo)) then lines else 0

/-- The lowest set bit, below 32. -/
def lowestLine (m : Nat) : Option Nat := (List.range 32).find? (fun i => m.testBit i)

/-- The thread is at a point where it takes events: RUNNING, PARKED, WAITING or STALLED (R134). -/
def takesEvents (x : Thread) : Bool := decide (x.run ≠ .halted)

/-- An asynchronous event enters world `w`: a transaction aborts first with INTERRUPT, and the fail address is saved (R87); a
stalled instruction is abandoned without effect (R134). -/
def asyncEntry (s : State) (t : Thr) (w : Bool) (cause : Nat) (tval : Word) : State :=
  let s := if (s.thr t).tx.isSome then txAbort s t 7 0 true else s
  trapEntry s t w (s.thr t).pc .async ⟨cause, 0, tval⟩ 0

/-! ### Return (R121, R122, R125, R126) -/

/-- Restores the thread from a block: PC, loops, VCFG, VRES, g32–g63, level and world. -/
def restoreFrom (x : Thread) (b : Tsb) (world : Bool) (vcfgOk : Word → Word) : Thread :=
  let x := setLoops { x with pc := b.pc, level := b.plevel, world := world } b.loops
  let x := x.setUcr CR.VCFG (vcfgOk b.vcfg)
  let x := x.setUcr CR.VRES (BitVec.ofNat 64 (b.vres.toNat + boolNat b.vrv * 2 ^ 32))
  { x with g := (List.finRange 32).foldl (fun v (j : Fin 32) => v.set (32 + j.val) (b.g.getD j.val 0)) x.g }

/-- The Sealed context is restored from the Sealed block and the save area (R125, R129). -/
def sealedRestore (s : State) (t : Thr) (vcfgOk : Word → Word) : State × Except TrapInfo Unit :=
  let x := s.thr t
  match readTsb s t true (tsbAddr x true) with
  | (s, .error e) => (s, .error e)
  | (s, .ok b) =>
    if svsaEn x then
      if !blockOk s true (svsaAddr x) svsaLen then (s, .error ⟨Cause.ACCESS, 0, BitVec.ofNat 64 (svsaAddr x)⟩)
      else
        let (s, bs) := memRead s (.entry t) 0 (svsaAddr x) svsaLen
        match bs.findIdx? (·.2) with
        | some i => (s, .error ⟨Cause.POISON, 0, BitVec.ofNat 64 (svsaAddr x + i)⟩)
        | none =>
          let by' := bs.map (·.1)
          let y := restoreFrom (s.thr t) b true vcfgOk
          let y := { y with
            v := Vector.ofFn (fun (j : Fin 32) => BitVec.ofNat 32768 (ofLe ((by'.drop (4096 * j.val)).take 4096))),
            m := Vector.ofFn (fun (j : Fin 8) => BitVec.ofNat 4096 (ofLe ((by'.drop (131072 + 512 * j.val)).take 512))) }
          (s.setThr t y, .ok ())
    else (s.setThr t (restoreFrom (s.thr t) b true vcfgOk), .ok ())

/-- A thread whose block of the world `w` at `a` recorded a parked state is PARKED again after its return. -/
def reparks (x : Thread) (w : Bool) (a : Nat) : Bool := decide (x.parkBlock = some (w, a))

end Sys2Proof.Machine
end

