-- ==== Sys2Proof/Machine/Rtt.lean ====
section
/-! DEFINITION. Address translation and faults (10_translation.md): range entries, ATS requests and completions,
invalidations, range caches, fault records, batches and page requests, and what agents that wait for them do. -/

namespace Sys2Proof.Machine
open Sys2Proof

def rttSlots : Nat := 524288
def maxPages : Nat := 4294967295

/-- The virtual address presented to the host: bits [63:57] equal to bit 56 (R357). -/
def hostVa (v : Nat) : Nat := let x := v % 2 ^ 57; if x < 2 ^ 56 then x else x + (2 ^ 64 - 2 ^ 57)

/-- The PASID that a request carries, if RTT.PASID.EN is set (R357). -/
def pasidOf (s : State) : Option Nat :=
  if s.flag R.RTT_PASID F.RTT_PASID_EN then some (s.fld R.RTT_PASID F.RTT_PASID_VALUE) else none

/-- The endpoint may send requests (R524, R526). -/
def canSend (s : State) : Bool := s.host.bme && !s.host.d3hot

/-! ### Entries -/

def Range.vend (e : Range) : Nat := e.vstart + e.pages * 4096
def Range.covers (e : Range) (v : Nat) : Bool := decide (e.vstart ≤ v) && decide (v < e.vend)
def Range.grants (e : Range) (write atomic : Bool) : Bool :=
  if atomic then e.r && e.w else if write then e.w else e.r

def State.updRtt (s : State) (f : Rtt → Rtt) : State := { s with rtt := f s.rtt }

/-- Every copy of entry `i` in every range cache is invalidated (R374). -/
def dropCopies (s : State) (i : Nat) : State :=
  s.updRtt (fun r => { r with caches := r.caches.map (fun c => c.filter (fun e => decide (e.idx ≠ i))) })

def setEntry (s : State) (i : Nat) (e : Option Range) : State :=
  s.updRtt (fun r => { r with entries := SMap.set none r.entries i e })

/-- Entry `i` is removed with its copies (R374). -/
def dropEntry (s : State) (i : Nat) : State :=
  let s := dropCopies (setEntry s i none) i
  { s with rttBad := SMap.set false s.rttBad i false }

/-- The lowest free index. -/
def freeSlotFrom : SMap (Option Range) → Nat → Nat
  | [], i => i
  | (k, _) :: m, i => if k = i then freeSlotFrom m (i + 1) else i

/-- The sweep of the hand over the entries in increasing index (R368): `l` are the entries from the hand on, in the order of
the sweep; it ends at the first with AGE 0. -/
def sweep (s : State) : List Nat → State × Option Nat
  | [] => (s, none)
  | i :: l =>
    match SMap.get none s.rtt.entries i with
    | none => sweep s l
    | some e =>
      if e.age = 0 then (s, some i)
      else sweep (setEntry s i (some { e with age := e.age - 1 })) l

/-- A free entry's index, evicting when none is free (R368). -/
def takeSlot (s : State) : State × Nat :=
  let i := freeSlotFrom s.rtt.entries 0
  if i < rttSlots then (s, i)
  else
    let ks := s.rtt.entries.map (·.1)
    let order := ks.filter (fun k => decide (s.rtt.hand ≤ k)) ++ ks.filter (fun k => decide (k < s.rtt.hand))
    let rounds := order ++ order ++ order ++ order
    match sweep s rounds with
    | (s, some j) =>
      let s := dropEntry s j
      (s.bump R.RTT_EVICT 1 |>.updRtt (fun r => { r with hand := (j + 1) % rttSlots }), j)
    | (s, none) => (s, 0)

/-- One entry loses [a, a + z): removed, trimmed or split (R370). -/
def cutEntry (s : State) (i a z : Nat) : State :=
  match SMap.get none s.rtt.entries i with
  | none => s
  | some e =>
    let b := a + z
    if e.vend ≤ a ∨ b ≤ e.vstart then s
    else
      let low : Range := { e with pages := (a - e.vstart) / 4096 }
      let high : Range := { e with vstart := b, pages := (e.vend - b) / 4096,
                                   pstart := if e.untr then e.pstart else e.pstart + (b - e.vstart) }
      if a ≤ e.vstart ∧ e.vend ≤ b then dropEntry s i
      else if a ≤ e.vstart then dropCopies (setEntry s i (some high)) i
      else if e.vend ≤ b then dropCopies (setEntry s i (some low)) i
      else
        let s := dropCopies (setEntry s i (some low)) i
        let (s, j) := takeSlot s
        (setEntry s j (some high)).bump R.RTT_SPLITS 1

/-- [a, a + z) leaves every entry that `p` names (R370, R371). -/
def cutRange (s : State) (a z : Nat) (p : Range → Bool) : State :=
  (s.rtt.entries.filterMap (fun e => match e.2 with | some r => if p r then some e.1 else none | none => none)).foldl
    (fun z' i => cutEntry z' i a z) s

def sameAttrs (e : Range) (t : Translation) : Bool :=
  e.r == t.r && e.w == t.w && e.untr == t.untr && e.ns == t.ns && e.global == t.global

/-- A translation within the 57-bit space: no entry extends beyond it (R364). -/
def clipTranslation (t : Translation) : Translation :=
  let v := t.va % 2 ^ 57
  { t with va := v, size := min t.size (2 ^ 57 - v) }

/-- One translation is inserted (R367). -/
def insertTranslation (s : State) (t0 : Translation) : State :=
  let t := clipTranslation t0
  if !t.r && !t.w then s
  else
    let s := cutRange s t.va t.size (fun _ => true)
    let n := t.size / 4096
    let find (p : Range → Bool) := s.rtt.entries.findSome? (fun e => match e.2 with
      | some r => if p r then some (e.1, r) else none | none => none)
    let low := find (fun e => decide (e.vend = t.va) && sameAttrs e t && (t.untr || decide (e.pstart + e.pages * 4096 = t.pa)) &&
      decide (e.pages + n ≤ maxPages))
    let base := match low with | some (_, e) => e.pages + n | none => n
    let high := find (fun e => decide (e.vstart = t.va + t.size) && sameAttrs e t && (t.untr || decide (t.pa + t.size = e.pstart)) &&
      decide (e.pages + base ≤ maxPages))
    match low, high with
    | some (i, e), some (j, f) =>
      (setEntry (dropEntry s j) i (some { e with pages := e.pages + n + f.pages })).bump R.RTT_COALESCE 2
    | some (i, e), none => (setEntry s i (some { e with pages := e.pages + n })).bump R.RTT_COALESCE 1
    | none, some (j, f) =>
      (setEntry s j (some { f with vstart := t.va, pages := f.pages + n, pstart := if f.untr then f.pstart else t.pa })).bump
        R.RTT_COALESCE 1
    | none, none =>
      let (s, i) := takeSlot s
      setEntry s i (some { vstart := t.va, pages := n, pstart := t.pa, r := t.r, w := t.w, untr := t.untr, ns := t.ns,
                           global := t.global, age := 0, fillTime := s.now, fills := 0 })

/-! ### Lookup (R358, R373) -/

/-- The outcome of translating one address. -/
inductive Xlate where
  | ok (pa : Nat) (untr ns : Bool)
  | miss
  | refused
  deriving DecidableEq, Repr

def Range.at (e : Range) (v : Nat) : Xlate := .ok (if e.untr then hostVa v else e.pstart + (v - e.vstart)) e.untr e.ns

/-- A parity failure found on a read of entry `i` removes it and is reported (R570). -/
def rttParity (s : State) (i : Nat) : State × Bool :=
  if SMap.get false s.rttBad i then (report (dropEntry s i) UKind.TSTORE 0 0x14 (BitVec.ofNat 64 i), true) else (s, false)

/-- The RTT's entry for `v`. -/
def rttFind (s : State) (v : Nat) : Option (Nat × Range) :=
  s.rtt.entries.findSome? (fun e => match e.2 with | some r => if r.covers v then some (e.1, r) else none | none => none)

/-- A copy of entry `i` as it now stands fills the range cache of agent `a`, in place of its least recently used one (R368, R373). -/
def fillCache (s : State) (a : Fin 28) (i : Nat) (e : Range) : State :=
  let e' := { e with age := 3, fills := satAdd e.fills 1 4294967295 }
  (setEntry s i (some e')).updRtt (fun r => { r with caches := r.caches.set a (({ idx := i, ent := e' } :: r.caches[a]).take 4096) })

/-- The copy in agent `a`'s range cache that serves an access. -/
def cacheFind (s : State) (a : Fin 28) (v : Nat) (write atomic : Bool) : Option RangeCopy :=
  (s.rtt.caches[a]).find? (fun e => e.ent.covers v && e.ent.grants write atomic)

/-- The range cache of agent `a`, then the RTT (R358 steps 1 and 2). DESIGN CHOICE: assumption 63. -/
def lookup (s : State) (a : Fin 28) (v : Nat) (write atomic : Bool) : State × Xlate :=
  match cacheFind s a v write atomic with
  | some e =>
    (s.updRtt (fun r => { r with caches := r.caches.set a (e :: (r.caches[a]).filter (fun x => !decide (x = e))) }), e.ent.at v)
  | none =>
    let s := s.bump (R.RTT_RCMISS a) 1
    match rttFind s v with
    | none => (s, .miss)
    | some (i, e) =>
      match rttParity s i with
      | (s, true) => (s, .miss)
      | (s, false) => if e.grants write atomic then (fillCache s a i e, e.at v) else (s, .miss)

/-- A shared virtual address as agent `a` sees it (R358, R360). -/
def translate (s : State) (a : Fin 28) (v : Nat) (write atomic : Bool) : State × Xlate :=
  if !s.host.atsEn then (s, .ok (hostVa v) true false)
  else if !s.flag R.RTT_CTRL F.RTT_CTRL_EN then (s, .refused)
  else lookup s a v write atomic

/-! ### ATS requests (R366) -/

def sendAts (s : State) (page : Nat) (noWrite : Bool) : State :=
  let n := s.fld R.RTT_CFG F.RTT_CFG_AHEAD
  let num := s.rtt.nextReq
  let s := s.updRtt (fun r => { r with reqs := r.reqs ++ [{ num := num, page := page, count := n, noWrite := noWrite, invs := [] }],
                                       nextReq := num + 1 })
  (s.bump R.RTT_ATSREQ 1).emit (.atsRequest num (hostVa (page * Config.atsCapability.unit)) n noWrite (pasidOf s))

/-- A request may be sent now. -/
def atsRoom (s : State) : Bool := decide (s.rtt.reqs.length < s.fld R.RTT_CFG F.RTT_CFG_MAXREQ) && canSend s

/-- A request for `page` is outstanding. -/
def pageAsked (s : State) (page : Nat) : Bool := s.rtt.reqs.any (fun q => decide (q.page = page))

/-- A request for `page` is sent, or waits for MAXREQ. -/
def requestAts (s : State) (page : Nat) (noWrite again : Bool) : State :=
  if atsRoom s then sendAts s page noWrite
  else s.updRtt (fun r => { r with waiting := r.waiting ++ [{ page := page, noWrite := noWrite, again := again }] })

/-- A miss in `page`: one in a page already requested waits for that request's completion, whatever rights it asked (R366). -/
def askAts (s : State) (page : Nat) (noWrite : Bool) : State :=
  if pageAsked s page || s.rtt.waiting.any (fun m => decide (m.page = page) && (noWrite || !m.noWrite)) then s
  else requestAts s page noWrite false

/-- Waiting misses are sent as requests end; one whose page has been requested meanwhile waits for that request. -/
def sendWaiting (s : State) : State :=
  s.rtt.waiting.foldl (fun z m =>
    if pageAsked z m.page && !m.again then z.updRtt (fun r => { r with waiting := r.waiting.erase m })
    else if atsRoom z then sendAts (z.updRtt (fun r => { r with waiting := r.waiting.erase m })) m.page m.noWrite
    else z) s

/-- Page `p` is asked for and not answered. -/
def asked (s : State) (p : Nat) : Bool := pageAsked s p || s.rtt.waiting.any (fun m => decide (m.page = p))

/-! ### Agents that wait -/

def FAgent.cache : FAgent → Fin 28
  | .thread t => ⟨(spindleOf t).val, by have := (spindleOf t).isLt; omega⟩
  | .sluice e _ => ⟨12 + e.val, by have := e.isLt; omega⟩

def State.slq (s : State) (e : EngineId) (q : QueueId) : SlQueue := (s.sluice[e])[q]
def State.setSlq (s : State) (e : EngineId) (q : QueueId) (x : SlQueue) : State :=
  { s with sluice := s.sluice.set e ((s.sluice[e]).set q x) }

def waitOf (s : State) : FAgent → Wait
  | .thread t => (s.thr t).wait
  | .sluice e q => (s.slq e q).wait
def missesOf (s : State) : FAgent → List Miss
  | .thread t => (s.thr t).misses
  | .sluice e q => (s.slq e q).misses

/-- QSTAT.STATE of a queue (R420): RUNNING 1, STALLED 4 stand here; the others in the Sluice chapter. -/
def setQState (s : State) (e : EngineId) (q : QueueId) (v : Nat) : State := s.setFld (R.SLUICE_QSTAT e q) F.SLUICE_QSTAT_STATE v

def setWait (s : State) (a : FAgent) (w : Wait) (ms : List Miss) : State :=
  match a with
  | .thread t => s.updThr t (fun x => { x with wait := w, misses := ms, run := if w = .none then .running else .stalled })
  | .sluice e q =>
    let s := s.setSlq e q { s.slq e q with wait := w, misses := ms }
    setQState s e q (if w = .none then 1 else 4)

/-- A refusal (R380): the thread takes TRANSLATE at its stalled instruction; a Sluice descriptor is left to end with
TRANSLATE. -/
def refuse (s : State) (a : FAgent) (v code : Nat) : State :=
  let s := s.bump R.FQ_REFUSED 1
  match a with
  | .thread t =>
    let x := s.thr t
    let s := s.setThr t { abandonHost x with run := .running, wait := .none, misses := [] }
    takeTrap s t x.pc .fault ⟨Cause.TRANSLATE, code, BitVec.ofNat 64 v⟩ x.stallWord
  | .sluice e q => s.setSlq e q { s.slq e q with wait := .none, misses := [], refusal := some code }

def Miss.page (m : Miss) : Nat := m.va % 2 ^ 57 / 4096
def Miss.needW (m : Miss) : Bool := m.write || m.atomic

/-- The rights (R, W) suffice for the access (R358). -/
def Miss.served (m : Miss) (g : Bool × Bool) : Bool := if m.atomic then g.1 && g.2 else if m.write then g.2 else g.1

def allAgents : List FAgent :=
  allThr.map .thread ++ (List.finRange 16).flatMap (fun e => (List.finRange 4).map (fun q => .sluice e q))

/-! ### Fault records and batches (R375–R384) -/

def fqSize (s : State) : Nat := 2 ^ s.fld R.FQ_CFG F.FQ_CFG_SIZE
def fqTail (s : State) : Nat := s.fld R.FQ_TAIL F.FQ_TAIL_INDEX
def fqHead (s : State) : Nat := s.fld R.FQ_HEAD F.FQ_HEAD_INDEX
def fqUsed (s : State) : Nat := (fqTail s + 2 ^ 32 - fqHead s) % 2 ^ 32
def fqFull (s : State) : Bool := decide (fqSize s ≤ fqUsed s)

/-- Slot and PHASE of record index `x` in a ring of 2^`sz` records of 64 bytes at `base` (R383). -/
def ringSlot (base sz x : Nat) : Nat := base / (64 * 2 ^ sz) * (64 * 2 ^ sz) + 64 * (x % 2 ^ sz)
def ringPhase (sz x : Nat) : Bool := !x.testBit sz

/-- The 64 bytes of a fault record (R382). -/
def faultBytes (s : State) (a : FAgent) (m : Miss) (gotR gotW : Bool) (batch : BitVec 32) : List Byte :=
  let x := fqTail s
  let (kind, num, world, level, src) := match a with
    | .thread t => (0, t.val, (s.thr t).world, (s.thr t).level, (s.thr t).pc.toNat)
    | .sluice e q => (1, e.val, false, false, (s.slq e q).descAddr)
  let acc := if m.atomic then 2 else if m.write then 1 else 0
  let w0 := boolNat (ringPhase (s.fld R.FQ_CFG F.FQ_CFG_SIZE) x) + acc * 2 + boolNat gotR * 8 + boolNat gotW * 16 + kind * 32 +
    num * 64 + boolNat world * 2 ^ 12 + boolNat level * 2 ^ 13 + boolNat m.vec * 2 ^ 14 + x * 2 ^ 32
  leBytes 8 w0 ++ leBytes 8 (m.va % 2 ^ 57) ++ leBytes 8 src ++ leBytes 8 s.now.toNat ++ leBytes 8 s.beatNo.toNat ++
    leBytes 4 batch.toNat ++ leBytes 4 m.elem ++ leBytes 16 0

/-- PRI sends page requests: PRI Enable set and PRI_FAILED clear (R377, R379). -/
def priOn (s : State) : Bool := s.host.priEn && !s.flag R.FQ_STAT F.FQ_STAT_PRI_FAILED

/-- The page requests for the records `l` of a batch: the last has the Last flag when `whole`, the batch's final record being the last
of them (R377). -/
def pageRequests (s : State) (b : Batch) (whole : Bool) : List FaultRec → List Out
  | [] => []
  | r :: l => .pageRequest (hostVa (r.page * 4096)) r.write (b.num.toNat % 512) (whole && decide (l = [])) (pasidOf s) :: pageRequests s b whole l

/-- The batch's page requests that the Outstanding Page Request Allocation still permits are sent; the others follow as it permits
(R377). -/
def sendBatch (s : State) (b : Batch) : State :=
  let k := min (b.recs.length - b.out) (s.host.priAlloc - s.host.pagesOut)
  let whole := decide (b.out + k = b.recs.length)
  let b' := { b with out := b.out + k, sent := whole, sentAt := s.now }
  let s' := { s with fq := { s.fq with closed := s.fq.closed.map (fun c => if c.num = b.num then b' else c) },
                     host := { s.host with pagesOut := s.host.pagesOut + k } }
  (pageRequests s b whole ((b.recs.drop b.out).take k)).foldl State.emit s'

/-- The batch awaits its response: page requests of it have been sent. -/
def Batch.begun (b : Batch) : Bool := b.sent || decide (0 < b.out)

/-- Closed batches are sent while MAXB and the Outstanding Page Request Allocation permit (R377). -/
def sendBatches (s : State) : State :=
  s.fq.closed.foldl (fun z b =>
    if !b.sent && priOn z && canSend z && (b.begun || decide ((z.fq.closed.filter Batch.begun).length < z.fld R.FQ_PRICFG F.FQ_PRICFG_MAXB)) then
      sendBatch z b
    else z) s

/-- The agents that wait for batch `b`. -/
def batchAgents (s : State) (b : BitVec 32) : List FAgent :=
  allAgents.filter (fun a => match waitOf s a with | .batch rs => rs.any (fun r => decide (r.1 = b)) | _ => false)

/-- Each of the agents is refused with code 1. -/
def refuseAgents (s : State) (as : List FAgent) : State :=
  as.foldl (fun z a => match missesOf z a with | m :: _ => refuse z a m.va 1 | [] => z) s

/-- The open batch closes (R376): BATCH_EV is set, and it is sent if it can be. While no page request may be sent its agents are
refused (R379). DESIGN CHOICE: assumption 63. -/
def closeBatch (s : State) : State :=
  if s.fq.openRecs = [] then s
  else
    let b : Batch := { num := s.fq.openNum, recs := s.fq.openRecs, sent := false }
    let keep := priOn s
    let s := { s with fq := { s.fq with openRecs := [], closed := if keep then s.fq.closed ++ [b] else s.fq.closed } }
    let s := sendBatches (fqEvent s F.FQ_STAT_BATCH_EV F.FQ_IRQ_BATCH_EN)
    if keep then s else refuseAgents s (batchAgents s b.num)

/-- The batch and record that a fault joins (R375): same page, at least its rights, open or awaiting its response. -/
def joinRec (s : State) (page : Nat) (write : Bool) : Option (BitVec 32) :=
  let ok (r : FaultRec) := decide (r.page = page) && (r.write || !write)
  if s.fq.openRecs.any ok then some s.fq.openNum
  else (s.fq.closed.find? (fun b => b.recs.any ok)).map (·.num)

/-- The outcome of raising a fault. -/
inductive Raised where
  | waits (batch : BitVec 32)
  | refused
  | noSpace
  deriving DecidableEq, Repr

/-- A fault of agent `a` for miss `m` (R375–R384). One that joins a record needs none, so FQ.CFG.EN and the queue's space do not
matter to it. DESIGN CHOICE: assumption 63. -/
def raiseFault (s : State) (a : FAgent) (m : Miss) : State × Raised :=
  match joinRec s m.page m.needW with
  | some b =>
    let s := s.bump R.FQ_MERGED 1
    (s, if priOn s then .waits b else .refused)
  | none =>
    if !s.flag R.FQ_CFG F.FQ_CFG_EN then (s, .refused)
    else if fqFull s then (s, .noSpace)
    else
      -- a first record opens a batch, which takes its number
      let s := if s.fq.openRecs = [] then
          let n := BitVec.ofNat 32 (s.fld R.FQ_BATCHNO F.FQ_BATCHNO_NEXT)
          { s with fq := { s.fq with openNum := n, openSince := s.now } }.bump32 R.FQ_BATCHNO 1
        else s
      let b := s.fq.openNum
      let x := fqTail s
      let g := m.got.getD (false, false)
      let s := memWrite s .mc (ringSlot (s.fld R.FQ_BASE F.FQ_BASE_ADDR * 64) (s.fld R.FQ_CFG F.FQ_CFG_SIZE) x) (faultBytes s a m g.1 g.2 b)
      let s := (s.bump32 R.FQ_TAIL 1).bump R.FQ_FAULTS 1
      let s := { s with fq := { s.fq with openRecs := s.fq.openRecs ++
        [{ page := m.page, write := m.needW, seq := BitVec.ofNat 32 x }] } }
      let full := fqFull s
      let s := if full then fqEvent (s.setFlag R.FQ_STAT F.FQ_STAT_FULL true) F.FQ_STAT_QFULL_EV F.FQ_IRQ_QFULL_EN else s
      let s := if full || decide (s.fld R.FQ_CFG F.FQ_CFG_BMAX ≤ s.fq.openRecs.length) then closeBatch s else s
      (s, if priOn s then .waits b else .refused)

/-- Agent `a` raises the faults of its misses, one for each distinct page and at most 16 (R375): it then waits for the
responses, is refused, or stalls for queue space (R384). Misses in further pages are found again when the group is retried. -/
def raiseAll (s : State) (a : FAgent) (ms : List Miss) : State :=
  let pages := (ms.map Miss.page).eraseDups.take 16
  let firsts := pages.filterMap (fun p => ms.find? (fun m => decide (m.page = p)))
  let r := firsts.foldl (fun (acc : State × List (BitVec 32 × Nat) × Option Miss × Bool) m =>
      let (s, recs, bad, space) := acc
      if space then acc
      else
        match raiseFault s a m with
        | (s, .waits b) => (s, recs ++ [(b, m.page)], bad, false)
        | (s, .refused) => (s, recs, bad <|> some m, false)
        | (s, .noSpace) => (s, recs, bad, true)) (s, [], none, false)
  match r with
  | (s, _, some m, _) => refuse s a m.va 1
  | (s, _, none, true) =>
    let s := s.bump R.FQ_OVERFLOW 1
    setWait { s with fq := { s.fq with parked := s.fq.parked.filter (fun b => decide (b ≠ a)) ++ [a] } } a .space ms
  | (s, recs, none, false) => setWait s a (.batch recs) firsts

/-- The RTT grants the access. -/
def permitted (s : State) (m : Miss) : Bool :=
  match rttFind s (m.va % 2 ^ 57) with
  | some e => m.served (e.2.r, e.2.w)
  | none => false

/-- The agent's misses are there: each fills its range cache (R373), and it goes on. -/
def resumeAgent (s : State) (a : FAgent) : State :=
  setWait ((missesOf s a).foldl (fun z m =>
    match cacheFind z a.cache (m.va % 2 ^ 57) m.write m.atomic, rttFind z (m.va % 2 ^ 57) with
    | none, some (i, e) => fillCache z a.cache i e
    | _, _ => z) s) a .none []

/-- The agent waits for its translations. -/
def awaitsAts (s : State) (a : FAgent) : Bool := match waitOf s a with | .ats _ => true | _ => false

/-- An agent that stalled for queue space earlier than `a` has not yet raised its faults again (R384). -/
def behindOther (s : State) (a : FAgent) : Bool :=
  decide (a ∈ s.fq.retrying) && (s.fq.retrying.takeWhile (fun b => decide (b ≠ a))).any (awaitsAts s)

/-- A miss that no completion has answered for its page with the rights it needs, or whose translation has gone again since. -/
def Miss.unanswered (m : Miss) : Bool := match m.got with | some g => m.served g | none => true

/-- An agent whose pages are all answered goes on, asks again, faults, or is refused (R360, R375, R378): what its request's completion
did not grant faults; a miss that joined a request without W asks once more. -/
def recheck (s : State) (a : FAgent) : State :=
  let ms := missesOf s a
  let w := waitOf s a
  let waits := match w with | .ats _ | .retry _ | .batch _ | .space => true | _ => false
  if !waits then s
  else if !s.host.atsEn then setWait s a .none []
  else if !s.flag R.RTT_CTRL F.RTT_CTRL_EN then (match ms with | m :: _ => refuse s a m.va 1 | [] => setWait s a .none [])
  else if ms.any (fun m => asked s m.page) then s
  else
    let bad := ms.filter (fun m => !permitted s m)
    match w with
    | .ats pages =>
      if bad = [] then resumeAgent s a
      else if bad.any Miss.unanswered then
        let ms' := ms.map (fun m => if m.unanswered then { m with got := none } else m)
        (bad.filter Miss.unanswered).foldl (fun z m => askAts z m.page (!m.needW)) (setWait s a (.ats pages) ms')
      else if behindOther s a then s
      else raiseAll s a bad
    | .retry _ =>
      match bad with
      | [] => resumeAgent (s.bump R.FQ_RESOLVED 1) a
      | m :: _ => refuse s a m.va 1
    | _ => s

/-- Every agent, those that raise their faults again first and in their order (R384). -/
def recheckAll (s : State) : State :=
  let s := (s.fq.retrying ++ allAgents).foldl recheck s
  { s with fq := { s.fq with retrying := s.fq.retrying.filter (awaitsAts s) } }

/-- The completion of a request for `page` granted `g`: the misses that it asked enough for take that answer. -/
def noteGot (s : State) (page : Nat) (noWrite : Bool) (g : Bool × Bool) : State :=
  allAgents.foldl (fun z a =>
    if (missesOf z a).any (fun m => decide (m.page = page)) && !decide (waitOf z a = .none) then
      setWait z a (waitOf z a) ((missesOf z a).map (fun m =>
        if m.page = page ∧ (m.needW = false ∨ noWrite = false) then { m with got := some g } else m))
    else z) s

/-- A batch is answered: it leaves the list, and its page requests are no longer outstanding. -/
def dropBatch (s : State) (b : Batch) : State :=
  { s with fq := { s.fq with closed := s.fq.closed.filter (fun c => decide (c.num ≠ b.num)) },
           host := { s.host with pagesOut := s.host.pagesOut - b.out } }

/-- Success or Invalid Request (R378): an ATS request goes out again for every page of the batch, whatever others are outstanding, and
its agents await them. -/
def batchAnswered (s : State) (b : Batch) : State :=
  let ags := batchAgents s b.num
  let s := dropBatch s b
  let s := b.recs.foldl (fun z r => requestAts z r.page (!r.write) true) s
  let s := ags.foldl (fun z a =>
    match waitOf z a with
    | .batch rs =>
      match rs.filter (fun r => decide (r.1 ≠ b.num)) with
      | [] => setWait z a (.retry ((missesOf z a).map Miss.page)) (missesOf z a)
      | rest => setWait z a (.batch rest) (missesOf z a)
    | _ => z) s
  sendBatches (recheckAll s)

/-- Response Failure (R379). -/
def batchFailed (s : State) (b : Batch) : State :=
  let gone := b :: s.fq.closed.filter (fun c => c.begun && decide (c.num ≠ b.num))
  let ags := (gone.flatMap (fun c => batchAgents s c.num)).eraseDups
  let s := gone.foldl dropBatch s
  let s := fqEvent s F.FQ_STAT_PRI_FAILED F.FQ_IRQ_PRIERR_EN
  refuseAgents s ags

/-- HEAD has advanced: the agents that stalled for space translate afresh and raise their faults again, in order (R384). -/
def retryParked (s : State) : State :=
  let l := s.fq.parked.filter (fun a => decide (waitOf s a = .space))
  let s := { s with fq := { s.fq with parked := [], retrying := s.fq.retrying.filter (fun a => awaitsAts s a && !decide (a ∈ l)) ++ l } }
  recheckAll (l.foldl (fun z a => setWait z a (.ats ((missesOf z a).map Miss.page)) ((missesOf z a).map (fun m => { m with got := none }))) s)

/-- A write of FQ.CFG: the queue may be full under its new SIZE, and with EN clear the agents that wait for space are refused, since each
needs a record (R383, R384). DESIGN CHOICE: assumption 63. -/
def fqConfigured (s : State) : State :=
  let full := fqFull s
  let s := if full && !s.flag R.FQ_STAT F.FQ_STAT_FULL then
      closeBatch (fqEvent (s.setFlag R.FQ_STAT F.FQ_STAT_FULL true) F.FQ_STAT_QFULL_EV F.FQ_IRQ_QFULL_EN)
    else s.setFlag R.FQ_STAT F.FQ_STAT_FULL full
  if s.flag R.FQ_CFG F.FQ_CFG_EN then s
  else
    let l := s.fq.parked.filter (fun a => decide (waitOf s a = .space))
    refuseAgents { s with fq := { s.fq with parked := [] } } l

/-! ### Invalidations (R369–R372) -/

/-- PCIe tags of the reads and atomics outstanding to a virtual range. -/
def tagsIn (s : State) (a z : Nat) : List Nat :=
  let hit (h : HostReq) := decide (h.va % 2 ^ 57 < a + z) && decide (a < h.va % 2 ^ 57 + h.len) && decide (h.reply = .waiting)
  allThr.flatMap (fun t => (((s.thr t).host ++ (s.thr t).orphans).filter hit).map (·.tag)) ++
    (List.finRange 16).flatMap (fun e => (List.finRange 4).flatMap (fun q => (((s.slq e q).host ++ (s.slq e q).orphans).filter hit).map (·.tag)))

def tagOpen (s : State) (tag : Nat) : Bool :=
  let hit (h : HostReq) := decide (h.tag = tag) && decide (h.reply = .waiting)
  allThr.any (fun t => ((s.thr t).host ++ (s.thr t).orphans).any hit) || (List.finRange 16).any (fun e => (List.finRange 4).any (fun q => ((s.slq e q).host ++ (s.slq e q).orphans).any hit))

/-- Every entry and every copy is removed (R364, R374). -/
def flushRtt (s : State) : State :=
  { s with rtt := { s.rtt with entries := [], caches := Vector.replicate 28 [] }, rttBad := [] }

/-- RTT.CTRL.EN is cleared (R360, R364): requests that wait are dropped, and every shared virtual access that waits is refused at once. -/
def rttOff (s : State) : State := recheckAll (flushRtt (s.updRtt (fun r => { r with waiting := [] })))

/-! ### The translation-store window (R363, R365) -/

def entryWord (i : Nat) (e : Range) (w : Nat) : Nat :=
  match w with
  | 0 => 1 + boolNat e.r * 2 + boolNat e.w * 4 + boolNat e.untr * 8 + boolNat e.ns * 16 + boolNat e.global * 32 + e.age % 4 * 64
  | 1 => e.vstart
  | 2 => e.pages
  | 3 => e.pstart
  | 4 => e.fillTime.toNat
  | 5 => e.fills
  | _ => ofLe ((List.range 8).map (fun b => Config.rttIndexByte i (8 * w + b)))

/-- A byte of the translation store: zero in an invalid entry. -/
def tstoreByte (s : State) (a : Nat) : Byte :=
  let o := a - Config.tstoreBase
  match SMap.get none s.rtt.entries (o / 64) with
  | none => 0
  | some e => BitVec.ofNat 8 (entryWord (o / 64) e (o % 64 / 8) / 2 ^ (8 * (o % 8)))

/-- A read through the window; an entry that fails parity is removed first (R570). -/
def tstoreRead (s : State) (a n : Nat) : State × List Byte :=
  let ids := ((List.range n).map (fun i => (a + i - Config.tstoreBase) / 64)).eraseDups
  let s := ids.foldl (fun z i => (rttParity z i).1) s
  (s, (List.range n).map (fun i => tstoreByte s (a + i)))

/-- A write that clears VALID of a valid entry removes it; every other write is ignored (R365). -/
def tstoreWrite (s : State) (a : Nat) (data : List Byte) : State :=
  ((List.range data.length).filter (fun i => decide ((a + i - Config.tstoreBase) % 64 = 0) && !(data.getD i 0).getLsbD 0)).foldl
    (fun z i =>
      let k := (a + i - Config.tstoreBase) / 64
      if (SMap.get none z.rtt.entries k).isSome then dropEntry z k else z) s

end Sys2Proof.Machine
end

