-- ==== Sys2Proof/Machine/Clock.lean ====
section
/-! DEFINITION. Time (R13, R15, R43), BEAT_DONE (R21, R22), stretch requests (R24, R29, R459) and beat markers (R41, R45, R458),
as every unit uses them. -/

namespace Sys2Proof.Machine
open Sys2Proof

/-! ### Time passes -/

/-- Adds `n` ns to a register of ns while its condition holds. -/
def timeIn (n : Nat) (cond : Bool) (off : Nat) (s : State) : State := if cond then s.bump off n else s

/-- A queue of Sluice engine `e` is stalled on translation or queue space: QSTAT.STATE 4 (R359, R384, R420). -/
def engineStalled (s : State) (e : EngineId) : Bool :=
  (List.finRange 4).any (fun q => decide (s.fld (R.SLUICE_QSTAT e q) F.SLUICE_QSTAT_STATE = 4))

/-- The sparing copy of stack `k` goes on for `n` ns: at COPYPCT percent of the cycles a granule takes 583 / COPYPCT ns, which makes
the 110 ms that R345 gives for 25 %. Its end is a command's. DESIGN CHOICE: assumption 57. -/
def spareCopy (n : Nat) (s : State) (k : StackId) : State :=
  let x := s.stack k
  if x.sparing.isNone || decide (1 < s.fld (R.MEM_STAT k) F.MEM_STAT_STATE) then s
  else
    let f := x.spareFrac + n * s.fld (R.MEM_SPARE k) F.MEM_SPARE_COPYPCT
    (s.setFld (R.MEM_SPARE k) F.MEM_SPARE_PTR
      (min (s.fld (R.MEM_SPARE k) F.MEM_SPARE_PTR + f / 583) (Config.granulesPerPch - 1))).setStack k { x with spareFrac := f % 583 }

/-- The move of a session's 128 bytes has taken its 200 ns (R510). DESIGN CHOICE: assumption 84. -/
def endMove (s : State) : State :=
  match s.sess.busyUntil with
  | some t => if s.now.toNat < t.toNat then s
      else { s.setFlag R.SESS_CMD F.SESS_CMD_BUSY false with sess := { s.sess with busyUntil := none } }
  | none => s

/-- `n` ns of the timebase clock pass: BEAT.TIMEBASE at the servo's rate (R43), the core clocks' cycles (R1, R99), and the
counters of time (R355, R420, R606). DESIGN CHOICE: assumption 2. -/
def elapse (s : State) (n : Nat) : State :=
  let f := s.beat.frac + (n * (10 ^ 9 + s.beat.rate)).toNat
  let s := { s with beat := { s.beat with frac := f % 10 ^ 9 } }
  let s := s.setReg R.BEAT_TIMEBASE (s.now + BitVec.ofNat 64 (f / 10 ^ 9))
  let fc (q : Nat) := s.cycleFrac.toList.getD q 0 + n * s.fld (R.PWR_QFREQ q) F.PWR_QFREQ_FCUR
  let s := { s with cycles := Vector.ofFn (fun (q : Fin 4) => s.cycles[q] + fc q.val / 40),
                    cycleFrac := Vector.ofFn (fun (q : Fin 4) => fc q.val % 40) }
  let s := allStacks.foldl (fun z (k : StackId) => timeIn n (decide (2 ≤ z.fld (R.MEM_STAT k) F.MEM_STAT_TLEVEL)) (R.MEM_HOTNS k) z) s
  let s := allStacks.foldl (spareCopy n) s
  let s := (List.range 4).foldl (fun z q =>
    timeIn n (Nat.testBit (z.fld R.THERM_STAT F.THERM_STAT_THROT) q) (R.PWR_THROTNS q) z) s
  endMove ((List.finRange 16).foldl (fun z (e : EngineId) => timeIn n (engineStalled z e) (R.SLUICE_STALLNS e) z) s)

/-- What the block does when no command waits: one ns passes (assumption 2). DESIGN CHOICE: assumption 2. -/
def tick (s : State) : State := elapse s 1

/-- The ns of the timebase clock after which BEAT.TIMEBASE, at the servo's rate, has advanced by `n`. DESIGN CHOICE: assumption 12. -/
def clocksFor (s : State) (n : Nat) : Nat :=
  let r := max 1 (10 ^ 9 + s.beat.rate).toNat
  (n * 10 ^ 9 - s.beat.frac + r - 1) / r

/-- Time passes until BEAT.TIMEBASE reaches `t`, if it lies ahead. DESIGN CHOICE: assumption 12. -/
def elapseTo (s : State) (t : Word) : State := if s.now.toNat < t.toNat then elapse s (clocksFor s (t.toNat - s.now.toNat)) else s

/-- BEAT.TIMEBASE in 1/8 ns. -/
def time8 (s : State) : Word := BitVec.ofNat 64 (s.now.toNat * 8 + s.beat.frac * 8 / 10 ^ 9)

def State.setBeat (s : State) (f : Beat → Beat) : State := { s with beat := f s.beat }

/-! ### BEAT_DONE (R22) -/

/-- Thread `t` takes part in beats (R18). -/
def takesPart (s : State) (t : Thr) : Bool := s.flag (R.BEAT_TENTRY t) F.BEAT_TENTRY_EN

/-- The condition of R22. -/
def doneCond (s : State) : Bool :=
  allThr.all (fun t => !takesPart s t || bit (s.reg R.BEAT_TDONE) t.val) && decide (s.fld R.BEAT_EDONE F.BEAT_EDONE_EDONE = 0x1FFFF)

/-- BEAT_DONE is reached, once per beat; the work of a beat goes on when RUN is cleared (R17, R22). -/
def checkDone (s : State) : State :=
  if s.beat.begun && !s.flag R.BEAT_STAT F.BEAT_STAT_DONE && doneCond s then
    let s := s.setFlag R.BEAT_STAT F.BEAT_STAT_DONE true
    let s := if s.flag R.BEAT_IRQ F.BEAT_IRQ_DONE_EN then sendMsix s (s.fld R.BEAT_IRQ F.BEAT_IRQ_DONEVEC) else s
    raiseSource s 17
  else s

/-- An engine's bit of BEAT.EDONE is set when its last tagged descriptor of the beat completes (R21). -/
def setEdone (s : State) (i : Nat) : State := checkDone (s.setReg R.BEAT_EDONE (setBit (s.reg R.BEAT_EDONE) i true))

/-! ### Ports that carry markers (R435, R458) -/

/-- The ports on which markers travel: every live port, but of a bond the lower-numbered member that is live (R435, R458). -/
def markerPorts (s : State) : List Nat :=
  (List.range 16).filter (fun p => portLive s p && (s.link p).alive && !(bonded s p && p % 2 = 1 && (s.link (p - 1)).alive))

/-- Two port numbers name one port or one bond (R435). -/
def samePort (s : State) (p q : Nat) : Bool := decide (p = q) || (bonded s p && decide (mate p = q))

def isRoot (s : State) : Bool := decide (s.fld R.BEAT_CTRL F.BEAT_CTRL_SRC ≠ 2)
def parentPort (s : State) : Nat := s.fld R.BEAT_CTRL F.BEAT_CTRL_SRCPORT

/-- The port of the beat parent on which markers and stretch requests travel. -/
def parentLink (s : State) : Option Nat := (markerPorts s).find? (samePort s (parentPort s))

/-- BEAT.MARK.STRATUM as it reads: 0 on a root (R47). -/
def stratum (s : State) : Nat := if isRoot s then 0 else s.fld R.BEAT_MARK F.BEAT_MARK_STRATUM

/-- The 40 bytes of a marker in its flit's payload (R41). -/
def markerBytes (m : Marker) : List Byte :=
  leBytes 8 m.txTime.toNat ++ leBytes 8 m.number.toNat ++ leBytes 8 m.next.toNat ++ leBytes 8 m.echoRx.toNat ++ leBytes 2 m.echoSeq.toNat ++
    leBytes 2 m.seq.toNat ++ leBytes 2 (m.srcId.toNat + m.stratum.toNat * 4096) ++
    leBytes 2 (boolNat m.edge + boolNat m.grant * 2 + boolNat m.holdover * 4)

/-- A marker sent on port `p` (R41, R458): the echo names the last marker received there. Its flit has no sequence number. -/
def sendMarker (edge grant : Bool) (s : State) (p : Nat) : State :=
  match s.beat.ports[p]? with
  | none => s
  | some c =>
    let m : Marker :=
      { txTime := time8 s, number := s.beatNo, next := s.reg R.BEAT_NEXT, echoRx := c.rxTime, echoSeq := c.rxSeq, seq := c.txSeq,
        srcId := s.devId, stratum := BitVec.ofNat 4 (stratum s), edge := edge, grant := grant, holdover := s.beat.holdover }
    let c' := { c with txSeq := c.txSeq + 1, sent := SMap.set 0 c.sent c.txSeq.toNat m.txTime }
    putFlit ((s.setBeat (fun b => { b with ports := b.ports.set! p c' })).emit (.marker p m)) (linkAt s p) p 3 0 0 false false false false (markerBytes m)

/-- Markers on the given ports. -/
def sendMarkers (s : State) (edge grant : Bool) (ps : List Nat) : State := ps.foldl (sendMarker edge grant) s

/-- The ports toward children: every marker port but the parent's. -/
def childPorts (s : State) : List Nat :=
  (markerPorts s).filter (fun p => isRoot s || !samePort s (parentPort s) p)

/-! ### Stretch (R24, R25, R29) -/

/-- Q (R13). -/
def quantum (s : State) : Nat := s.fld R.BEAT_PERIOD F.BEAT_PERIOD_PERIOD * s.fld R.BEAT_STRETCH F.BEAT_STRETCH_QPCT / 100

/-- Quanta may still be granted for the pending edge (R25). -/
def quantaLeft (s : State) : Bool := decide (s.beat.quanta < s.fld R.BEAT_STRETCH F.BEAT_STRETCH_MAXQ)

/-- The number of the beat that the pending edge begins: NUMBER + 1, save at the first edge and after a marker that names another
beat. While RUN = 0 it is NUMBER + 1 too, or 0 before any RUN. DESIGN CHOICE: assumption 118. -/
def nextBeat (s : State) : Word := s.beat.first.getD (s.beatNo + 1)

/-- The root's decision instant for the pending edge (R29). -/
def decideAt (s : State) : Nat := (s.reg R.BEAT_NEXT).toNat - s.fld R.BEAT_GUARD F.BEAT_GUARD_DECIDE

/-- A stretch request of this device or of a device below it is held for the pending edge, merged with those held before, and
goes once to the parent (R24, R29). One that the root sees after its decision instant counts as late (R30). -/
def holdStretch (s : State) (first count : Nat) : State :=
  if !s.running || !s.beat.scheduled then s
  else if isRoot s && decide (decideAt s < s.now.toNat) then s.bump32 R.BEAT_LATECNT 1
  else
    match s.beat.held with
    | some h => s.setBeat (fun b => { b with held := some { h with count := min 4095 (h.count + count) } })
    | none =>
      let s := s.setBeat (fun b => { b with held := some ⟨first, min 4095 count⟩ })
      if isRoot s then s
      else match parentLink s with
        | some p => sendStretch s p (nextBeat s) first (min 4095 count)
        | none => s

/-- A stretch request of this device. -/
def requestStretch (s : State) : State := holdStretch s s.devId.toNat 1

/-- The pending edge falls at `t`, with its guard instant before it (R23). -/
def retimeEdge (s : State) (t : Word) : State :=
  let g := t - BitVec.ofNat 64 (s.fld R.BEAT_GUARD F.BEAT_GUARD_GUARD)
  (s.setReg R.BEAT_NEXT t).setBeat (fun b => { b with guardAt := g })

/-- The pending edge moves to `t`, with `q` more quanta and a guard instant before it (R25); the schedule is read again (R512). -/
def moveEdge (s : State) (t : Word) (q : Nat) : State :=
  { (retimeEdge s t).setBeat (fun b => { b with quanta := b.quanta + q, held := none }) with sess := { s.sess with fresh := false } }

/-- The first instant at which the pending edge is final: E − 100 ns (R31). -/
def finalAt (s : State) : Nat := (s.reg R.BEAT_NEXT).toNat - 100

end Sys2Proof.Machine
end

