-- ==== Sys2Proof/Machine/Mc.lean ====
section
/-! DEFINITION. The fault-merge table and the record ring of the MC (R573–R579), and the repair log (R582). -/

namespace Sys2Proof.Machine
open Sys2Proof

def State.updMc (s : State) (f : Mc → Mc) : State := { s with mc := f s.mc }

/-- The fault key of a report (R573). -/
def reportKey (r : Report) : Word :=
  BitVec.ofNat 64 (r.dev.toNat + r.index.toNat * 2 ^ 16 + r.kind.toNat * 2 ^ 28 + r.epoch.toNat * 2 ^ 32)

/-- The 32 bytes of a report (R574), and back. -/
def reportBytes (r : Report) : List Byte :=
  leBytes 8 (reportKey r).toNat ++ leBytes 8 r.time.toNat ++
    leBytes 8 (r.cls.toNat + boolNat r.repair * 4 + r.code.toNat * 2 ^ 8 + r.reporter.toNat * 2 ^ 16) ++ leBytes 8 r.detail.toNat

def reportOfBytes (b : List Byte) : Report :=
  let w (i : Nat) : Word := BitVec.ofNat 64 (ofLe ((b.drop (8 * i)).take 8))
  { dev := BitVec.ofNat 12 (field (w 0) 11 0), kind := BitVec.ofNat 4 (field (w 0) 31 28), index := BitVec.ofNat 12 (field (w 0) 27 16),
    epoch := BitVec.ofNat 16 (field (w 0) 47 32), time := w 1, cls := BitVec.ofNat 2 (field (w 2) 1 0), repair := bit (w 2) 2,
    code := BitVec.ofNat 8 (field (w 2) 15 8), reporter := BitVec.ofNat 12 (field (w 2) 27 16), detail := w 3 }

/-! ### The record ring (R579) -/

def errSize (s : State) : Nat := s.fld R.MC_ERRCFG F.MC_ERRCFG_SIZE
def errTail (s : State) : Nat := s.fld R.MC_ERRTAIL F.MC_ERRTAIL_INDEX
def errUsed (s : State) : Nat := (errTail s + 2 ^ 32 - s.fld R.MC_ERRHEAD F.MC_ERRHEAD_INDEX) % 2 ^ 32
def errRoom (s : State) : Bool := s.flag R.MC_ERRCFG F.MC_ERRCFG_EN && decide (errUsed s < 2 ^ errSize s)

/-- The 64 bytes of record index `x`. -/
def recordBytes (r : ErrRec) (size x : Nat) : List Byte :=
  leBytes 8 (boolNat (ringPhase size x) + r.cls.toNat * 2 + boolNat r.unmerged * 8 + boolNat r.repair * 16 + r.code.toNat * 2 ^ 8 +
    r.entry * 2 ^ 16 + x * 2 ^ 32) ++
  leBytes 8 r.key.toNat ++ leBytes 8 r.firstTime.toNat ++ leBytes 8 r.beat.toNat ++ leBytes 8 (r.firstDev.toNat + r.count * 2 ^ 32) ++
  leBytes 8 r.nrep ++ leBytes 8 r.detail.toNat ++ leBytes 8 0

def writeRecord (s : State) (r : ErrRec) : State :=
  let x := errTail s
  let s := memWrite s .mc (ringSlot (s.fld R.MC_ERRBASE F.MC_ERRBASE_ADDR * 64) (errSize s) x) (recordBytes r (errSize s) x)
  let s := mcEvent ((s.bump32 R.MC_ERRTAIL 1).bump R.MC_RECORDS 1) 0
  if r.unmerged then mcEvent s 2 else s

def setRfull (s : State) : State := s.setFlag R.MC_FMSTAT F.MC_FMSTAT_RFULL (decide (s.mc.waiting ≠ []))

/-- Waiting records are written, in order, while the ring has room; RFULL shows whether some wait on. -/
def drainRecords (s : State) : State :=
  setRfull <| s.mc.waiting.foldl (fun z r =>
    if errRoom z && decide (z.mc.waiting.head? = some r) then writeRecord (z.updMc (fun m => { m with waiting := m.waiting.drop 1 })) r
    else z) s

/-- A record joins those that wait, and is written at once if the ring has room. -/
def putRecord (s : State) (r : ErrRec) : State := drainRecords (s.updMc (fun m => { m with waiting := m.waiting ++ [r] }))

/-! ### The fault-merge table (R576–R578) -/

def mergeAt (s : State) (e : Nat) : Option Merge := SMap.get none s.mc.table e
def setMerge (s : State) (e : Nat) (m : Option Merge) : State :=
  let s := s.updMc (fun x => { x with table := SMap.set none x.table e m })
  s.setFld R.MC_FMSTAT F.MC_FMSTAT_USED s.mc.table.length

/-- The record of entry `e` as it stands. -/
def recordOf (e : Nat) (m : Merge) : ErrRec :=
  { cls := m.cls, unmerged := false, repair := m.repair, code := m.code, entry := e, key := m.key, firstTime := m.firstTime, beat := m.beat,
    firstDev := m.firstDev, count := m.count, nrep := popCountAux 4096 m.map.toNat, detail := m.detail }

/-- The record of an entry is written once. -/
def deliverEntry (s : State) (e : Nat) : State :=
  match mergeAt s e with
  | some m => if m.delivered then s else putRecord (setMerge s e (some { m with delivered := true })) (recordOf e m)
  | none => s

/-- The entry is of a class or count that is written at once (R577). DEDUCED: assumption 99. -/
def dueNow (s : State) (m : Merge) : Bool :=
  let t := s.fld R.MC_ERRCFG F.MC_ERRCFG_CETHRESH
  decide (m.cls = 3) || (decide (m.cls = 0) && decide (t ≠ 0) && decide (t ≤ m.count))

def deliverIfDue (s : State) (e : Nat) : State :=
  match mergeAt s e with
  | some m => if dueNow s m then deliverEntry s e else s
  | none => s

/-- The lowest entry that is free. -/
def freeEntry (s : State) : Option Nat := (List.range 256).find? (fun e => (mergeAt s e).isNone)

/-- One report is merged (R576). -/
def mergeReport (s : State) (r : Report) : State :=
  let k := reportKey r
  let me : BitVec 4096 := BitVec.ofNat 4096 (2 ^ r.reporter.toNat)
  match s.mc.table.findSome? (fun e => match e.2 with | some m => if m.key = k then some (e.1, m) else none | none => none) with
  | some (e, m) =>
    let m' := { m with count := satAdd m.count 1 4294967295, map := m.map ||| me, cls := if m.cls.toNat < r.cls.toNat then r.cls else m.cls,
                       repair := m.repair || r.repair }
    deliverIfDue (setMerge (s.bump R.MC_REPORTS 1) e (some m')) e
  | none =>
    match freeEntry s with
    | some e =>
      let m : Merge := { key := k, cls := r.cls, code := r.code, repair := r.repair, detail := r.detail, firstDev := r.reporter,
                         firstTime := r.time, beat := s.beatNo, count := 1, map := me, delivered := false, opened := s.now }
      deliverIfDue (setMerge (s.bump R.MC_REPORTS 1) e (some m)) e
    | none =>
      let rec' : ErrRec := { cls := r.cls, unmerged := true, repair := r.repair, code := r.code, entry := 0, key := k, firstTime := r.time,
                             beat := s.beatNo, firstDev := r.reporter, count := 1, nrep := 1, detail := r.detail }
      putRecord (s.bump R.MC_FMOVF 1) rec'

/-- Where a report goes (R575): into the device's own table, or to the collector as one PUT. -/
def placeReport (s : State) (r : Report) : State :=
  let cfg := s.reg R.MC_FMCFG
  let coll := BitVec.ofNat 12 (getF cfg F.MC_FMCFG_COLLECTOR)
  if r.cls = 0 ∨ getF cfg F.MC_FMCFG_COLL_EN = 0 ∨ coll = s.devId then mergeReport s r
  else
    let x := s.fab.nextXid
    let s := s.updFab (fun f => { f with nextXid := x + 1, reqs := f.reqs ++ [{ xid := x, owner := .collector r, dst := coll, run := 0, sentAt := s.now }] })
    sendMsg s (ownMsg s MK.PUT (BitVec.ofNat 16 (getF cfg F.MC_FMCFG_CHAN)) coll x 32 (reportBytes r)) 1 false

/-! ### The repair log (R582) -/

def State.setLog (s : State) (l : List LogEntry) : State :=
  ({ s with flash := { s.flash with log := l } }).setFld R.MC_REPLOG F.MC_REPLOG_USED l.length

/-- An entry is appended after a repair made through the MEM registers; a full log loses it. -/
def logRepair (s : State) (e : LogEntry) : State :=
  if s.flash.log.length < 1024 then s.setLog (s.flash.log ++ [e]) else s.setFlag R.MC_FMSTAT F.MC_FMSTAT_LOGLOST true

end Sys2Proof.Machine
end

