-- ==== Sys2Proof/Machine/Power.lean ====
section
/-! DEFINITION. Power, clocks, thermal limits and monitors (18_power_thermal.md). -/

namespace Sys2Proof.Machine
open Sys2Proof

def State.updPower (s : State) (f : Power → Power) : State := { s with power := f s.power }

/-- THERMTRIP_L is asserted: the clocks stop, and flash keeps the cause, 1 die or 2 stack, and its index (R603). DESIGN CHOICE: assumption 91. -/
def thermTrip (s : State) (kind idx : Nat) : State :=
  if s.power.tripped then s
  else
    let s := { s.updPower (fun p => { p with tripped := true }) with flash := { s.flash with trip := (kind, idx) } }
    s.emit (.pin .thermtrip false)

/-! ### Quadrant frequency and voltage (R593, R594) -/

def quadNo (q : Nat) : Fin 4 := ⟨q % 4, Nat.mod_lt _ (by decide)⟩
/-- The points of PWR.VFT: frequency and minimum voltage. DESIGN CHOICE: assumption 10. -/
def vft (s : State) : List (Nat × Nat) :=
  (List.range 8).map (fun i => (s.fld (R.PWR_VFT i) F.PWR_VFT_FREQ, s.fld (R.PWR_VFT i) F.PWR_VFT_VMIN))

/-- The voltage for frequency `f` on the segments of `ps`, rounded up to 5 mV. -/
def vInterp (f : Nat) : List (Nat × Nat) → Nat
  | [] => 850
  | [p] => (p.2 + 4) / 5 * 5
  | p :: q :: ps =>
    if f ≤ p.1 then (p.2 + 4) / 5 * 5
    else if f ≤ q.1 then
      let d := q.1 - p.1
      let n := p.2 * d + (q.2 - p.2) * (f - p.1)
      (n + 5 * d - 1) / (5 * d) * 5
    else vInterp f (q :: ps)

def vMin (s : State) (f : Nat) : Nat := vInterp f (vft s)

/-- The voltage of a rail at time `t`, which slews at 20 mV/µs. DESIGN CHOICE: assumption 108. -/
def railAt (r : Ramp) (t : Nat) : Nat :=
  let moved := (t - r.start.toNat) * 20 / 1000
  if r.src ≤ r.dst then min r.dst (r.src + moved) else max r.dst (r.src - moved)

/-- The frame that sets rail `q` to `mv` mV: SYNC, RAIL, CMD 1, MV, and the CRC-8 over bits [31:8], most significant first (R616). -/
def setFrame (q mv : Nat) : BitVec 32 :=
  let b (n : Nat) : Byte := BitVec.ofNat 8 n
  let bs := [b (0xA0 + q % 16), b (0x10 + mv / 256 % 16), b mv]
  BitVec.ofNat 32 (ofLe (bs.reverse) * 256 + crc 8 0x07 0 false false 0 bs)

/-- A SET of the rail of quadrant `q` (R594, R616). A SET that the regulator does not acknowledge is sent four times in all, and
the rail stays. DESIGN CHOICE: assumption 109. -/
def setRail (s : State) (q mv : Nat) (ack : Bool := true) : State :=
  if s.fld (R.PWR_QFREQ q) F.PWR_QFREQ_VCUR = mv then s
  else if !ack then (List.replicate 4 ()).foldl (fun z _ => z.emit (.voltage (setFrame q mv))) s
  else
    let r := s.power.rails[quadNo q]
    let s := s.updPower (fun p => { p with rails := p.rails.set (quadNo q) { src := railAt r s.now.toNat, dst := mv, start := s.now } })
    (s.setFld (R.PWR_QFREQ q) F.PWR_QFREQ_VCUR mv).emit (.voltage (setFrame q mv))

def quadLevel (s : State) (q : Nat) : Nat := s.fld R.THERM_STAT ⟨2 * q + 1, 2 * q⟩
def stepUp (s : State) : Nat := s.fld R.PWR_CTRL F.PWR_CTRL_STEPUP
def stepDn (s : State) : Nat := s.fld R.PWR_CTRL F.PWR_CTRL_STEPDN

/-- The thermal limit that the next edge brings (R600). -/
def thermNext (s : State) (q : Nat) : Nat :=
  let l := s.power.thermLim[quadNo q]
  match quadLevel s q with
  | 0 => min 84 (l + stepUp s)
  | 2 => max 32 (l - stepDn s)
  | _ => l

/-- The frequency that the three limits allow, and the code of the one that governs (R593). -/
def limited (fmax cap therm : Nat) : Nat × Nat :=
  if fmax ≤ cap ∧ fmax ≤ therm then (fmax, 1) else if cap ≤ therm then (cap, 2) else (therm, 3)

/-- A rise toward frequency `f` starts its voltage. DESIGN CHOICE: assumption 76. -/
def startRise (s : State) (q f : Nat) (ack : Bool := true) : State :=
  if s.fld (R.PWR_QFREQ q) F.PWR_QFREQ_FCUR < f ∧ s.fld (R.PWR_QFREQ q) F.PWR_QFREQ_VCUR < vMin s f then setRail s q (vMin s f) ack else s

/-- The switch of quadrant `q` at the edge (R592–R594, R600, R601). Whether the regulator acknowledges a fall is a free value; where it does
not, the voltage stays above its target (R616). DESIGN CHOICE: assumption 108. -/
def switchQuad (s : State) (q : Nat) : State :=
  let s := s.updPower (fun p => { p with thermLim := p.thermLim.set (quadNo q) (thermNext s q) })
  let fmax := s.fld (R.PWR_QFREQ q) F.PWR_QFREQ_FMAX
  let cur := s.fld (R.PWR_QFREQ q) F.PWR_QFREQ_FCUR
  let (f, lim) := limited fmax s.power.capLim (s.power.thermLim[quadNo q])
  let s := s.setFld (R.PWR_QFREQ q) F.PWR_QFREQ_LIM lim
  let s :=
    if cur < f then
      -- a voltage that had not reached its target by E − 100 ns keeps the frequency
      if vMin s f ≤ railAt (s.power.rails[quadNo q]) (s.now.toNat - 100) then s.setFld (R.PWR_QFREQ q) F.PWR_QFREQ_FCUR f else s
    else if f < cur then
      let (s, w) := s.freeWord
      setRail (s.setFld (R.PWR_QFREQ q) F.PWR_QFREQ_FCUR f) q (vMin s f) (bit w 0)
    else s
  if quadLevel s q ≠ 3 ∧ !s.power.overAmps[quadNo q] then s.setFld R.THERM_STAT ⟨8 + q, 8 + q⟩ 0 else s

def switchQuads (s : State) : State :=
  (List.range 4).foldl switchQuad (s.updPower (fun p => { p with capLim := if s.flag R.PWR_CTRL F.PWR_CTRL_CAPEN then p.capNext else 84 }))

/-! ### Energy and the cap (R596, R598, R599) -/

def energySum (s : State) (regs : List Nat) (shadow : Bool) : Nat :=
  (regs.map (fun r => (s.reg (if shadow then R.PWR_SH_ENERGY r else R.PWR_ENERGY r)).toNat)).sum

/-- Energy of rails `rs` since the edge, in µJ: their counters less the shadows that the edge took. -/
def sinceEdge (s : State) (rs : List Nat) : Nat := energySum s rs false - energySum s rs true

/-- The ns since the edge that began this beat. -/
def beatTime (s : State) : Nat := s.now.toNat - (s.reg R.BEAT_EDGE).toNat

/-- The evaluation at a guard instant (R598): the next cap limit, and whether a stretch request is raised. -/
def capAtGuard (s : State) : State × Bool :=
  if !s.flag R.PWR_CTRL F.PWR_CTRL_CAPEN then (s, false)
  else
    let e := 1000 * sinceEdge s (List.range 12)
    let cap := s.fld R.PWR_CTRL F.PWR_CTRL_CAP
    let hyst := s.fld R.PWR_CTRL F.PWR_CTRL_HYST
    let dt := beatTime s
    let above := decide (cap * dt < e)
    if s.flag R.PWR_CTRL F.PWR_CTRL_MODE then (s.updPower (fun p => { p with capNext := p.capLim }), above)
    else
      let l := s.power.capLim
      let n := if above then max 32 (l - stepDn s) else if e ≤ (cap - hyst) * dt ∧ hyst ≤ cap then min 84 (l + stepUp s) else l
      (s.updPower (fun p => { p with capNext := n }), false)

/-- PWR.BEAT over the beat just ended (R599). -/
def powerOfBeat (s : State) : State :=
  let dt := beatTime s
  if dt = 0 then s
  else
    let e := 1000 * sinceEdge s (List.range 12)
    let c := 1000 * sinceEdge s (List.range 4)
    let cap := s.fld R.PWR_CTRL F.PWR_CTRL_CAP
    s.setReg R.PWR_BEAT (BitVec.ofNat 64 (min 65535 (e / dt) + min 65535 (c / dt) * 2 ^ 16 + boolNat (decide (cap * dt < e)) * 2 ^ 32))

/-- A quadrant begins to be throttled (R601). -/
def beginThrottle (s : State) (q : Nat) : State :=
  if s.fld R.THERM_STAT ⟨8 + q, 8 + q⟩ = 1 then s else thermEvent (s.setFld R.THERM_STAT ⟨8 + q, 8 + q⟩ 1) 3

/-- The energy of each rail in the last µs, in µJ, and each core rail's current averaged over 2 µs, in A (R596, R601). -/
def energyStep (s : State) (uj amps : List Nat) : State :=
  let s := (List.range 12).foldl (fun z r => z.bump (R.PWR_ENERGY r) (uj.getD r 0)) s
  (List.range 4).foldl (fun z q =>
    let a := amps.getD q 0
    let lim := z.fld (R.PWR_ILIM q) F.PWR_ILIM_AMPS
    if lim < a then beginThrottle (z.updPower (fun p => { p with overAmps := p.overAmps.set (quadNo q) true })) q
    else if a * 10 < lim * 9 then z.updPower (fun p => { p with overAmps := p.overAmps.set (quadNo q) false })
    else z) s

/-! ### Thermal levels of the die (R600, R602, R603) -/

/-- The level that follows `l` at temperature `t`, for thresholds Warm, Hot and Critical. DESIGN CHOICE: assumption 107. -/
def dieLevel (w h c l t : Nat) : Nat :=
  let below := if t + 12 ≤ h then (if t + 12 ≤ w then 0 else 1) else 2
  if c ≤ t then 3
  else match l with
    | 0 => if h ≤ t then 2 else if w ≤ t then 1 else 0
    | 1 => if h ≤ t then 2 else if t + 12 ≤ w then 0 else 1
    | 2 => below
    | _ => if t < h then below else 3

/-- A reading of sensor `i`; none fails its self-check. -/
def sensorStep (s : State) (i : Nat) (t : Option (BitVec 10)) : State :=
  let r := R.MON_DIETEMP i
  match t with
  | none => s.setFld r F.MON_DIETEMP_FAIL 1
  | some x =>
    let s := s.setFld r F.MON_DIETEMP_TEMP x.toNat
    if 600 < x.toNat then s.setFld r F.MON_DIETEMP_FAIL 1
    else (s.setFld r F.MON_DIETEMP_FAIL 0).setFld r F.MON_DIETEMP_MAX (max x.toNat (s.fld r F.MON_DIETEMP_MAX))

/-- Quadrant `q` after its sensors were read. DESIGN CHOICE: assumption 107. -/
def quadStep (s : State) (q : Nat) : State :=
  let ids := (List.range 40).map (fun k => 40 * q + k)
  let good := ids.filter (fun i => !s.flag (R.MON_DIETEMP i) F.MON_DIETEMP_FAIL)
  let s := if good = [] then s
    else s.setFld (R.MON_QTEMP q) F.MON_QTEMP_TEMP ((good.map (fun i => s.fld (R.MON_DIETEMP i) F.MON_DIETEMP_TEMP)).foldl max 0)
  let old := quadLevel s q
  let held := decide (4 < ids.length - good.length)
  let new := if held then 2
    else dieLevel (s.fld R.THERM_CFG F.THERM_CFG_DWARM) (s.fld R.THERM_CFG F.THERM_CFG_DHOT) (s.fld R.THERM_CFG F.THERM_CFG_DCRIT) old
      (s.fld (R.MON_QTEMP q) F.MON_QTEMP_TEMP)
  let was := s.fld R.THERM_STAT ⟨12 + q, 12 + q⟩
  let s := s.setFld R.THERM_STAT ⟨12 + q, 12 + q⟩ (boolNat held)
  let s := if held && decide (was = 0) then thermEvent s 5 else s
  let s := s.setFld R.THERM_STAT ⟨2 * q + 1, 2 * q⟩ new
  let s := if old < new then thermEvent s (new - 1) else s
  if new = 3 then beginThrottle s q else s

/-- One sample of the 160 die sensors. -/
def dieSample (s : State) (temps : List (Option (BitVec 10))) : State :=
  let s := (List.range 160).foldl (fun z i => sensorStep z i (temps.getD i none)) s
  let s := (List.range 4).foldl quadStep s
  match (List.range 160).find? (fun i => !s.flag (R.MON_DIETEMP i) F.MON_DIETEMP_FAIL && decide (460 ≤ s.fld (R.MON_DIETEMP i) F.MON_DIETEMP_TEMP)) with
  | some i => thermTrip s 1 i
  | none => s

/-! ### Voltage and process monitors (R595, R597, R605) -/

/-- The requested voltage of rail `r` in mV and its tolerance in percent. -/
def railSpec (s : State) (r : Nat) : Nat × Nat :=
  if r < 4 then (s.fld (R.PWR_QFREQ r) F.PWR_QFREQ_VCUR, 3)
  else [(750, 3), (750, 3), (1050, 3), (700, 2), (1800, 5), (900, 3), (3300, 5), (800, 3)].getD (r - 4) (0, 100)

/-- A reading `v` of 0.25 mV units lies outside the tolerance. -/
def outside (v mv tol : Nat) : Bool :=
  decide ((4 * mv) * (100 + tol) < v * 100) || decide (v * 100 < (4 * mv) * (100 - tol))

def voltStep (s : State) (j v : Nat) : State :=
  let r := R.MON_VOLT j
  let s := s.setFld r F.MON_VOLT_V v
  let s := s.setFld r F.MON_VOLT_MIN (min v (s.fld r F.MON_VOLT_MIN))
  let s := s.setFld r F.MON_VOLT_MAX (max v (s.fld r F.MON_VOLT_MAX))
  let (mv, tol) := railSpec s (s.fld r F.MON_VOLT_RAIL)
  if outside v mv tol then thermEvent (s.bump R.MON_VEXCCNT 1) 4 else s

def monitorStep (s : State) (mv : List (BitVec 16)) (proc : List (BitVec 24)) : State :=
  let s := (List.range 96).foldl (fun z j => match mv[j]? with | some v => voltStep z j v.toNat | none => z) s
  (List.range 48).foldl (fun z k => match proc[k]? with | some c => z.setFld (R.MON_PROC k) F.MON_PROC_COUNT c.toNat | none => z) s

end Sys2Proof.Machine
end

