-- ==== Sys2Proof/Machine/Commit.lean ====
section
/-! DEFINITION. Writes of values: the limits that registers put on them, the staging banks and the checks of a commit group
(R12, R14, R15, R33, R35–R38, R330, R455, R588, R594, R606, R627). -/

namespace Sys2Proof.Machine
open Sys2Proof

/-! ### Fields that accept a range -/

/-- What a field does with a value outside its range: it takes the bound, or stays unchanged. -/
inductive Clamp where
  | atLeast (lo : Nat)
  | atMost (hi : Nat)
  | within (lo hi : Nat)
  | keep (lo hi : Nat)
  deriving DecidableEq, Repr

/-- The fields whose Notes say "a write below … sets …" or "leaves the field unchanged", by the first offset of their register. -/
def clampTable : List (Nat × Fld × Clamp) :=
  [(R.FQ_TROUTE 0, F.FQ_TROUTE_THREAD, .keep 0 47), (R.FQ_TROUTE 0, F.FQ_TROUTE_LINE, .keep 0 23),
   (R.SPINDLE_PANCFG 0, F.SPINDLE_PANCFG_SCRUBINT, .atLeast 16), (R.SPINDLE_L1DSEED 0, F.SPINDLE_L1DSEED_STATE, .keep 1 65535),
   (R.SPINDLE_L1ISEED 0, F.SPINDLE_L1ISEED_STATE, .keep 1 65535), (R.MEM_WCCFG 0, F.MEM_WCCFG_AGE, .atLeast 100),
   (R.MEM_WCCFG 0, F.MEM_WCCFG_HIWM, .atLeast 64), (R.MEM_SCRUB 0, F.MEM_SCRUB_SCRUBINT, .atLeast 8),
   (R.MEM_SPARE 0, F.MEM_SPARE_COPYPCT, .within 1 100)] ++
  [(R.RTT_CFG, F.RTT_CFG_AHEAD, .within 1 8), (R.RTT_CFG, F.RTT_CFG_MAXREQ, .within 1 256), (R.FQ_CFG, F.FQ_CFG_SIZE, .keep 6 16),
   (R.FQ_CFG, F.FQ_CFG_WINDOW, .atLeast 1000), (R.FQ_CFG, F.FQ_CFG_BMAX, .within 1 512), (R.FQ_PRICFG, F.FQ_PRICFG_TIMEOUT, .atLeast 1),
   (R.FQ_PRICFG, F.FQ_PRICFG_MAXB, .within 1 8), (R.SLUICE_CHKCFG 0, F.SLUICE_CHKCFG_WIDTH, .keep 1 64),
   (R.SLUICE_QCFG 0 0, F.SLUICE_QCFG_SIZE, .keep 4 16), (R.GCTL_FABCFG, F.GCTL_FABCFG_MSGTO, .atLeast 1)] ++
  [(R.GCTL_FABCFG, F.GCTL_FABCFG_HOPMAX, .atLeast 1), (R.HANK_RETRY 0, F.HANK_RETRY_REPLAYTO, .atLeast 100),
   (R.HANK_RETRY 0, F.HANK_RETRY_RETRYMAX, .atLeast 1), (R.SESS_CFG, F.SESS_CFG_MAXROWS, .within 1 256),
   (R.SESS_SCHCFG, F.SESS_SCHCFG_SIZE, .keep 4 12), (R.MC_ERRCFG, F.MC_ERRCFG_SIZE, .keep 6 16), (R.MC_FMCFG, F.MC_FMCFG_WINDOW, .atLeast 1),
   (R.PWR_ILIM 0, F.PWR_ILIM_AMPS, .atMost 1200)]

def clampValue (c : Clamp) (old new : Nat) : Nat :=
  match c with
  | .atLeast lo => max lo new
  | .atMost hi => min hi new
  | .within lo hi => min hi (max lo new)
  | .keep lo hi => if lo ≤ new ∧ new ≤ hi then new else old

/-- The value that a register takes when a write would make it `new`. -/
def clampReg (off : Nat) (old new : Word) : Word :=
  match regDesc off with
  | none => new
  | some d =>
    if d.base = R.THERM_CFG then
      (if getF new F.THERM_CFG_DWARM ≤ getF new F.THERM_CFG_DHOT ∧ getF new F.THERM_CFG_DHOT ≤ getF new F.THERM_CFG_DCRIT ∧
          getF new F.THERM_CFG_DCRIT ≤ 440 then new else old)
    else (clampTable.filter (fun e => decide (e.1 = d.base))).foldl (fun w e => putF w e.2.1 (clampValue e.2.2 (getF old e.2.1) (getF w e.2.1))) new

/-! ### Checks (R36) -/

/-- A failed check: the registers it names, and its reason: 1 RANGE, 2 LATE, 3 CONSTRAINT. -/
structure Failed where
  names : List Nat
  reason : Nat
  deriving DecidableEq, Repr

def outsideOf (v lo hi : Nat) : Bool := decide (v < lo ∨ hi < v)

/-- The ranges and reserved encodings of the staged fields of the register at `off`, for the value `w`. -/
def badRange (off : Nat) (w : Word) : Bool :=
  match regDesc off with
  | none => false
  | some d =>
    if d.base = R.BEAT_CTRL then decide (getF w F.BEAT_CTRL_SRC = 3)
    else if d.base = R.BEAT_PERIOD then outsideOf (getF w F.BEAT_PERIOD_PERIOD) 10000 20000000
    else if d.base = R.BEAT_STRETCH then outsideOf (getF w F.BEAT_STRETCH_QPCT) 1 25 || decide (4 < getF w F.BEAT_STRETCH_MAXQ)
    else if d.base = R.GCTL_MREGION 0 then
      decide (getF w F.GCTL_MREGION_EN ≠ 0) &&
        decide (getF w F.GCTL_MREGION_LIMIT ≤ getF w F.GCTL_MREGION_BASE ∨ 36864 < getF w F.GCTL_MREGION_LIMIT)
    else if d.base = R.PWR_CTRL then
      decide (getF w F.PWR_CTRL_CAP < 1000 ∨ getF w F.PWR_CTRL_STEPDN = 0 ∨ getF w F.PWR_CTRL_STEPUP = 0)
    else if d.base = R.PWR_QFREQ 0 then outsideOf (getF w F.PWR_QFREQ_FMAX) 32 84
    else false

/-- R588: a swap to a slot that is not verified or that runs. -/
def badSwap (s : State) (w : Word) : Bool :=
  decide (getF w F.MC_FWSWAP_REQ ≠ 0) &&
    (!Nat.testBit (s.fld R.MC_FWSTAT F.MC_FWSTAT_SLOTOK) (getF w F.MC_FWSWAP_SLOT) ||
      decide (getF w F.MC_FWSWAP_SLOT = s.fld R.MC_FWSTAT F.MC_FWSTAT_RUNSLOT))

/-- The checks on the value of one register (R627). -/
def regFails (s : State) (off : Nat) (w : Word) : List Failed :=
  (if badRange off w then [⟨[off], 1⟩] else []) ++
  (if off = R.MC_FWSWAP ∧ badSwap s w then [⟨[R.MC_FWSWAP, R.MC_FWSTAT], 3⟩] else [])

/-- R33, on the values that `v` gives. -/
def stretchFails (v : Nat → Word) : List Failed :=
  let period := getF (v R.BEAT_PERIOD) F.BEAT_PERIOD_PERIOD
  let q := period * getF (v R.BEAT_STRETCH) F.BEAT_STRETCH_QPCT / 100
  let guard' := getF (v R.BEAT_GUARD) F.BEAT_GUARD_GUARD
  (if getF (v R.BEAT_CTRL) F.BEAT_CTRL_POLICY = 0 ∧ 0 < getF (v R.BEAT_STRETCH) F.BEAT_STRETCH_MAXQ ∧ q < guard' then
    [⟨[R.BEAT_CTRL, R.BEAT_PERIOD, R.BEAT_STRETCH, R.BEAT_GUARD], 3⟩] else []) ++
  (if guard' ≤ getF (v R.BEAT_GUARD) F.BEAT_GUARD_DECIDE then [⟨[R.BEAT_GUARD], 3⟩] else []) ++
  (if period ≤ 2 * guard' then [⟨[R.BEAT_PERIOD, R.BEAT_GUARD], 3⟩] else [])

/-- The overlap rule of R330. -/
def overlapFails (v : Nat → Word) : List Failed :=
  (List.range 16).flatMap (fun i => (List.range 16).filterMap (fun j =>
    let a := v (R.GCTL_MREGION i)
    let b := v (R.GCTL_MREGION j)
    if i < j ∧ getF a F.GCTL_MREGION_EN ≠ 0 ∧ getF b F.GCTL_MREGION_EN ≠ 0 ∧
        getF a F.GCTL_MREGION_BASE < getF b F.GCTL_MREGION_LIMIT ∧ getF b F.GCTL_MREGION_BASE < getF a F.GCTL_MREGION_LIMIT then
      some ⟨[R.GCTL_MREGION i, R.GCTL_MREGION j], 3⟩ else none))

/-- The epoch rule of R455. -/
def epochFails (s : State) (v : Nat → Word) : List Failed :=
  let changed := (List.range 64).any (fun i => decide (v (R.GCTL_MEMBER i) ≠ s.reg (R.GCTL_MEMBER i)))
  let e := getF (v R.GCTL_EPOCH) F.GCTL_EPOCH_EPOCH
  let live := s.fld R.GCTL_EPOCH F.GCTL_EPOCH_EPOCH
  if (changed ∧ e ≠ (live + 1) % 65536) ∨ (!changed ∧ e ≠ live) then
    [⟨R.GCTL_EPOCH :: (List.range 64).map (fun i => R.GCTL_MEMBER i), 3⟩] else []

/-- FAILOFF and REASON for the failed checks (R36). -/
def failOf (fs : List Failed) : Option (Nat × Nat) :=
  match (fs.flatMap (·.names)) with
  | [] => none
  | n :: ns =>
    let off := ns.foldl min n
    some (off, ((fs.filter (fun f => decide (off ∈ f.names))).map (·.reason)).foldl min 3)

def rejectGroup (s : State) (off reason : Nat) : State :=
  let s := (s.setFld R.BEAT_CG_STAT F.BEAT_CG_STAT_STATE 3).setFld R.BEAT_CG_STAT F.BEAT_CG_STAT_REASON reason
  s.setFld R.BEAT_CG_STAT F.BEAT_CG_STAT_FAILOFF off

/-! ### Banks (R35–R38) -/

/-- The bits of the staged fields of the register at `off`. -/
def stagedMask (off : Nat) : Word :=
  match regDesc off with
  | some d => (d.fields.filter (·.staged)).foldl (fun a f => a ||| fieldMask f.hi f.lo) 0
  | none => 0

/-- The value that register `off` would hold under the bank `b`. -/
def underBank (s : State) (b : SMap (Option Word)) (off : Nat) : Word :=
  match SMap.get none b off with
  | some w => maskMerge (s.reg off) w (stagedMask off)
  | none => s.reg off

/-- A COMPAT strap holds LEVEL1 at 1 (R12, R546). -/
def holdLevel1 (s : State) (off : Nat) (w : Word) : Word :=
  if off = R.GCTL_COMPAT ∧ s.flag R.GCTL_COMPAT F.GCTL_COMPAT_STRAP then putF w F.GCTL_COMPAT_LEVEL1 1 else w

/-- A change of Level 1 reaches CR.FCSR.SAT of both banks of every thread (R184). -/
def level1Change (old new : Bool) (s : State) : State :=
  if old = new then s
  else allThr.foldl (fun z t => z.updThr t (fun x =>
    let f (w : Bool) (x : Thread) := x.setBcr w CR.FCSR (setBit (x.bcr w CR.FCSR) 20 (!new))
    f true (f false x))) s

/-- The staged fields of register `off` take the values of `w`, with what follows at once: the source of beats changes (R45, R47),
an epoch set without an edge has no predecessor (R456), Level 1 changes (R184). Values of SRC and SRCPORT that stay the same do
not count as setting them. DESIGN CHOICE: assumption 119. -/
def applyStaged (s : State) (off : Nat) (w : Word) : State :=
  let old := s.reg off
  let new := holdLevel1 s off (maskMerge old w (stagedMask off))
  let s := s.setReg off new
  if off = R.BEAT_CTRL then
    if getF old F.BEAT_CTRL_SRC = getF new F.BEAT_CTRL_SRC ∧ getF old F.BEAT_CTRL_SRCPORT = getF new F.BEAT_CTRL_SRCPORT then s
    else
      let s := s.setBeat (fun b => { b with synced := false, holdover := false })
      let s := s.setReg R.BEAT_MONOFF 0
      (s.setFld R.BEAT_MARK F.BEAT_MARK_STRATUM 15).setFld R.BEAT_MARK F.BEAT_MARK_PARENT (getF new F.BEAT_CTRL_SRCPORT)
  else if off = R.GCTL_EPOCH then
    if getF old F.GCTL_EPOCH_EPOCH = getF new F.GCTL_EPOCH_EPOCH then s else s.updFab (fun f => { f with lastEpoch := none })
  else if off = R.GCTL_COMPAT then
    level1Change (decide (getF old F.GCTL_COMPAT_LEVEL1 ≠ 0)) (decide (getF new F.GCTL_COMPAT_LEVEL1 ≠ 0)) s
  else s

def setDirty (s : State) : State := s.setFlag R.BEAT_CG_STAT F.BEAT_CG_STAT_OPEN_DIRTY (decide (s.beat.openBank ≠ []))

/-- A write of `v` to the bits `m` of a register that holds staged fields (R15, R35, R627), and whether the write is accepted:
one that is not is ignored in full. -/
def stageWrite (s : State) (off : Nat) (v m : Word) : State × Bool :=
  match regDesc off with
  | none => (s, true)
  | some d =>
    if s.running then
      let base := match SMap.get none s.beat.openBank off with | some w => w | none => s.reg off
      let w := clampReg off base (writeOnly d true base v m)
      (setDirty (s.setBeat (fun b => { b with openBank := SMap.set none b.openBank off (some w) })), true)
    else
      let w := clampReg off (s.reg off) (writeOnly d true (s.reg off) v m)
      match failOf (regFails s off w) with
      | some (_, reason) => (rejectGroup s off reason, false)
      | none => (applyStaged s off w, true)

/-- The armed bank applies at the pending edge. -/
def bankDue (s : State) : Bool :=
  s.beat.armed && !s.beat.armSkip && (decide (s.beat.armTarget = 0) || decide (s.beat.armTarget.toNat ≤ (nextBeat s).toNat))

/-- The voltage rises that the pending edge needs are started (R594); `acks` says which regulators acknowledge. -/
def planRises (s : State) (acks : Nat := 15) : State :=
  let b := if bankDue s then s.beat.armedBank else []
  let cap := if s.flag R.PWR_CTRL F.PWR_CTRL_CAPEN then s.power.capNext else 84
  (List.range 4).foldl (fun z q =>
    startRise z q (limited (getF (underBank z b (R.PWR_QFREQ q)) F.PWR_QFREQ_FMAX) cap (thermNext z q)).1 (acks.testBit q)) s

/-- ARM (R36, R37); the epoch rule applies while beats run (R627). CG_TARGET acts as it stands at the ARM. DESIGN CHOICE:
assumption 118. -/
def armBank (s : State) : State :=
  if s.beat.armed then s.setFlag R.BEAT_CG_STAT F.BEAT_CG_STAT_BUSY true
  else
    let b := s.beat.openBank
    let v := underBank s b
    let target := s.reg R.BEAT_CG_TARGET
    let fs := b.flatMap (fun e => regFails s e.1 (v e.1)) ++ stretchFails v ++ overlapFails v ++ (if s.running then epochFails s v else []) ++
      (if target ≠ 0 ∧ target.toNat ≤ (nextBeat s).toNat then [⟨[R.BEAT_CG_TARGET], 2⟩] else [])
    match failOf fs with
    | some (off, reason) => rejectGroup s off reason
    | none =>
      let skip := decide (target = 0) && s.running && s.beat.scheduled && decide (finalAt s < s.now.toNat)
      let s := s.setBeat (fun x => { x with armedBank := b, armed := true, openBank := [], armTarget := target, armSkip := skip, cancelAt := none })
      let s := (s.setFld R.BEAT_CG_STAT F.BEAT_CG_STAT_STATE 1).setFld R.BEAT_CG_STAT F.BEAT_CG_STAT_REASON 0
      let s := setDirty s
      -- armed after the guard instant, a higher FMAX starts its voltage now
      if s.running && s.beat.scheduled && decide (s.beat.guardAt.toNat ≤ s.now.toNat) then planRises s else s

/-- DISCARD. -/
def discardBank (s : State) : State := setDirty (s.setBeat (fun b => { b with openBank := [] }))

/-- The armed bank is withdrawn and emptied; STATE shows IDLE. DESIGN CHOICE: assumption 118. -/
def withdrawBank (s : State) : State :=
  (s.setBeat (fun b => { b with armed := false, armedBank := [], armSkip := false, cancelAt := none })).setFld R.BEAT_CG_STAT
    F.BEAT_CG_STAT_STATE 0

/-- CANCEL: an armed bank is withdrawn before E − 100 ns. A root whose DECIDE is below 100 ns may still move its edge, and the
CANCEL is judged by E as the decision leaves it (R31). -/
def cancelBank (s : State) : State :=
  if !s.beat.armed then s
  else if s.running && s.beat.scheduled && decide (finalAt s ≤ s.now.toNat) then
    if isRoot s && decide (s.now.toNat ≤ decideAt s) then s.setBeat (fun b => { b with cancelAt := some s.now }) else s
  else withdrawBank s

/-- The root's grant has moved the edge: what was ARMed or CANCELled before is judged by the new E (R31). -/
def judgeAgain (s : State) : State :=
  let s := s.setBeat (fun b => { b with armSkip := false })
  match s.beat.cancelAt with
  | some t => if t.toNat < finalAt s then withdrawBank s else s
  | none => s

/-- A write of BEAT.CG_CTRL: CANCEL, ARM and DISCARD act in this order (R38). -/
def writeCgCtrl (s : State) (v : Word) : State :=
  let s := if getF v F.BEAT_CG_CTRL_CANCEL ≠ 0 then cancelBank s else s
  let s := if getF v F.BEAT_CG_CTRL_ARM ≠ 0 then armBank s else s
  if getF v F.BEAT_CG_CTRL_DISCARD ≠ 0 then discardBank s else s

/-- The armed bank applies at the edge that begins beat `n`, if it is due (R37, R38). -/
def applyGroup (s : State) (n : Word) : State :=
  if !s.beat.armed then s
  else if s.beat.armSkip then s.setBeat (fun b => { b with armSkip := false })
  else if s.beat.armTarget ≠ 0 ∧ n.toNat < s.beat.armTarget.toNat then s
  else
    let before := s.fld R.GCTL_EPOCH F.GCTL_EPOCH_EPOCH
    let s := s.beat.armedBank.foldl (fun z e => match e.2 with | some w => applyStaged z e.1 w | none => z) s
    -- the epoch before is accepted for a while after this edge (R456)
    let s := if s.fld R.GCTL_EPOCH F.GCTL_EPOCH_EPOCH = before then s
      else s.updFab (fun f => { f with lastEpoch := some (BitVec.ofNat 16 before, s.now) })
    let s := s.setBeat (fun b => { b with armed := false, armedBank := [], armTarget := 0, cancelAt := none })
    (s.setFld R.BEAT_CG_STAT F.BEAT_CG_STAT_STATE 2).setReg R.BEAT_CG_APPLIED n

/-! ### RUN (R15–R17, R627) -/

/-- The first edge is scheduled, or awaited from the parent. -/
def startBeats (s : State) : State :=
  let s := s.setBeat (fun b => { b with
    fresh := true, first := some 0, failNow := false, quanta := 0, held := none, slip := none, lateGrant := false, realign := false,
    binSeen := false, armSkip := false, cancelAt := none })
  if isRoot s then
    let late := decide ((s.reg R.BEAT_START).toNat < s.now.toNat)
    let t := if late then s.now + 1000 else s.reg R.BEAT_START
    let s := if late then s.setFlag R.BEAT_STAT F.BEAT_STAT_START_LATE true else s
    let s := s.setBeat (fun b => { b with scheduled := true, awaitParent := false })
    moveEdge s t 0
  else s.setBeat (fun b => { b with scheduled := false, awaitParent := true })

/-- A write of 1 to BEAT.CTRL.RUN. -/
def runOn (s : State) : State :=
  if s.running then s
  else match failOf (stretchFails s.reg ++ overlapFails s.reg) with
    | some (off, reason) => rejectGroup s off reason
    | none => startBeats (s.setFlag R.BEAT_CTRL F.BEAT_CTRL_RUN true)

/-- A write of 0 to BEAT.CTRL.RUN. -/
def runOff (s : State) : State :=
  (s.setFlag R.BEAT_CTRL F.BEAT_CTRL_RUN false).setBeat (fun b => { b with scheduled := false, awaitParent := false, held := none })

end Sys2Proof.Machine
end

