-- ==== Sys2Proof/Machine/Issue.lean ====
section
/-! DEFINITION. The issue of one instruction by a thread: readiness (R51), pairing (R57–R59), the hardware loops (R71, R74),
retirement, and what each way of ending an instruction does. Every instruction's meaning is `issue` applied to its own body. -/

namespace Sys2Proof.Machine
open Sys2Proof

/-- What issue needs to know of an instruction: its words for TSB.INSN (the second word, of a prefixed form, in [63:32]), its
length in bytes, its class (R57), the g registers it reads and writes, and whether a transaction may run it (R86 cause 5). -/
structure Insn where
  word : Word
  len : Nat := 4
  cls : Cls
  reads : List Nat := []
  writes : List Nat := []
  inTx : Bool := false
  /-- An interruptible vector instruction, which sets VRES when it faults (R221, R222). -/
  vint : Bool := false
  /-- A vector load or store, or vchain: a memory operation of the VM class (R57, R194). -/
  vmem : Bool := false
  deriving DecidableEq, Repr

/-- How an instruction's body ends. -/
inductive Res where
  /-- It completes; a trap after completion may follow (R93, R111): cause and TVAL. -/
  | done (s : State) (after : Option (Nat × Word))
  /-- It completes and control goes to `pc` (a taken branch or jump, R73; a return or a gate). -/
  | jump (s : State) (pc : Addr)
  /-- It raises a fault and has no effect but what `s` holds (ECC events of its reads). -/
  | trap (s : State) (i : TrapInfo)
  /-- It does not issue, or waits; the thread keeps its PC. -/
  | wait (s : State)
  /-- Its transaction has aborted, or it has left the thread as it must be. -/
  | left (s : State)
  deriving DecidableEq, Repr

/-- What slot B may hold after a class in slot A (R57). -/
def pairs (a b : Cls) : Bool :=
  match a with
  | .int | .fpu | .div | .mem | .cr => decide (b = .int ∨ b = .br ∨ b = .vm)
  | .vm => decide (b = .int ∨ b = .br)
  | .br | .solo => false

/-- The instruction can stand in slot B of the open group (R57, R58, R194). A slot-A instruction whose destination is g0 writes no
register. DESIGN CHOICE: assumption 123. -/
def fitsB (g : GroupA) (i : Insn) : Bool :=
  pairs g.cls i.cls && !(i.vmem && decide (g.cls = .mem)) && !g.lastOfLoop && (i.reads ++ i.writes).all (fun r => decide (r = 0) || !decide (r ∈ g.writes))

/-! ### Hardware loops (R71) -/

def lcOf (x : Thread) (j : Nat) : Nat := (x.ucr (CR.LC j)).toNat
def lsOf (x : Thread) (j : Nat) : Addr := BitVec.ofNat 48 (x.ucr (CR.LS j)).toNat
def leOf (x : Thread) (j : Nat) : Addr := BitVec.ofNat 48 (x.ucr (CR.LE j)).toNat

/-- `pc` is the last instruction of the body of active level `j`. -/
def atEnd (x : Thread) (j : Nat) (pc : Addr) : Bool := decide (lcOf x j ≠ 0) && decide (leOf x j = pc)

/-- Completion of the instruction at `pc` of level 0 alone: the loop registers and the next PC. -/
def loopBack0 (x : Thread) (pc next : Addr) : Thread × Addr :=
  if atEnd x 0 pc then
    let n := lcOf x 0 - 1
    (x.setUcr (CR.LC 0) (BitVec.ofNat 64 n), if n ≠ 0 then lsOf x 0 else next)
  else (x, next)

/-- Completion of the instruction at `pc` (R71). -/
def loopBack (x : Thread) (pc next : Addr) : Thread × Addr :=
  if atEnd x 1 pc then
    let n := lcOf x 1 - 1
    let x := x.setUcr (CR.LC 1) (BitVec.ofNat 64 n)
    if n ≠ 0 then (x, lsOf x 1) else loopBack0 x pc next
  else loopBack0 x pc next

/-! ### Retirement -/

/-- The index in VRES is valid for one instruction only, which clears VRV (R222). -/
def clearVrv (x : Thread) : Thread := x.setUcr CR.VRES (setBit (x.ucr CR.VRES) 32 false)

/-- One more instruction retired. -/
def retireCount (x : Thread) : Thread :=
  { abandonHost (clearVrv x) with instret := x.instret + 1, wait := .none, misses := [], stallWord := 0 }

/-- The group of slot A issues: SPINDLE.ISSUED counts it, and slot B's completion counts in PAIRED (R103). -/
def countIssue (s : State) (t : Thr) (slotB : Bool) : State :=
  if slotB then s.bump (R.SPINDLE_PAIRED (spindleOf t) (threadIn t)) 1
  else s.bump (R.SPINDLE_ISSUED (spindleOf t) (threadIn t)) 1

/-- The group ends: a trap after completion of either slot is taken, slot A's first (R111, R113). -/
def closeGroup (s : State) (t : Thr) (after : Option (Nat × Word)) (insn : Word) : State :=
  let s := s.updThr t (fun x => { x with group := none })
  match after with
  | some (c, v) => takeTrap s t (s.thr t).pc .after ⟨c, 0, v⟩ insn
  | none => s

/-- An open group whose second instruction does not come ends at its first. -/
def endGroup (s : State) (t : Thr) : State :=
  match (s.thr t).group with
  | some g => closeGroup s t g.after g.word
  | none => s

/-- What slot A of the open group left to be taken when the group ends. -/
def firstAfter (x : Thread) : Option (Nat × Word) := match x.group with | some g => g.after | none => none

/-- The instruction `i` at the PC of `s` completes, its body having left `s1`: the loops, the next PC and the counts (R71, R101,
R103). Slot A of a group that a second instruction follows leaves the group open; otherwise the group ends, and a trap after
completion that either slot has raised is taken (R111). A write of LC or LE by the instruction itself is in force when the loops
are judged. DESIGN CHOICE: assumption 121. -/
def retire (s s1 : State) (is : Issue) (i : Insn) (after : Option (Nat × Word)) : State :=
  let t := is.thr
  let x := s.thr t
  let slotB := x.group.isSome
  let y := loopBack (s1.thr t) x.pc (x.pc + BitVec.ofNat 48 i.len)
  let last := atEnd (s1.thr t) 0 x.pc || atEnd (s1.thr t) 1 x.pc
  let s2 := countIssue (s1.setThr t { retireCount y.1 with pc := y.2 }) t slotB
  let word := match x.group, firstAfter x with | some g, some _ => g.word | _, _ => i.word
  let after := match firstAfter x with | some a => some a | none => after
  if is.more && !slotB && !decide (i.cls = .br) && !decide (i.cls = .solo) then
    s2.updThr t (fun z => { z with group := some { cls := i.cls, writes := i.writes, lastOfLoop := last, after := after, word := i.word } })
  else closeGroup s2 t after word

/-- It completes and control goes to `target`. -/
def retireJump (s s1 : State) (is : Issue) (i : Insn) (target : Addr) : State :=
  let t := is.thr
  let x := s.thr t
  let s2 := countIssue (s1.setThr t { retireCount (s1.thr t) with pc := target }) t x.group.isSome
  closeGroup s2 t (firstAfter x) (match x.group with | some g => g.word | none => i.word)

/-- It raises the fault `info`. The trap of slot A comes first (R111), and then an ILLEGAL word, which no group of two holds, has
not issued at all (R58). A pair whose second instruction faults counts among the groups of two, one whose first faults among the
groups alone. DESIGN CHOICE: assumption 125. -/
def retireFault (s s1 : State) (is : Issue) (i : Insn) (info : TrapInfo) : State :=
  let t := is.thr
  let x := s.thr t
  let illegal := decide (info.cause = Cause.ILLEGAL)
  let s1 := if i.vint && !illegal then s1 else s1.updThr t clearVrv
  match firstAfter x with
  | some _ => endGroup (if illegal then s else countIssue s1 t true) t
  | none =>
    takeTrap ((countIssue s1 t (x.group.isSome && !illegal)).updThr t (fun z => { z with group := none })) t x.pc .fault info i.word

/-! ### Halting (R101) -/

/-- The thread has host accesses whose completions it must have before it reaches a boundary: those of the instruction that it is
executing, or those that a stalled instruction has sent. -/
def hostBusy (x : Thread) : Bool :=
  if x.run = .running then !x.host.isEmpty else x.host.any (fun r => decide (r.reply = .waiting))

/-- The thread stops where it stands. DESIGN CHOICE: assumption 26. -/
def haltNow (s : State) (t : Thr) : State :=
  let s := if (s.thr t).run = .halted then s else endGroup s t
  if (s.thr t).run = .halted then s.updThr t (fun x => { x with haltReq := false })
  else
    let s := if (s.thr t).tx.isSome then txAbort s t 11 0 true else s
    let x := s.thr t
    let stop (z : State) (tpc : Word) : State :=
      (z.setReg (R.SPINDLE_TPC (spindleOf t) (threadIn t)) tpc).updThr t (fun y =>
        { abandonHost y with run := .halted, group := none, wait := .none, misses := [], haltReq := false })
    if x.world then
      match sealedSave s t x.pc .async ⟨0, 0, 0⟩ with
      | some s1 => stop s1 0
      | none => doubleFault s t 0
    else stop s (BitVec.ofNat 64 x.pc.toNat)

/-- A HALT that waited is carried out once the thread's outstanding loads have returned and it stands at a boundary. -/
def haltDue (s : State) (t : Thr) : State :=
  let x := s.thr t
  if x.haltReq && !hostBusy x then haltNow s t else s

/-- An instruction that is not ready does not issue; slot A of its group has then issued alone, as where slot B is not yet in the
fetch buffer (R58, R59), and a trap that it raised comes first. DESIGN CHOICE: assumption 21. -/
def notReady (s s1 : State) (t : Thr) : State := if (firstAfter (s.thr t)).isSome then endGroup s t else endGroup s1 t

/-- Instruction `i` issues in `s`, whose open group, if any, it joins (R57). An instruction that ends its own transaction is not
among those that CR.INSTRET counts. DESIGN CHOICE: assumption 126. -/
def issueIn (s : State) (is : Issue) (i : Insn) (body : State → Res) : State :=
  let t := is.thr
  match (if (s.thr t).tx.isSome && !i.inTx then Res.left (txAbort s t 5 0 false) else body s) with
  | .done s1 after => retire s s1 is i after
  | .jump s1 target => retireJump s s1 is i target
  | .trap s1 info => retireFault s s1 is i info
  | .wait s1 => notReady s s1 t
  | .left s1 => countIssue s1 t (s.thr t).group.isSome

/-- The issue of instruction `i` by thread `is.thr`, whose effect beside the PC, the loops and the counts is `body`. A thread
that is not RUNNING issues nothing (R51). An open group that the instruction cannot join ends first, and its trap, if slot A
raised one, is taken instead. DESIGN CHOICE: assumption 21. DESIGN CHOICE: assumption 112. -/
def issue (s : State) (is : Issue) (i : Insn) (body : State → Res) : State :=
  let x := s.thr is.thr
  if x.run ≠ .running ∨ s.stopped = true then s
  else
    let u := match x.group with
      | some g =>
        if fitsB g i then issueIn s is i body
        else if g.after.isSome then endGroup s is.thr
        else issueIn (endGroup s is.thr) is i body
      | none => issueIn s is i body
    if x.haltReq then haltDue u is.thr else u

end Sys2Proof.Machine
end

