-- ==== Sys2Proof/Machine/Access.lean ====
section
/-! DEFINITION. A thread's access to memory: the address and rights checks (R63, R67, R68, R105, R106, R628), the L1 caches
(R307–R315), and accesses to shared virtual addresses through translation and PCIe (R357–R362). -/

namespace Sys2Proof.Machine
open Sys2Proof

inductive AccKind where
  | load | store | atomic | exec
  deriving DecidableEq, Repr

/-- One half of an access (R67): the effective address of its first byte and its length. -/
structure Part where
  ea : Nat
  n : Nat
  deriving DecidableEq, Repr

/-- The access is cut at a 64-byte line boundary (R67). -/
def halves (ea : Word) (n : Nat) : List Part :=
  let k := 64 - ea.toNat % 64
  if n ≤ k then [⟨ea.toNat, n⟩] else [⟨ea.toNat, k⟩, ⟨(ea + BitVec.ofNat 64 k).toNat, n - k⟩]

/-- A shared virtual address (R63): bit 63 set and bits [62:57] zero. -/
def isSva (a : Nat) : Bool := decide (a / 2 ^ 57 = 64)
def isDevice (a : Nat) : Bool := decide (a < 2 ^ 48)

/-! ### Rights (R105, R106) -/

/-- The right that an access kind needs of a caller range: R, W, both, or X. -/
def rangeGrants (b : Word) (k : AccKind) : Bool :=
  match k with
  | .load => bit b 0
  | .store => bit b 1
  | .atomic => bit b 0 && bit b 1
  | .exec => bit b 2

/-- [a, a + n) lies within one caller range of world `w` that grants the right (R106). -/
def inRanges (x : Thread) (w : Bool) (k : AccKind) (a n : Nat) : Bool :=
  (List.range 4).any (fun i =>
    let b := x.bcr w (CR.CRB i)
    let l := x.bcr w (CR.CRL i)
    bit b 3 && rangeGrants b k && decide (b.toNat / 64 * 64 ≤ a) && decide (a + n ≤ l.toNat / 64 * 64))

/-- The rights of a state (world, level) over device addresses [a, a + n), leaving caller ranges aside (R105). -/
def windowRight (s : State) (world sup : Bool) (k : AccKind) (a n : Nat) : Bool :=
  match windowOf a with
  | .hbm | .pan _ => world || !anySealed s a n
  | .control | .tstore | .session => sup && decide (k ≠ .exec)
  | .openHandler => sup && (world || !anySealed s (a + n - 1) 1)
  | .sealedHandler => sup && world
  | .unmapped => false

/-- The thread's state has the right to one half of an access. -/
def partRight (s : State) (x : Thread) (k : AccKind) (p : Part) : Bool :=
  if isSva p.ea then decide (k ≠ .exec) && (x.level || inRanges x x.world k p.ea p.n)
  else windowRight s x.world x.level k p.ea p.n &&
    (x.level || ((match windowOf p.ea with | .hbm | .pan _ => true | _ => false) && inRanges x x.world k p.ea p.n))

/-- An address that raises DEV_ADDR (R3, R63, R68). -/
def badAddr (k : AccKind) (p : Part) : Bool :=
  !(isSva p.ea || (isDevice p.ea && allMapped p.ea p.n)) ||
    (decide (k = .atomic) && !isSva p.ea &&
      (match windowOf p.ea with | .control | .tstore | .session => true | _ => false))

/-- The checks of one access of `n` bytes at `ea`: address, then alignment, then rights (R6, R67, R68, R628); R628 orders the
address before the rights, and puts alignment at neither place. The first half that fails is named. DESIGN CHOICE: assumption 124. -/
def checkAccess (s : State) (x : Thread) (k : AccKind) (ea : Word) (n : Nat) : Except TrapInfo (List Part) :=
  let ps := halves ea n
  match ps.find? (badAddr k) with
  | some p => .error ⟨Cause.DEV_ADDR, 0, BitVec.ofNat 64 p.ea⟩
  | none =>
    let misaligned := decide (ea.toNat % n ≠ 0)
    let ctl := ps.any (fun p => isDevice p.ea && decide (windowOf p.ea = .control))
    if (k = .atomic ∧ misaligned) ∨ (ctl ∧ (misaligned ∨ (n ≠ 4 ∧ n ≠ 8))) then .error ⟨Cause.ALIGN, 0, ea⟩
    else
      match ps.find? (fun p => !partRight s x k p) with
      | some p => .error ⟨Cause.ACCESS, 0, BitVec.ofNat 64 p.ea⟩
      | none => .ok ps

/-- The line lies in the thread's own pan (R86 cause 4). -/
def ownPan (t : Thr) (p : Part) : Bool :=
  isDevice p.ea && decide (windowOf p.ea = .pan (spindleOf t)) && decide (windowOf (p.ea + p.n - 1) = .pan (spindleOf t))

/-! ### The L1 caches (R307–R315) -/

def ctlOff (n : SpindleId) (isData : Bool) : Nat := if isData then R.SPINDLE_L1DCTL n else R.SPINDLE_L1ICTL n
def seedOff (n : SpindleId) (isData : Bool) : Nat := if isData then R.SPINDLE_L1DSEED n else R.SPINDLE_L1ISEED n

/-- Way `w` is locked, or disabled, by the control register's value `c`. -/
def lockedBy (c : Word) (w : Fin 4) : Bool := decide (w.val < 3) && bit c w.val
def disabledBy (c : Word) (w : Fin 4) : Bool := bit c (9 + w.val)
def locked (s : State) (n : SpindleId) (d : Bool) (w : Fin 4) : Bool := lockedBy (s.reg (ctlOff n d)) w
def fillEn (s : State) (n : SpindleId) (d : Bool) : Bool := bit (s.reg (ctlOff n d)) 4
def fillWay (s : State) (n : SpindleId) (d : Bool) : Nat := field (s.reg (ctlOff n d)) 6 5
def pfDis (s : State) (n : SpindleId) (d : Bool) : Bool := bit (s.reg (ctlOff n d)) 8

/-- R309. -/
def lfsrStep (l : Nat) : Nat :=
  let b := (l ^^^ (l / 4) ^^^ (l / 8) ^^^ (l / 32)) % 2
  l / 2 ||| b * 2 ^ 15

/-- The lookup of a line. A data parity error on a hit invalidates the line; one in a locked way is refetched into that way:
the way found, and the way a refetch must take (R312). -/
def l1Find (s : State) (n : SpindleId) (d : Bool) (line : Nat) (readsData : Bool) : State × Option (Fin 4) × Option Nat :=
  let s := checkTags s n d (setOf line)
  let c := s.cache n d
  match c.find line with
  | none => (s, none, none)
  | some w =>
    let k := 4 * setOf line + w.val
    if readsData && SMap.get false c.badData k then
      (l1Parity (s.setCache n d (c.drop k)) n d (setOf line), none, if locked s n d w then some w.val else none)
    else (s, some w, none)

/-- A line request leaves the cache under the settings and the regions of this moment (R315, R331). -/
def addFill (s : State) (n : SpindleId) (d : Bool) (f : Fill) : State :=
  let c := s.cache n d
  s.setCache n d { c with fills := c.fills ++ [{ f with ctl := s.reg (ctlOff n d), map := mapping s }] }

/-- A miss sends its line request and, where R310 asks for it, the request of the next line. -/
def l1Request (s : State) (n : SpindleId) (d : Bool) (f : Fill) : State :=
  let s := addFill s n d f
  let next := f.line + 1
  let s := checkTags s n d (setOf next)
  if ((s.cache n d).find next).isNone && decide (next * 64 / 4096 = f.line * 64 / 4096) && !pfDis s n d && !fillEn s n d then
    addFill s n d { line := next, thr := none, prefetch := true, way := none, drop := false }
  else s

/-- Load misses of a thread that are outstanding (R55). -/
def missCount (s : State) (t : Thr) : Nat := ((s.cache (spindleOf t) true).fills.filter (fun f => decide (f.thr = some t))).length

/-- PFPEND: prefetches not yet filled (R310, R314). -/
def pfPend (s : State) (n : SpindleId) (d : Bool) : Nat := min 255 ((s.cache n d).fills.filter (·.prefetch)).length

/-- A thread's read of bytes within one line of a cacheable window through L1D: the bytes with their marks. -/
def l1Read (s : State) (t : Thr) (a n : Nat) : State × List (Byte × Bool) :=
  let sp := spindleOf t
  let line := a / 64
  match l1Find s sp true line true with
  | (s, some w, _) =>
    match SMap.get none (s.cache sp true).lines (4 * setOf line + w.val) with
    | some l => (s, (((lineBytes l.data).drop (a % 64)).take n).map (fun b => (b, false)))
    | none => (s, [])
  | (s, none, way) =>
    let s := s.bump (R.SPINDLE_L1DMISS sp) 1
    let (s, bs) := memRead s (.thread t) 0 a n
    (l1Request s sp true { line := line, thr := some t, prefetch := false, way := way, drop := false }, bs)

/-- The victim way of R308 under the control register's value `ctl`: its number and whether the LFSR advances. -/
def victim (s : State) (n : SpindleId) (d : Bool) (line : Nat) (demand : Bool) (ctl : Word) : Option (Nat × Bool) :=
  let ok (w : Fin 4) := !lockedBy ctl w && !disabledBy ctl w && !(demand && bit ctl 4 && decide (w.val = field ctl 6 5))
  let c := s.cache n d
  let valid (w : Fin 4) := (SMap.get none c.lines (4 * setOf line + w.val)).isSome
  match (List.finRange 4).find? (fun w => ok w && !valid w) with
  | some w => some (w.val, false)
  | none =>
    match (List.finRange 4).filter (fun w => ok w && valid w) with
    | [] => none
    | l => (l[field (s.reg (seedOff n d)) 3 0 % l.length]?).map (fun w => (w.val, true))

/-- A fill's data is allocated under the settings that its request found (R308, R314, R315). A line that another fill has brought
meanwhile stays, save that one bound for a way leaves an unlocked other way for it; a way disabled meanwhile takes nothing.
DESIGN CHOICE: assumption 29. -/
def allocate (s : State) (n : SpindleId) (d : Bool) (f : Fill) (data : BitVec 512) : State :=
  let put (s : State) (w : Nat) : State :=
    if bit (s.reg (ctlOff n d)) (9 + w) then s
    else
      let c := (s.cache n d).drop (4 * setOf f.line + w)
      s.setCache n d { c with lines := SMap.set none c.lines (4 * setOf f.line + w) (some { tag := tagOf f.line, data := data }) }
  match (s.cache n d).find f.line, f.way with
  | some v, some w =>
    if v.val = w ∨ lockedBy f.ctl v = true then s else put (s.setCache n d ((s.cache n d).drop (4 * setOf f.line + v.val))) w
  | some _, none => s
  | none, some w => put s w
  | none, none =>
    match victim s n d f.line (!f.prefetch) f.ctl with
    | none => s
    | some (w, adv) =>
      let s := if adv then s.setFld (seedOff n d) ⟨15, 0⟩ (lfsrStep (field (s.reg (seedOff n d)) 15 0)) else s
      put s w

/-! ### Shared virtual accesses (R357–R362) -/

def State.newTag (s : State) : State × Nat :=
  ({ s with host := { s.host with nextTag := s.host.nextTag + 1 } }, s.host.nextTag)

/-- A half translated: its translated address and attributes. -/
structure HostPart where
  part : Part
  pa : Nat
  untr : Bool
  ns : Bool
  deriving DecidableEq, Repr

inductive SvaRes where
  | ok (ps : List HostPart)
  | wait
  | trap (i : TrapInfo)
  deriving DecidableEq, Repr

/-- The thread stalls with its access (R359): the misses, and the instruction word for TSB.INSN. -/
def stallThread (s : State) (t : Thr) (w : Wait) (ms : List Miss) (word : Word) : State :=
  s.updThr t (fun x => { x with run := .stalled, wait := w, misses := ms, stallWord := word })

/-- Translation of shared virtual halves, in order; a miss asks for its page and stalls the thread (R358, R366). -/
def translateParts (s : State) (t : Thr) (word : Word) (k : AccKind) : List Part → State × SvaRes
  | [] => (s, .ok [])
  | p :: ps =>
    let at' := decide (k = .atomic)
    let wr := decide (k = .store)
    if !canSend s then (stallThread s t .busMaster [] word, .wait)
    else
      match translate s (FAgent.cache (.thread t)) (p.ea % 2 ^ 57) wr at' with
      | (s, .refused) => (s.bump R.FQ_REFUSED 1, .trap ⟨Cause.TRANSLATE, 1, BitVec.ofNat 64 p.ea⟩)
      | (s, .miss) =>
        let page := p.ea % 2 ^ 57 / 4096
        let s := askAts s page (!wr && !at')
        (stallThread s t (.ats [page]) [{ va := p.ea, write := wr, atomic := at', elem := 0, vec := false }] word, .wait)
      | (s, .ok pa untr ns) =>
        match translateParts s t word k ps with
        | (s, .ok l) => (s, .ok ({ part := p, pa := pa, untr := untr, ns := ns } :: l))
        | r => r

/-- The halves of a load whose host reads have all been sent are not translated again. -/
def hostParts (s : State) (t : Thr) (word : Word) (k : AccKind) (ps : List Part) : State × SvaRes :=
  let sent (p : Part) := (s.thr t).host.any (fun r => decide (r.va = p.ea) && decide (r.len = p.n))
  if ps.all sent then (s, .ok (ps.map (fun p => { part := p, pa := 0, untr := false, ns := false })))
  else translateParts s t word k ps

inductive HostRes where
  | data (bs : List Byte)
  | wait
  | trap (i : TrapInfo)
  deriving DecidableEq, Repr

/-- The data of the thread's host reads: each half is requested once, and the instruction runs again when all have come. A
poisoned completion is reported and consumed as POISON; a failed one refuses the access with COMPLETION (R361, R402, R527). -/
def hostRead (s : State) (t : Thr) : List HostPart → State × HostRes
  | [] => (s, .data [])
  | h :: hs =>
    match (s.thr t).host.find? (fun r => decide (r.va = h.part.ea) && decide (r.len = h.part.n)) with
    | none =>
      let (s, tag) := s.newTag
      let s := s.emit (.hostRead tag h.pa h.part.n (!h.untr) h.ns (pasidOf s))
      let s := s.updThr t (fun x => { x with host := x.host ++ [{ tag := tag, va := h.part.ea, len := h.part.n, reply := .waiting }] })
      let (s, _) := hostRead s t hs
      (s, .wait)
    | some r =>
      match r.reply with
      | .waiting => let (s, _) := hostRead s t hs; (s, .wait)
      | .failed => (s.bump R.FQ_REFUSED 1, .trap ⟨Cause.TRANSLATE, 2, BitVec.ofNat 64 h.part.ea⟩)
      | .data _ true => (s, .trap ⟨Cause.POISON, 0, BitVec.ofNat 64 h.part.ea⟩)
      | .data bs false =>
        match hostRead s t hs with
        | (s, .data more) => (s, .data (bs ++ more))
        | r => r

/-- A posted write of a half's bytes to the host (R316, R357). -/
def hostWrite (s : State) (h : HostPart) (data : List Byte) : State :=
  s.emit (.hostWrite h.pa data (!h.untr) h.ns (pasidOf s) false)

/-! ### Device memory and the store queue (R55, R66) -/

def devRead (s : State) (t : Thr) (a n : Nat) : State × List (Byte × Bool) :=
  if windowOf a = .tstore then
    let (s, bs) := tstoreRead s a n
    (s, bs.map (fun b => (b, false)))
  else memRead s (.thread t) 0 a n

def devWrite (s : State) (t : Thr) (a : Nat) (data : List Byte) : State :=
  if windowOf a = .tstore then tstoreWrite s a data
  else memWrite (storePasses s (spindleOf t) a data) (.thread t) a data

/-- One half of a store, at `a`: it stays in the store queue while the row or granule that it must reach is copied (R342, R345) or an older queued
store holds a byte of it (R317), and otherwise leaves at once; none when it finds the queue full. DESIGN CHOICE: assumption 28. -/
def storePart (s : State) (t : Thr) (a : Nat) (data : List Byte) : Option State :=
  let q := (s.thr t).storeQ
  if writeBusy s a || queueHits q a data.length then
    if 8 ≤ q.length then none
    else some (s.updThr t (fun x => { x with storeQ := x.storeQ ++ [{ addr := a, data := data, map := mapping s }] }))
  else some (devWrite s t a data)

/-- The queued stores `l`, oldest first, of which `kept` stay: those that nothing holds back any more leave for their homes. -/
def drainQueue (t : Thr) : List StoreEnt → List StoreEnt → State → State
  | [], kept, s => s.updThr t (fun x => { x with storeQ := kept })
  | e :: l, kept, s =>
    if (underMapping s e.map (fun z => (z, writeBusy z e.addr))).2 || queueHits kept e.addr e.data.length then drainQueue t l (kept ++ [e]) s
    else drainQueue t l kept (underMapping s e.map (fun z => (devWrite z t e.addr e.data, ()))).1

/-- Every thread's queue, once more. -/
def drainQueues (s : State) : State :=
  allThr.foldl (fun z t => if (z.thr t).storeQ.isEmpty then z else drainQueue t (z.thr t).storeQ [] z) s

end Sys2Proof.Machine
end

