-- ==== Sys2Proof/Machine/Channel.lean ====
section
/-! DEFINITION. Channels (R446–R457): the checks of a PUT and a GET, the ring of slots, and the channel commands. -/

namespace Sys2Proof.Machine
open Sys2Proof

def chanOf (s : State) (c : BitVec 16) : Option Chan := SMap.get none s.fab.chans c.toNat
def setChan (s : State) (c : BitVec 16) (x : Option Chan) : State :=
  s.updFab (fun f => { f with chans := SMap.set none f.chans c.toNat x })

def slotBytes (x : Chan) : Nat := 256 * 2 ^ x.slotlog
def slotAddr (x : Chan) (i : Nat) : Nat := x.base + i % 2 ^ x.ringlog * slotBytes x
def statusAddr (x : Chan) (i : Nat) : Nat := x.base + 2 ^ x.ringlog * slotBytes x + 8 * (i % 2 ^ x.ringlog)
def Chan.used (x : Chan) : Nat := (x.tail - x.head).toNat

/-- The data of a message with the marks of its flits (R446). -/
def markedData (m : Msg) : List (Byte × Bool) :=
  m.data.mapIdx (fun i b => (b, decide ((if i < 212 then 0 else 1 + (i - 212) / 244) ∈ m.marks)))

/-- The flits that carry DEF for marked bytes. -/
def marksOf (bs : List (Byte × Bool)) : List Nat :=
  ((bs.mapIdx (fun i b => (i, b.2))).filterMap (fun e => if e.2 then some (if e.1 < 212 then 0 else 1 + (e.1 - 212) / 244) else none)).eraseDups

/-! ### Members (R455–R457) -/

def isMember (s : State) (d : Nat) : Bool := bit (s.reg (R.GCTL_MEMBER (d / 64))) (d % 64)

/-- A message from its sender is accepted under the epoch rule (R456). -/
def epochOk (s : State) (m : Msg) : Bool :=
  isMember s m.src.toNat &&
    (decide (m.epoch = s.epoch) ||
      (match s.fab.lastEpoch with
      | some (e, t) => decide (m.epoch = e) && decide (s.now.toNat ≤ t.toNat + s.fld R.GCTL_FABCFG F.GCTL_FABCFG_EGRACE)
      | none => false))

/-! ### Refusals (R452) -/

/-- The destination refuses a PUT or GET: the NACK leaves, and LASTNACK records the first. -/
def nackHere (s : State) (m : Msg) (reason : Nat) : State :=
  let s := if s.flag R.GCTL_LASTNACK F.GCTL_LASTNACK_VALID then s
    else s.setReg R.GCTL_LASTNACK (BitVec.ofNat 64 (1 + reason * 2 ^ 8 + m.chan.toNat * 2 ^ 16 + m.src.toNat * 2 ^ 32 +
      boolNat (decide (m.kind = 2)) * 2 ^ 44))
  refuseMsg s m reason

/-- The checks of R452 up to the state of the ring: the channel, or the reason of the refusal. DESIGN CHOICE: assumption 71. -/
def checkMsg (s : State) (m : Msg) : Except Nat Chan :=
  if !epochOk s m || !isMember s s.devId.toNat then .error 7
  else match chanOf s m.chan with
    | none => .error 1
    | some x =>
      let own := decide (m.src = s.devId)
      let get := decide (m.kind = 2)
      if m.sealed ≠ x.world then .error 6
      else if !own && (!(if get then x.getok else x.putok) || (!x.anypeer && decide (m.src ≠ x.peer))) then .error 5
      else if !get && (decide (m.len = 0) || decide (slotBytes x < m.len.toNat)) then .error 4
      else if !get && decide (x.used = 2 ^ x.ringlog) then .error 2
      else .ok x

/-! ### The ring (R449–R451) -/

/-- A message taken from a ring: its data with marks, its stamp if it has one, its sender. -/
structure Taken where
  data : List (Byte × Bool)
  stamp : Option (BitVec 16)
  deriving DecidableEq, Repr

/-- The message at HEAD, if there is one; HEAD advances. -/
def takeHead (s : State) (c : BitVec 16) : State × Option Taken :=
  match chanOf s c with
  | none => (s, none)
  | some x =>
    if x.used = 0 then (s, none)
    else
      let (s, st) := memRead s .reel 0 (statusAddr x x.head.toNat) 8
      let w : Word := BitVec.ofNat 64 (ofLe (st.map (·.1)))
      let (s, bs) := memRead s .reel 0 (slotAddr x x.head.toNat) (min (field w 16 0) (slotBytes x))
      (setChan s c (some { x with head := x.head + 1 }),
        some { data := bs, stamp := if bit w 18 then some (BitVec.ofNat 16 (field w 47 32)) else none })

/-- A message of this device in answer to `m`. -/
def replyTo (s : State) (m : Msg) (kind : Nat) : Msg := ownMsg s kind m.chan m.src m.xid 0 []

/-- The GET `m` is served with the message at HEAD (R451). DESIGN CHOICE: assumption 71. -/
def serveGet (s : State) (m : Msg) : State :=
  match takeHead s m.chan with
  | (s, none) => s
  | (s, some k) =>
    let r := replyTo s m MK.GETDATA
    let r := { r with len := BitVec.ofNat 17 k.data.length, data := k.data.map (·.1), marks := marksOf k.data, sv := k.stamp.isSome,
                      stamp := k.stamp.getD 0 }
    let (s, r) := if m.sealed then sealMsg s r else (s, r)
    sendMsg s r 1 false

/-- The GETs that wait are served in arrival order while the ring holds messages; a local take that waits before them has its turn first. -/
def serveWaitingFuel (c : BitVec 16) : Nat → State → State
  | 0, s => s
  | fuel + 1, s =>
    match chanOf s c with
    | none => s
    | some x =>
      if x.used = 0 then s
      else match x.waits with
        | .get m _ :: more => serveWaitingFuel c fuel (serveGet (setChan s c (some { x with waits := more })) m)
        | _ => s

def serveWaiting (s : State) (c : BitVec 16) : State :=
  match chanOf s c with
  | none => s
  | some x => serveWaitingFuel c x.waits.length s

/-- A PUT that passed its checks is written to slot TAIL, and its ACK leaves (R450). -/
def acceptPut (s : State) (m : Msg) (x : Chan) : State :=
  let t := x.tail.toNat
  let bs := markedData m
  let s := memWriteMarked s .reel (slotAddr x t) bs
  let w := m.len.toNat + boolNat (bs.any (·.2)) * 2 ^ 17 + boolNat m.sv * 2 ^ 18 + m.src.toNat * 2 ^ 19 +
    boolNat (!t.testBit x.ringlog) * 2 ^ 31 + (if m.sv then m.stamp.toNat else 0) * 2 ^ 32
  let s := memWrite s .reel (statusAddr x t) (leBytes 8 w)
  let s := match chanOf s m.chan with | some y => setChan s m.chan (some { y with tail := y.tail + 1 }) | none => s
  sendMsg s (replyTo s m MK.ACK) 1 false

/-- A PUT for this device. -/
def onPut (s : State) (m : Msg) : State :=
  match openMsg s m with
  | (s, none) => s
  | (s, some m) => match checkMsg s m with
    | .error r => nackHere s m r
    | .ok x => serveWaiting (acceptPut s m x) m.chan

/-- A GET for this device: it is served or waits (R451). -/
def onGet (s : State) (m : Msg) : State :=
  match openMsg s m with
  | (s, none) => s
  | (s, some m) => match checkMsg s m with
    | .error r => nackHere s m r
    | .ok x => serveWaiting (setChan s m.chan (some { x with waits := x.waits ++ [.get m s.now] })) m.chan

/-- The GETs among what waits, with their arrival times. -/
def Chan.gets (x : Chan) : List (Msg × Word) := x.waits.filterMap (fun w => match w with | .get m t => some (m, t) | .take _ _ _ => none)

/-- The oldest GET waiting on a channel finds nothing within GETWAIT ns of its arrival. DESIGN CHOICE: assumption 71. -/
def getExpires (s : State) (c : BitVec 16) : State :=
  match chanOf s c with
  | none => s
  | some x => match x.gets with
    | [] => s
    | (m, t) :: _ =>
      let s := setChan s c (some { x with waits := x.waits.erase (.get m t) })
      nackHere (elapseTo s (t + BitVec.ofNat 64 (s.fld R.GCTL_FABCFG F.GCTL_FABCFG_GETWAIT))) m 3

/-! ### Channel commands (R447, R448, R454) -/

/-- The ring lies in HBM or in one pan, with the rights of its world (R449). -/
def ringOk (s : State) (world : Bool) (base n : Nat) : Bool :=
  (match windowOf base with | .hbm | .pan _ => decide (windowOf (base + n - 1) = windowOf base) | _ => false) && (world || !anySealed s base n)

/-- The channel that the 32 bytes of an entry describe, if they are well formed. -/
def chanOfEntry (s : State) (b : List Byte) : Option Chan :=
  let w (i : Nat) : Word := BitVec.ofNat 64 (ofLe ((b.drop (8 * i)).take 8))
  let x : Chan := { world := bit (w 0) 0, putok := bit (w 0) 1, getok := bit (w 0) 2, anypeer := bit (w 0) 3, slotlog := field (w 0) 7 4,
                    ringlog := field (w 0) 12 8, peer := BitVec.ofNat 12 (field (w 0) 27 16), base := (w 1).toNat, head := 0, tail := 0, waits := [] }
  if field (w 0) 15 13 ≠ 0 ∨ field (w 0) 63 28 ≠ 0 ∨ field (w 1) 7 0 ≠ 0 ∨ field (w 1) 63 48 ≠ 0 ∨ w 3 ≠ 0 ∨ 8 < x.slotlog ∨ 20 < x.ringlog then none
  else if ringOk s x.world x.base (2 ^ x.ringlog * slotBytes x + 8 * 2 ^ x.ringlog) then some x else none

/-- The agent runs in Sealed supervisor. DESIGN CHOICE: assumption 101. -/
def sealedSup (s : State) (a : Agent) : Bool := match a with | .thread t => (s.thr t).world && (s.thr t).level | .host | .mc => false

def chanTable (s : State) (world : Bool) : Nat := (if world then s.fld R.GCTL_CHTABS F.GCTL_CHTABS_ADDR else s.fld R.GCTL_CHTAB F.GCTL_CHTAB_ADDR) * 2 ^ 21

def setChCmd (s : State) (r : Nat) : State := s.setFld R.GCTL_CHCMD F.GCTL_CHCMD_RESULT r
def setChStat (s : State) (x : Chan) : State :=
  (s.updFab (fun f => { f with statWorld := x.world })).setReg R.GCTL_CHSTAT (BitVec.ofNat 64 (x.head.toNat + x.tail.toNat * 2 ^ 32))

/-- OPEN. An entry of the Open table whose WORLD is set names a channel of the Sealed table. -/
def chanOpen (s : State) (a : Agent) (c : BitVec 16) : State :=
  match chanOf s c with
  | some x => setChCmd s (if x.world && !sealedSup s a then 2 else 1)
  | none =>
    let (s, b) := memRead s .mc 0 (chanTable s false + 32 * c.toNat) 32
    let world := match b with | (x, _) :: _ => x.getLsbD 0 | [] => false
    if world && !sealedSup s a then setChCmd s 2
    else
      let (s, b) := if world then memRead s .mc 0 (chanTable s true + 32 * c.toNat) 32 else (s, b)
      match chanOfEntry s (b.map (·.1)) with
      | some x => setChCmd (setChan s c (some x)) 0
      | none => setChCmd s 3

/-- CLOSE: HEAD and TAIL go back to the entry, and the GETs that wait are refused. -/
def chanClose (s : State) (a : Agent) (c : BitVec 16) : State × Bool :=
  match chanOf s c with
  | none => (setChCmd s 1, false)
  | some x =>
    if x.world && !sealedSup s a then (setChCmd s 2, false)
    else
      let s := memWrite s .mc (chanTable s x.world + 32 * c.toNat + 16) (leBytes 4 x.head.toNat ++ leBytes 4 x.tail.toNat)
      let s := setChan (setChStat s x) c none
      (setChCmd (x.gets.foldl (fun z m => nackHere z m.1 1) s) 0, true)

def chanQuery (s : State) (a : Agent) (c : BitVec 16) : State :=
  match chanOf s c with
  | none => setChCmd s 1
  | some x => if x.world && !sealedSup s a then setChCmd s 2 else setChCmd (setChStat s x) 0

def chanConsume (s : State) (a : Agent) (c : BitVec 16) (n : Nat) : State :=
  match chanOf s c with
  | none => setChCmd s 1
  | some x =>
    if x.world && !sealedSup s a then setChCmd s 2
    else if x.used < n then setChCmd s 4
    else
      let x := { x with head := x.head + BitVec.ofNat 32 n }
      setChCmd (setChStat (setChan s c (some x)) x) 0

end Sys2Proof.Machine
end

