-- ==== Sys2Proof/Machine/Sluice.lean ====
section
/-! DEFINITION. Sluice transfer engines (11_sluice_transfers.md): descriptors and their checks, the runs of a COPY and the bytes
they move, control operations, check units, writeback, halts, and beat tags. -/

namespace Sys2Proof.Machine
open Sys2Proof

def allEngines : List EngineId := List.finRange 16
def allQueues : List QueueId := List.finRange 4
/-- Every queue of the device. -/
def allSlq : List (EngineId × QueueId) := allEngines.flatMap (fun e => allQueues.map (fun q => (e, q)))

def State.updSlq (s : State) (e : EngineId) (q : QueueId) (f : SlQueue → SlQueue) : State := s.setSlq e q (f (s.slq e q))
def qState (s : State) (e : EngineId) (q : QueueId) : Nat := s.fld (R.SLUICE_QSTAT e q) F.SLUICE_QSTAT_STATE
def qHead (s : State) (e : EngineId) (q : QueueId) : Nat := s.fld (R.SLUICE_QHEAD e q) F.SLUICE_QHEAD_INDEX
def qTail (s : State) (e : EngineId) (q : QueueId) : Nat := s.fld (R.SLUICE_QTAIL e q) F.SLUICE_QTAIL_INDEX
def qSize (s : State) (e : EngineId) (q : QueueId) : Nat := s.fld (R.SLUICE_QCFG e q) F.SLUICE_QCFG_SIZE
def qEn (s : State) (e : EngineId) (q : QueueId) : Bool := s.flag (R.SLUICE_QCFG e q) F.SLUICE_QCFG_EN
/-- The queue's world (R392): true Sealed. -/
def qWorld (s : State) (e : EngineId) (q : QueueId) : Bool := s.flag (R.SLUICE_QCFG e q) F.SLUICE_QCFG_WORLD
/-- QSTAT.STATE (R420). -/
def QS.IDLE : Nat := 0
def QS.RUNNING : Nat := 1
def QS.WAIT_TAG : Nat := 2
def QS.WAIT_COUNTER : Nat := 3
def QS.HALTED : Nat := 5
def QS.OFF : Nat := 6
/-- Statuses (R415). -/
def ST.OK : Nat := 0
def ST.OK_EMPTY : Nat := 1
def ST.POISONED : Nat := 2
def ST.BAD_DESC : Nat := 3
def ST.ADDR_RANGE : Nat := 4
def ST.ACCESS : Nat := 5
def ST.LENGTH_RANGE : Nat := 6
def ST.TRANSLATE : Nat := 7
def ST.BEAT_ABORT : Nat := 8
def ST.BEAT_LATE : Nat := 9
def ST.CHANNEL : Nat := 10
def ST.MSG_SIZE : Nat := 11
def ST.ALIVE : Nat := 12
def ST.ABORTED : Nat := 13

/-! ### Rings (R391, R414, R420) -/

def slotOf (s : State) (e : EngineId) (q : QueueId) : Nat :=
  let n := 2 ^ qSize s e q
  s.fld (R.SLUICE_QBASE e q) F.SLUICE_QBASE_ADDR * 64 / (64 * n) * (64 * n) + 64 * (qHead s e q % n)
def wbSlot (s : State) (e : EngineId) (q : QueueId) : Nat :=
  let n := 2 ^ qSize s e q
  s.fld (R.SLUICE_QWB e q) F.SLUICE_QWB_ADDR * 32 / (32 * n) * (32 * n) + 32 * (qHead s e q % n)

/-! ### Descriptors (R394, R395, R406) -/

/-- Bits [hi:lo] of bytes taken as one little-endian number. -/
def bitsAt (b : List Byte) (hi lo : Nat) : Nat := ofLe b / 2 ^ lo % 2 ^ (hi + 1 - lo)

/-- The address of a side without the fields in its bits [62:57]. -/
def sideBits (w : Nat) : Nat := w % 2 ^ 57 + w / 2 ^ 63 * 2 ^ 63

def parseDesc (b : List Byte) : Desc :=
  { op := bitsAt b 59 57, smode := bitsAt b 61 60, irq := decide (bitsAt b 62 62 ≠ 0), src := sideBits (bitsAt b 63 0),
    dst := sideBits (bitsAt b 127 64), chk := bitsAt b 122 121, alive := bitsAt b 124 123, cren := decide (bitsAt b 125 125 ≠ 0),
    cnt := (bitsAt b 159 128, bitsAt b 191 160, bitsAt b 271 240, bitsAt b 351 320),
    str := (sextNat (bitsAt b 239 192) 48, sextNat (bitsAt b 319 272) 48, sextNat (bitsAt b 399 352) 48),
    tag := bitsAt b 415 400, sext := bitsAt b 459 416, dext := bitsAt b 503 460, credit := bitsAt b 511 504,
    bad := decide (bitsAt b 126 126 ≠ 0) || decide (5 ≤ bitsAt b 59 57) || decide (bitsAt b 61 60 = 3) || decide (bitsAt b 122 121 = 3) ||
      decide (bitsAt b 124 123 = 3) }

inductive SideKind where
  | dev | sva | chan | bad
  deriving DecidableEq, Repr

/-- What an address field names (R395). -/
def sideKind (a : Nat) : SideKind :=
  if isSva a then .sva
  else if isDevice a then .dev
  else if a < 2 ^ 63 ∧ a / 2 ^ 56 % 2 = 1 ∧ a / 2 ^ 28 % 2 ^ 28 = 0 then .chan
  else .bad

def Desc.side (d : Desc) (src : Bool) : Nat := if src then d.src else d.dst
def chanDev (a : Nat) : BitVec 12 := BitVec.ofNat 12 (a / 2 ^ 16)
def chanNo (a : Nat) : BitVec 16 := BitVec.ofNat 16 a
/-- The side is strided under SMODE. -/
def Desc.strided (d : Desc) (src : Bool) : Bool := decide (d.smode = 2) || decide (d.smode = (if src then 0 else 1))
def Desc.runs (d : Desc) : Nat := d.cnt.2.1 * d.cnt.2.2.1 * d.cnt.2.2.2
def Desc.runIndex (d : Desc) (r : Nat) : Nat × Nat × Nat := (r % d.cnt.2.1, r / d.cnt.2.1 % d.cnt.2.2.1, r / (d.cnt.2.1 * d.cnt.2.2.1))

/-- A side of a Sealed queue in host memory, whose runs are records (R558). -/
def recordSide (s : State) (e : EngineId) (q : QueueId) (d : Desc) (src : Bool) : Bool := qWorld s e q && decide (sideKind (d.side src) = .sva)
/-- COUNT0 of a side, with the 32 bytes that a record adds. -/
def runLen (s : State) (e : EngineId) (q : QueueId) (d : Desc) (src : Bool) : Nat := d.cnt.1 + (if recordSide s e q d src then 32 else 0)

def stridePart (d : Desc) (f : Int → Int) : Int :=
  ((d.cnt.2.1 : Int) - 1) * f d.str.1 + ((d.cnt.2.2.1 : Int) - 1) * f d.str.2.1 + ((d.cnt.2.2.2 : Int) - 1) * f d.str.2.2
/-- min of R399. -/
def strideMin (d : Desc) : Int := stridePart d (fun x => min x 0)
/-- Bytes that the pattern of a side covers from its address (R399). -/
def span (s : State) (e : EngineId) (q : QueueId) (d : Desc) (src : Bool) : Nat :=
  if d.strided src then ((runLen s e q d src : Int) + stridePart d (fun x => max x 0) - strideMin d).toNat
  else runLen s e q d src * d.runs

/-- Offset of run `r`'s first byte (R396). -/
def runOffset (s : State) (e : EngineId) (q : QueueId) (d : Desc) (src : Bool) (r : Nat) : Nat :=
  let i := d.runIndex r
  if d.strided src then ((i.1 : Int) * d.str.1 + (i.2.1 : Int) * d.str.2.1 + (i.2.2 : Int) * d.str.2.2 - strideMin d).toNat
  else runLen s e q d src * r
/-- Address of byte 0 of run `r`. -/
def runAddr (s : State) (e : EngineId) (q : QueueId) (d : Desc) (src : Bool) (r : Nat) : Nat := d.side src + runOffset s e q d src r

/-- The transfer key slot of a queue (R558). -/
def keySlot (s : State) (e : EngineId) (q : QueueId) : Nat := field (s.reg (R.SEC_QKEY e)) (4 * q.val + 3) (4 * q.val)
def keyReady (s : State) (e : EngineId) (q : QueueId) : Bool :=
  bit (s.reg (R.SEC_QKEY e)) (16 + q.val) && s.flag (R.SEC_TKEY_CTL (keySlot s e q)) F.SEC_TKEY_CTL_VALID

/-! ### Checks at fetch (R398, R406, R409, R411, R412, R558) -/

/-- The check unit serves the descriptor's queue: a descriptor with CHK = 1 samples OWNQ, one with CHK = 2 goes by the last sample (R412). -/
def checkServes (s : State) (e : EngineId) (q : QueueId) (d : Desc) : Bool :=
  decide (d.chk = 0) || decide ((if d.chk = 1 then s.fld (R.SLUICE_CHKCFG e) F.SLUICE_CHKCFG_OWNQ else (s.chk[e]).ownq) = q.val)

/-- A COPY is well formed. -/
def copyOk (s : State) (e : EngineId) (q : QueueId) (d : Desc) : Bool :=
  let a := sideKind d.src
  let b := sideKind d.dst
  decide (a ≠ .bad) && decide (b ≠ .bad) && !(decide (a = .chan) && (decide (b = .chan) || decide (d.smode ≠ 1))) &&
    !(decide (b = .chan) && decide (d.smode ≠ 0)) && !((decide (a = .chan) || decide (b = .chan)) && decide (65536 < d.cnt.1)) &&
    !(decide (d.alive = 1) && decide (b ≠ .chan)) && !(decide (d.alive = 2) && decide (a ≠ .chan)) &&
    checkServes s e q d &&
    (!(recordSide s e q d true || recordSide s e q d false) || keyReady s e q)

/-- A control operation is well formed. -/
def controlOk (s : State) (e : EngineId) (q : QueueId) (d : Desc) : Bool :=
  decide (d.src = 0) && decide (d.dst = 0) && decide (d.smode = 0) && decide (d.chk = 0) && decide (d.alive = 0) && !d.cren &&
    decide (d.str = (0, 0, 0)) && decide (d.sext = 0) && decide (d.dext = 0) && decide (d.credit = 0) &&
    (match d.op with
    | 2 => decide (1 ≤ d.cnt.2.1) && decide (d.cnt.2.1 < 2 ^ qSize s e q) && decide (d.cnt.2.2.1 < 2)
    | 3 | 4 => decide (d.cnt.1 < 256)
    | _ => true)

/-- Step 3: the pattern of a side lies within its declared extent. -/
def extentOk (s : State) (e : EngineId) (q : QueueId) (d : Desc) (src : Bool) : Bool :=
  decide (sideKind (d.side src) = .chan) || decide (span s e q d src ≤ (if src then d.sext else d.dext))

/-- Step 4: the pattern of a side lies in one mapped window. -/
def windowOk (s : State) (e : EngineId) (q : QueueId) (d : Desc) (src : Bool) : Bool :=
  let a := d.side src
  let n := span s e q d src
  match sideKind a with
  | .sva => decide (a % 2 ^ 57 + n ≤ 2 ^ 57)
  | .dev => (match windowOf a with | .hbm | .pan _ | .session => true | _ => false) && decide (windowOf (a + n - 1) = windowOf a)
  | .chan | .bad => true

/-- Step 5: the queue's world has the rights of R105 over a side. DESIGN CHOICE: assumption 67. -/
def rightOk (s : State) (e : EngineId) (q : QueueId) (d : Desc) (src : Bool) : Bool :=
  decide (sideKind (d.side src) ≠ .dev) || windowRight s (qWorld s e q) true (if src then .load else .store) (d.side src) (span s e q d src)

/-- The status with which a descriptor ends at fetch, if it does. DEDUCED: assumption 65. -/
def fetchStatus (s : State) (e : EngineId) (q : QueueId) (d : Desc) : Option Nat :=
  if d.bad then some ST.BAD_DESC
  else if d.op ≠ 1 then (if controlOk s e q d then none else some ST.BAD_DESC)
  else if !copyOk s e q d then some ST.BAD_DESC
  else if d.cnt.1 * d.runs = 0 then some ST.OK_EMPTY
  else if !(extentOk s e q d true && extentOk s e q d false) then some ST.LENGTH_RANGE
  else if !(windowOk s e q d true && windowOk s e q d false) then some ST.ADDR_RANGE
  else if !(rightOk s e q d true && rightOk s e q d false) then some ST.ACCESS
  else none

/-! ### Events, EDONE and states -/

/-- DONE (bit q) and HALT (bit 4 + q) events (R420). -/
def slEvent (s : State) (e : EngineId) (b : Nat) (en : Fld) : State :=
  let s := s.setReg (R.SLUICE_ISTAT e) (setBit (s.reg (R.SLUICE_ISTAT e)) b true)
  if s.flag (R.SLUICE_IRQ e) en then
    let s := raiseSource s e.val
    if s.flag (R.SLUICE_IRQ e) F.SLUICE_IRQ_MSI_EN then sendMsix s (s.fld (R.SLUICE_IRQ e) F.SLUICE_IRQ_MSIVEC) else s
  else s

/-- d of R404: the tag against the current beat. -/
def tagDist (s : State) (tag : Nat) : Int := sextNat (tag + 65536 - s.beatNo.toNat % 65536) 16

/-- The descriptor at a queue's head, not yet fetched, counts for this beat while EDONE is clear (R404, R405). -/
def headCounts (s : State) (e : EngineId) (q : QueueId) : Bool :=
  qEn s e q && decide (qState s e q = QS.RUNNING) && decide (qHead s e q ≠ qTail s e q) && ringOk s (qWorld s e q) (slotOf s e q) 64 &&
    (let t := (parseDesc (peekBytes s (slotOf s e q) 64)).tag
     decide (t = 0xFFFF) || (decide (t ≠ 0) && decide (tagDist s t = 0)))

/-- No queue of the engine has a counting descriptor at its head or running: its EDONE bit is set (R405). -/
def edoneAfter (s : State) (e : EngineId) : State :=
  if bit (s.reg R.BEAT_EDONE) e.val then s
  else if allQueues.any (fun q => match (s.slq e q).desc with | some _ => (s.slq e q).counts | none => headCounts s e q) then s
  else setEdone s e.val

/-- The queue has no descriptor and shows what R420 says. -/
def queueIdle (s : State) (e : EngineId) (q : QueueId) : State :=
  setQState s e q (if !qEn s e q then QS.OFF else if qHead s e q = qTail s e q then QS.IDLE else QS.RUNNING)

def setActive (s : State) (e : EngineId) (q : QueueId) (b : Bool) : State := s.setReg (R.SLUICE_STAT e) (setBit (s.reg (R.SLUICE_STAT e)) q.val b)

/-- The check unit of `e` that queue `q` uses is free again. -/
def freeCheck (s : State) (e : EngineId) (q : QueueId) : State :=
  if (s.chk[e]).owner = some q then
    { s with chk := s.chk.set e { s.chk[e] with owner := none } }.setFlag (R.SLUICE_STAT e) F.SLUICE_STAT_CHKBUSY false
  else s

/-- Queue `q` gives up its descriptor and holds `x`; host reads that have no completion yet stay known (R372). -/
def leaveDesc (s : State) (e : EngineId) (q : QueueId) (x : SlQueue := {}) : State :=
  let y := s.slq e q
  s.setSlq e q { x with orphans := y.orphans ++ y.host.filter (fun h => decide (h.reply = .waiting)) }

/-- A queue halts (R417): it holds its descriptor at QHEAD. One whose EN is clear shows OFF (R419). -/
def haltQueue (s : State) (e : EngineId) (q : QueueId) (cur : Option (Nat × Nat)) : State :=
  let x := s.slq e q
  let u := s.chk[e]
  let raw := (s.reg (R.SLUICE_CHKSTATE e)).toNat
  let save := if cur.isSome then (if u.owner = some q then some (u, raw) else x.chkSave) else none
  let s := freeCheck (leaveDesc s e q { cursor := cur, poison := x.poison && cur.isSome, chkSave := save }) e q
  let s := setActive (setQState s e q (if qEn s e q then QS.HALTED else QS.OFF)) e q false
  edoneAfter (slEvent s e (4 + q.val) F.SLUICE_IRQ_HALT_EN) e

/-- R391. -/
def haltRing (s : State) (e : EngineId) (q : QueueId) : State := haltQueue (s.setFld (R.SLUICE_QSTAT e q) F.SLUICE_QSTAT_LAST ST.ADDR_RANGE) e q none

/-! ### Writeback and the end of a descriptor (R414–R419) -/

/-- The check unit's settings and result (R412, R413). -/
def checkUnit (s : State) (e : EngineId) : ChkUnit := s.chk[e]
def checkFinal (u : ChkUnit) (reg : Nat) : Nat := crcEnd u.width u.refout u.xorout reg

/-- The writeback record: CUR0 and the run of the cursor, if it has one. -/
def wbBytes (s : State) (e : EngineId) (q : QueueId) (x : SlQueue) (d : Desc) (st : Nat) (cur : Option (Nat × Nat)) (check : Nat) : List Byte :=
  let stamp := if st = ST.ALIVE then x.stamp else 0
  let c := match cur with | some (o, r) => let i := d.runIndex r; (o, i.1, i.2.1, i.2.2) | none => (0, 0, 0, 0)
  leBytes 4 (st + boolNat x.poison * 2 ^ 8 + boolNat cur.isSome * 2 ^ 9 + stamp * 2 ^ 16) ++ leBytes 4 (s.fld (R.SLUICE_QDONE e q) F.SLUICE_QDONE_COUNT) ++
    leBytes 4 c.1 ++ leBytes 4 c.2.1 ++ leBytes 4 c.2.2.1 ++ leBytes 4 c.2.2.2 ++ leBytes 8 check

/-- The statuses that halt a queue with HALTERR (R415). -/
def halts (st : Nat) : Bool := decide (st ∈ [3, 4, 5, 6, 7, 10, 11, 12, 13])

/-- The current descriptor ends with status `st`, with a cursor or none; `back` is how far a LOOP moves QHEAD back. DESIGN CHOICE: assumption 111. -/
def endDesc (s : State) (e : EngineId) (q : QueueId) (st : Nat) (cur : Option (Nat × Nat) := none) (back : Option Nat := none) : State :=
  let x := s.slq e q
  match x.desc with
  | none => s
  | some d =>
    if !ringOk s (qWorld s e q) (wbSlot s e q) 32 then haltRing s e q
    else
      let raw := (s.reg (R.SLUICE_CHKSTATE e)).toNat
      let whole := decide (st = ST.OK ∨ st = ST.POISONED)
      let checks := decide ((s.chk[e]).owner = some q)
      let check := if !checks then 0 else if whole then checkFinal (checkUnit s e) raw else if cur.isSome then raw else 0
      let s := if checks && whole then s.setReg (R.SLUICE_CHKRES e) (BitVec.ofNat 64 check) else s
      let b := wbBytes s e q x d st cur check
      let s := memWrite s (.sluice e) (wbSlot s e q + 8) (b.drop 8)
      let s := memWrite s (.sluice e) (wbSlot s e q) (b.take 8)
      let s := (s.bump32 (R.SLUICE_QDONE e q) 1).bump (R.SLUICE_DESCS e) 1
      let s := s.setFld (R.SLUICE_QSTAT e q) F.SLUICE_QSTAT_LAST st
      let s := if d.irq then slEvent s e q.val F.SLUICE_IRQ_DONE_EN else s
      if st = ST.ABORTED ∧ x.cleared then edoneAfter (setActive (queueIdle (freeCheck (leaveDesc s e q) e q) e q) e q false) e
      else if halts st ∧ s.flag (R.SLUICE_QCFG e q) F.SLUICE_QCFG_HALTERR then haltQueue s e q cur
      else
        let h := match back with | some n => qHead s e q + 2 ^ 32 - n | none => qHead s e q + 1
        let s := (freeCheck (leaveDesc s e q) e q).setFld (R.SLUICE_QHEAD e q) F.SLUICE_QHEAD_INDEX h
        edoneAfter (setActive (queueIdle s e q) e q false) e

/-- A run fails with status `st` at its byte `off`; a stop that waits comes first (R416). While PUTs of earlier runs await their
replies, the descriptor ends behind them. -/
def failRun (s : State) (e : EngineId) (q : QueueId) (st : Nat) : State :=
  let x := s.slq e q
  if x.flights.isEmpty then endDesc s e q (x.stop.getD st) (some (x.off, x.run))
  else
    let late := x.host.filter (fun h => decide (h.reply = .waiting))
    setQState (s.setSlq e q { x with stop := some (x.stop.getD st), off := 0, phase := 0, buf := none, host := [], refusal := none, pushed := 0,
                                     wait := .none, misses := [], orphans := x.orphans ++ late }) e q QS.RUNNING

/-! ### Counters (R400, R406, R408) -/

def counterReg (c : Nat) : Nat := R.SLUICE_CNT (c / 16 % 16) (c % 16)

/-- A WAIT's condition. -/
def waitMet (s : State) (d : Desc) : Bool :=
  decide (0 ≤ sextNat (s.fld (counterReg d.cnt.1) F.SLUICE_CNT_VALUE + 2 ^ 32 - d.cnt.2.1) 32)

/-- The WAITs whose condition holds end. -/
def endWaits (s : State) : State :=
  allSlq.foldl (fun z (e, q) =>
    match (z.slq e q).desc with
    | some d => if qState z e q = QS.WAIT_COUNTER ∧ waitMet z d then endDesc z e q ST.OK else z
    | none => z) s

/-- An addition to device counter `c`. -/
def addCounter (s : State) (c v : Nat) : State := endWaits (s.bump32 (counterReg c) v)

/-! ### Fetch and begin (R389, R398, R404) -/

/-- A run begins: nothing of it has moved. -/
def startRun (s : State) (e : EngineId) (q : QueueId) (r off : Nat) : State :=
  s.updSlq e q (fun x => { x with run := r, off := off, phase := 0, buf := none, xid := none, host := [], refusal := none, pushed := 0 })

/-- The check unit begins for the queue: from its settings and CHKINIT, from CHKSTATE, or, after a RETRY, from the settings and the raw
register that the halted descriptor left (R412, R413). While it computes for another queue the descriptor waits (R393). -/
def beginCheck (s : State) (e : EngineId) (q : QueueId) (d : Desc) : State :=
  if d.chk = 0 then s
  else if (s.chk[e]).owner.any (fun o => decide (o ≠ q)) then s.updSlq e q (fun x => { x with waitChk := true })
  else
    let own (s : State) (u : ChkUnit) : State := { s with chk := s.chk.set e { u with owner := some q } }
    let s := (s.updSlq e q (fun x => { x with waitChk := false })).setFlag (R.SLUICE_STAT e) F.SLUICE_STAT_CHKBUSY true
    match (s.slq e q).chkSave with
    | some (u, raw) => (own s u).setReg (R.SLUICE_CHKSTATE e) (BitVec.ofNat 64 raw)
    | none =>
    if d.chk = 1 then
      let c := s.reg (R.SLUICE_CHKCFG e)
      let w := getF c F.SLUICE_CHKCFG_WIDTH
      let u : ChkUnit := { width := w, ownq := getF c F.SLUICE_CHKCFG_OWNQ, poly := (s.reg (R.SLUICE_CHKPOLY e)).toNat, refin := decide (getF c F.SLUICE_CHKCFG_REFIN ≠ 0),
                           refout := decide (getF c F.SLUICE_CHKCFG_REFOUT ≠ 0), xorout := (s.reg (R.SLUICE_CHKXOR e)).toNat }
      (own s u).setReg (R.SLUICE_CHKSTATE e) (BitVec.ofNat 64 ((s.reg (R.SLUICE_CHKINIT e)).toNat % 2 ^ w))
    else own s s.chk[e]

/-- A descriptor that waits for a check unit that is free again begins its check. -/
def checkTurn (s : State) (e : EngineId) (q : QueueId) : State :=
  match (s.slq e q).desc with
  | some d => if (s.slq e q).waitChk then beginCheck s e q d else s
  | none => s

/-- The descriptors that wait for a check unit, once it is free. -/
def checkTurns (s : State) : State := allSlq.foldl (fun z (e, q) => if (z.slq e q).waitChk then checkTurn z e q else z) s

/-- The descriptor that a queue holds begins: the checks of R398, then its first run or the one of its cursor. DEDUCED: assumption 65. -/
def beginDesc (s : State) (e : EngineId) (q : QueueId) : State :=
  match (s.slq e q).desc with
  | none => s
  | some d =>
    let s := setQState s e q QS.RUNNING
    match fetchStatus s e q d with
    | some st => endDesc s e q st
    | none =>
      if d.op ≠ 1 then s
      else
        let c := (s.slq e q).cursor
        let r := (c.getD (0, 0)).2
        -- a descriptor stopped at the end of its last run has nothing left to move
        let s := beginCheck (startRun s e q r ((c.getD (0, 0)).1)) e q d
        if d.runs ≤ r then endDesc s e q (if (s.slq e q).poison then ST.POISONED else ST.OK) else s

/-- The descriptor at QHEAD is read and reached (R391, R404). A RETRY does not judge the tag again. -/
def fetchDesc (s : State) (e : EngineId) (q : QueueId) (retry : Bool) : State :=
  let a := slotOf s e q
  if !ringOk s (qWorld s e q) a 64 then haltRing s e q
  else
    let (s, bs) := memRead s (.sluice e) 0 a 64
    let d := parseDesc (bs.map (·.1))
    let y := s.slq e q
    let keep := retry && y.cursor.isSome
    let s := leaveDesc s e q { desc := some d, descAddr := a, cursor := if retry then y.cursor else none, poison := keep && y.poison,
                               chkSave := if keep then y.chkSave else none }
    let s := setActive s e q true
    let done := bit (s.reg R.BEAT_EDONE) e.val
    let dist := tagDist s d.tag
    if retry ∨ d.tag = 0 then edoneAfter (beginDesc s e q) e
    else if (d.tag = 0xFFFF ∨ dist = 0) ∧ !done then beginDesc (s.updSlq e q (fun x => { x with counts := true })) e q
    else if d.tag = 0xFFFF ∨ 0 < dist then edoneAfter (setQState s e q QS.WAIT_TAG) e
    else endDesc s e q ST.BEAT_LATE

/-- A queue reaches its next descriptor, when it is enabled and has one whose row is not being copied (R342). -/
def fetchNext (s : State) (e : EngineId) (q : QueueId) : State :=
  if qEn s e q && decide (qState s e q = QS.RUNNING) && (s.slq e q).desc.isNone && decide (qHead s e q ≠ qTail s e q) && !anyRowBusy s (slotOf s e q) 64 then fetchDesc s e q false
  else s

/-! ### The bytes of a run (R396, R400–R402, R413) -/

/-- Bytes delivered enter the count, the check unit and the POISON flag. DESIGN CHOICE: assumption 67. -/
def delivered (s : State) (e : EngineId) (q : QueueId) (d : Desc) (bs : List (Byte × Bool)) : State :=
  let s := s.bump (R.SLUICE_BYTES e) bs.length
  let s := if bs.any (·.2) then s.updSlq e q (fun x => { x with poison := true }) else s
  if d.chk = 0 then s
  else
    let u := checkUnit s e
    s.setReg (R.SLUICE_CHKSTATE e) (BitVec.ofNat 64 (crcFeed u.width u.poly u.refin (s.reg (R.SLUICE_CHKSTATE e)).toNat (bs.map (·.1))))

/-- `n` bytes of the run have been delivered. -/
def advance (s : State) (e : EngineId) (q : QueueId) (d : Desc) (bs : List (Byte × Bool)) : State :=
  (delivered s e q d bs).updSlq e q (fun x =>
    { x with off := x.off + bs.length, phase := if d.cnt.1 ≤ x.off + bs.length then 2 else x.phase })

/-- The queue parks at the current byte (R385): the cursor goes to its record. -/
def parkQueue (s : State) (e : EngineId) (q : QueueId) (d : Desc) (w : Wait) (ms : List Miss) : State :=
  let x := s.slq e q
  let i := d.runIndex x.run
  let s := s.setSlq e q { x with stallAt := x.off }
  let s := setWait s (.sluice e q) w ms
  if ringOk s (qWorld s e q) (wbSlot s e q) 32 then
    memWrite s (.sluice e) (wbSlot s e q + 8) (leBytes 4 x.off ++ leBytes 4 i.1 ++ leBytes 4 i.2.1 ++ leBytes 4 i.2.2)
  else s

/-- Translation for the byte at `va` (R358, R401): its translated address and attributes, or none when the queue waits or the
descriptor has ended. -/
def slTranslate (s : State) (e : EngineId) (q : QueueId) (d : Desc) (va : Nat) (write : Bool) : State × Option (Nat × Bool × Bool) :=
  if !canSend s then (parkQueue s e q d .busMaster [], none)
  else
    match translate s (FAgent.cache (.sluice e q)) (va % 2 ^ 57) write false with
    | (s, .ok pa untr ns) => (s, some (pa, untr, ns))
    | (s, .refused) => (failRun (s.bump R.FQ_REFUSED 1) e q ST.TRANSLATE, none)
    | (s, .miss) =>
      let page := va % 2 ^ 57 / 4096
      let s := askAts s page (!write)
      (parkQueue s e q d (.ats [page]) [{ va := va, write := write, atomic := false, elem := 0, vec := false }], none)

/-- Bytes from `a` to the end of its page. -/
def pageLeft (a : Nat) : Nat := 4096 - a % 4096

/-- A read of `n` bytes of host memory at `va`, within a page: requested once, the bytes when they have come. -/
def slHostRead (s : State) (e : EngineId) (q : QueueId) (d : Desc) (va n : Nat) : State × Option (List (Byte × Bool)) :=
  match (s.slq e q).host.find? (fun h => decide (h.va = va)) with
  | none =>
    match slTranslate s e q d va false with
    | (s, none) => (s, none)
    | (s, some (pa, untr, ns)) =>
      let (s, tag) := s.newTag
      let s := s.emit (.hostRead tag pa n (!untr) ns (pasidOf s))
      (s.updSlq e q (fun x => { x with host := x.host ++ [{ tag := tag, va := va, len := n, reply := .waiting }] }), none)
  | some h =>
    match h.reply with
    | .waiting => (s, none)
    | .failed => (failRun (s.bump R.FQ_REFUSED 1) e q ST.TRANSLATE, none)
    | .data bs bad => (s, some (bs.map (fun b => (b, bad))))

def dropHost (s : State) (e : EngineId) (q : QueueId) (va : Nat) : State :=
  s.updSlq e q (fun x => { x with host := x.host.filter (fun h => decide (h.va ≠ va)) })

/-- Bytes go to device memory, or posted to the host, where marked data is a poisoned TLP (R402). -/
def slHostWrite (s : State) (pa : Nat) (untr ns : Bool) (bs : List (Byte × Bool)) : State :=
  s.emit (.hostWrite pa (bs.map (·.1)) (!untr) ns (pasidOf s) (bs.any (·.2)))

/-- Lookahead (R386): a miss in the first page of either of the next two runs is asked for, and does nothing else. DESIGN CHOICE: assumption 64. -/
def lookAhead (s : State) (e : EngineId) (q : QueueId) (d : Desc) (r : Nat) : State :=
  if !canSend s then s
  else
    let ask (z : State) (src : Bool) (k : Nat) : State :=
      if sideKind (d.side src) ≠ .sva ∨ d.runs ≤ k then z
      else
        let v := runAddr z e q d src k % 2 ^ 57
        match translate z (FAgent.cache (.sluice e q)) v (!src) false with
        | (z, .miss) => askAts z (v / 4096) src
        | (z, _) => z
    [(true, r + 1), (false, r + 1), (true, r + 2), (false, r + 2)].foldl (fun z p => ask z p.1 p.2) s

/-! ### Records to and from the host (R558, R559) -/

def tkeyBits (s : State) (k : Nat) : BitVec 256 :=
  BitVec.ofNat 256 (ofLe ((List.range 4).flatMap (fun j => leBytes 8 (s.reg (R.SEC_TKEY_KEY k j)).toNat)))
def recordIv (s : State) (k seq : Nat) : List Byte := leBytes 4 (s.fld (R.SEC_TKEY_CTL k) F.SEC_TKEY_CTL_FIXED) ++ leBytes 8 seq
def recordAad (va n : Nat) : List Byte := leBytes 8 va ++ leBytes 4 n

/-- The record of a run's bytes, for host address `va`; the slot's TXSEQ increases, and at its end VALID clears. -/
def sealRecord (s : State) (k va : Nat) (b : List Byte) : State × List Byte :=
  let seq := (s.reg (R.SEC_TKEY_TXSEQ k)).toNat
  let key := tkeyBits s k
  let ct := Config.gcmSeal key (recordIv s k seq) (recordAad va b.length) b
  let tag := Config.gcmTag key (recordIv s k seq) (recordAad va b.length) ct
  let s := if seq + 1 = 2 ^ 64 then s.setFlag (R.SEC_TKEY_CTL k) F.SEC_TKEY_CTL_VALID false else s.bump (R.SEC_TKEY_TXSEQ k) 1
  (s, (ct ++ List.replicate (b.length - ct.length) 0).take b.length ++ leBytes 8 seq ++ List.replicate 8 0 ++ leBytes 16 tag.toNat)

/-- The run of `n` bytes that a record read at `va` holds; marked Deferred when its tag or MONO fails. -/
def openRecord (s : State) (k va n : Nat) (r : List (Byte × Bool)) : State × List (Byte × Bool) :=
  let b := r.map (·.1)
  let ct := b.take n
  let seq := ofLe ((b.drop n).take 8)
  let key := tkeyBits s k
  let good := decide (Config.gcmTag key (recordIv s k seq) (recordAad va n) ct = BitVec.ofNat 128 (ofLe (b.drop (n + 16)))) && !r.any (·.2)
  let mono := s.flag (R.SEC_TKEY_CTL k) F.SEC_TKEY_CTL_MONO
  let fresh := !mono || decide ((s.reg (R.SEC_TKEY_RXSEQ k)).toNat < seq)
  let pt := (Config.gcmOpen key (recordIv s k seq) (recordAad va n) ct ++ List.replicate n 0).take n
  if good && fresh then
    ((if mono then s.setReg (R.SEC_TKEY_RXSEQ k) (BitVec.ofNat 64 seq) else s), pt.map (fun x => (x, false)))
  else (s.bump R.SEC_AUTHFAIL 1, pt.map (fun x => (x, true)))

/-! ### Channels (R410, R411, R445, R457) -/

/-- PUTs and GETs of engine `e` that await their replies. -/
def engineReqs (s : State) (e : EngineId) : Nat :=
  (s.fab.reqs.filter (fun r => match r.owner with | .sluice f _ => decide (f = e) | .collector _ => false)).length

/-- Another request of the engine may leave: at most 64 await replies (R445). -/
def mayRequest (s : State) (e : EngineId) : Bool := decide (engineReqs s e < 64)

/-- A request of this queue leaves, and awaits its reply under a new XID: a GET, or the PUT of a run's bytes. -/
def sendRequest (s : State) (e : EngineId) (q : QueueId) (m : Msg) (put : Option (List (Byte × Bool))) : State :=
  let xid := s.fab.nextXid
  let m := { m with xid := xid }
  let run := (s.slq e q).run
  let s := s.updFab (fun f =>
    { f with nextXid := xid + 1, reqs := f.reqs ++ [{ xid := xid, owner := .sluice e q, dst := m.dst, run := run, sentAt := s.now }] })
  let s := match put with
    | some bs => s.updSlq e q (fun x => { x with flights := x.flights ++ [{ run := run, xid := xid, bytes := bs }], phase := 1, buf := none })
    | none => s.updSlq e q (fun x => { x with xid := some xid, phase := 1 })
  let (s, m) := if qWorld s e q then sealMsg s m else (s, m)
  sendMsg s m 1 false

/-- A message received for a run (R410, R411): its bytes are the run's, or the descriptor ends. -/
def takeMessage (s : State) (e : EngineId) (q : QueueId) (d : Desc) (bs : List (Byte × Bool)) (stamp : Option (BitVec 16)) : State :=
  if bs.length ≠ d.cnt.1 then failRun s e q ST.MSG_SIZE
  else
    let want := s.fld (R.SLUICE_QALIVE e q) F.SLUICE_QALIVE_VALUE
    if d.alive = 2 ∧ stamp.map (·.toNat) ≠ some want then
      failRun (s.updSlq e q (fun x => { x with stamp := (stamp.getD 0).toNat })) e q ST.ALIVE
    else
      let s := if d.alive = 2 then s.setFld (R.SLUICE_QALIVE e q) F.SLUICE_QALIVE_VALUE (want + 1) else s
      s.updSlq e q (fun x => { x with buf := some bs, phase := 3, xid := none })

/-- The place of the queue's descriptor among what waits on a channel. -/
def takeOf (s : State) (e : EngineId) (q : QueueId) : Waiter := .take e q (s.fld (R.SLUICE_QDONE e q) F.SLUICE_QDONE_COUNT)

/-- The source of a run that is a channel. -/
def fromChannel (s : State) (e : EngineId) (q : QueueId) (d : Desc) : State :=
  let dev := chanDev d.src
  let c := chanNo d.src
  if !isMember s dev.toNat then failRun s e q ST.CHANNEL
  else if dev ≠ s.devId then (if mayRequest s e then sendRequest s e q (ownMsg s MK.GET c dev 0 d.cnt.1 []) none else s)
  else
    match chanOf s c with
    | none => failRun s e q ST.CHANNEL
    | some y =>
      if y.world ≠ qWorld s e q then failRun s e q ST.CHANNEL
      else
        -- a take waits its turn among what reached the channel before it (R453)
        let me := takeOf s e q
        if me ∈ y.waits then s
        else if !y.waits.isEmpty || decide (y.used = 0) then setChan s c (some { y with waits := y.waits ++ [me] })
        else
          match takeHead s c with
          | (s, none) => s
          | (s, some k) => takeMessage s e q d k.data k.stamp

/-- A run's bytes leave as one PUT. -/
def toChannel (s : State) (e : EngineId) (q : QueueId) (d : Desc) (bs : List (Byte × Bool)) : State :=
  let dev := chanDev d.dst
  if !isMember s dev.toNat then failRun s e q ST.CHANNEL
  else
    let v := s.fld (R.SLUICE_QALIVE e q) F.SLUICE_QALIVE_VALUE
    let m := { ownMsg s MK.PUT (chanNo d.dst) dev 0 bs.length (bs.map (·.1)) with marks := marksOf bs }
    if !mayRequest s e then s
    else if d.alive = 1 then
      sendRequest (s.setFld (R.SLUICE_QALIVE e q) F.SLUICE_QALIVE_VALUE (v + 1)) e q { m with sv := true, stamp := BitVec.ofNat 16 v } (some bs)
    else sendRequest s e q m (some bs)

/-! ### One turn of a COPY (R393, R396) -/

/-- Bytes for the next piece of a run whose sides are memory: at most 4 KiB, within a page of each shared virtual side. -/
def pieceLen (d : Desc) (sa da left : Nat) : Nat :=
  let n := min 4096 left
  let n := if sideKind d.src = .sva then min n (pageLeft sa) else n
  if sideKind d.dst = .sva then min n (pageLeft da) else n

/-- Bytes of a run go to the destination at `da`, translated first if that is shared virtual. -/
def deliverPiece (s : State) (e : EngineId) (q : QueueId) (d : Desc) (da : Nat) (bs : List (Byte × Bool)) (xl : Option (Nat × Bool × Bool)) : State :=
  let s := match xl with
    | some (pa, untr, ns) => slHostWrite s pa untr ns bs
    | none => memWriteMarked s (.sluice e) da bs
  advance s e q d bs

/-- [a, a + n) of a side in HBM has a row or granule that is being copied, so the access waits (R342, R345). -/
def sideBusy (s : State) (d : Desc) (src : Bool) (a n : Nat) : Bool :=
  decide (sideKind (d.side src) = .dev) && (if src then anyRowBusy s a n else anyWriteBusy s a n)

/-- Memory to memory. -/
def moveDirect (s : State) (e : EngineId) (q : QueueId) (d : Desc) : State :=
  let x := s.slq e q
  let sa := runAddr s e q d true x.run + x.off
  let da := runAddr s e q d false x.run + x.off
  let n := pieceLen d sa da (d.cnt.1 - x.off)
  if sideBusy s d true sa n || sideBusy s d false da n then s else
  let put (s : State) (bs : List (Byte × Bool)) : State :=
    if sideKind d.dst = .sva then
      match slTranslate s e q d da true with
      | (s, none) => s
      | (s, some t) => dropHost (deliverPiece s e q d da bs (some t)) e q sa
    else dropHost (deliverPiece s e q d da bs none) e q sa
  if sideKind d.src = .sva then
    match slHostRead s e q d sa n with
    | (s, none) => s
    | (s, some bs) => put s bs
  else
    let (s, bs) := memRead s (.sluice e) 0 sa n
    put s bs

/-- A run whose bytes are gathered before they go on: its source is memory of the device or of the host. -/
def gather (s : State) (e : EngineId) (q : QueueId) (d : Desc) : State :=
  let x := s.slq e q
  let have' := x.buf.getD []
  let need := runLen s e q d true
  let sa := runAddr s e q d true x.run + have'.length
  let n := min 4096 (need - have'.length)
  if sideBusy s d true sa n then s else
  let keep (s : State) (bs : List (Byte × Bool)) : State :=
    let all := have' ++ bs
    if all.length < need then s.updSlq e q (fun y => { y with buf := some all })
    else
      let (s, all) := if recordSide s e q d true then openRecord s (keySlot s e q) (runAddr s e q d true x.run % 2 ^ 57) d.cnt.1 all else (s, all)
      s.updSlq e q (fun y => { y with buf := some all, phase := 3, host := [] })
  if sideKind d.src = .sva then
    match slHostRead s e q d sa (min n (pageLeft sa)) with
    | (s, none) => s
    | (s, some bs) => keep (dropHost s e q sa) bs
  else
    let (s, bs) := memRead s (.sluice e) 0 sa n
    keep s bs

/-- Every page of [a, a + n) is translated; none when one is not. DESIGN CHOICE: assumption 67. -/
def translateAll (s : State) (e : EngineId) (q : QueueId) (d : Desc) : List (Nat × Nat) → State × Option (List (Nat × Nat × Bool × Bool))
  | [] => (s, some [])
  | (a, n) :: l =>
    match slTranslate s e q d a true with
    | (s, none) => (s, none)
    | (s, some (pa, untr, ns)) =>
      match translateAll s e q d l with
      | (s, some r) => (s, some ((pa, n, untr, ns) :: r))
      | r => r

/-- A gathered run goes to its destination. A message or a record leaves with the last of its 4 KiB turns (R393). DESIGN CHOICE: assumption 64. -/
def deliverGathered (s : State) (e : EngineId) (q : QueueId) (d : Desc) : State :=
  let x := s.slq e q
  let bs := x.buf.getD []
  let base := runAddr s e q d false x.run
  if (decide (sideKind d.dst = .chan) || recordSide s e q d false) && decide (x.pushed + 4096 < bs.length) then
    s.updSlq e q (fun y => { y with pushed := y.pushed + 4096 })
  else
  match sideKind d.dst with
  | .chan => toChannel s e q d bs
  | .sva =>
    if recordSide s e q d false then
      match translateAll s e q d (piecesOf 4096 base (d.cnt.1 + 32)) with
      | (s, none) => s
      | (s, some ts) =>
        let (s, rec) := sealRecord s (keySlot s e q) (base % 2 ^ 57) (bs.map (·.1))
        let bad := bs.any (·.2)
        let r := ts.foldl (fun (acc : State × List Byte) t => (slHostWrite acc.1 t.1 t.2.2.1 t.2.2.2 ((acc.2.take t.2.1).map (fun b => (b, bad))), acc.2.drop t.2.1))
          (s, rec)
        advance r.1 e q d bs
    else
      let da := base + x.off
      let part := (bs.drop x.off).take (min 4096 (pageLeft da))
      match slTranslate s e q d da true with
      | (s, none) => s
      | (s, some t) => deliverPiece s e q d da part (some t)
  | .dev | .bad =>
    let part := (bs.drop x.off).take 4096
    if sideBusy s d false (base + x.off) part.length then s else deliverPiece s e q d (base + x.off) part none

/-- Nothing of the current run of a COPY has been begun. -/
def runFresh (x : SlQueue) : Bool := decide (x.phase = 0) && decide (x.off = 0) && x.buf.isNone && decide (x.host = [])
/-- A COPY is at a run boundary: every run before its current one is complete, and nothing of that has been begun. -/
def runBoundary (x : SlQueue) : Bool := runFresh x && x.flights.isEmpty

/-- The queue's descriptor is a COPY whose runs move. -/
def copying (s : State) (e : EngineId) (q : QueueId) : Option Desc :=
  match (s.slq e q).desc with
  | some d => if d.op = 1 ∧ qState s e q = QS.RUNNING ∧ (s.slq e q).waitChk = false then some d else none
  | none => none

/-- The PUT of the current run has been sent: the next run begins while replies are awaited (R445), unless a stop waits. -/
def nextPut (s : State) (e : EngineId) (q : QueueId) (d : Desc) : State :=
  let x := s.slq e q
  if decide (x.phase = 1) && x.xid.isNone && x.stop.isNone && decide (x.run + 1 < d.runs) then startRun s e q (x.run + 1) 0 else s

/-- One turn of the queue: at most 4 KiB of the current run. DESIGN CHOICE: assumption 64. -/
def copyTurn (s : State) (e : EngineId) (q : QueueId) : State :=
  match copying s e q with
  | none => s
  | some d =>
    let s := nextPut s e q d
    let x := s.slq e q
    if x.phase = 1 ∨ x.phase = 2 ∨ (runFresh x ∧ x.stop.isSome) then s
    else
      let s := if runFresh x then lookAhead s e q d x.run else s
      if x.phase = 3 then deliverGathered s e q d
      else if sideKind d.src = .chan then fromChannel s e q d
      else if sideKind d.dst = .chan ∨ recordSide s e q d true ∨ recordSide s e q d false then gather s e q d
      else moveDirect s e q d

/-- A run is complete (R400): its credit, then the end of the descriptor if run `r` is past the last. A stop that waits ends the descriptor at
the run boundary, at its last run too (R403, R416, R419). -/
def runDone (s : State) (e : EngineId) (q : QueueId) (d : Desc) (r : Nat) (boundary : Bool) : State :=
  let s := if d.cren then addCounter s d.credit 1 else s
  let x := s.slq e q
  match x.stop with
  | some st => if boundary || decide (d.runs ≤ r) then endDesc s e q st (some (0, r)) else s
  | none => if d.runs ≤ r then endDesc s e q (if x.poison then ST.POISONED else ST.OK) else s

/-- The PUT of the oldest run that is not complete has its ACK: the run completes. One that failed and is now the oldest ends the
descriptor with CHANNEL (R445). -/
def completePut (s : State) (e : EngineId) (q : QueueId) (d : Desc) (f : Flight) (more : List Flight) : State :=
  let s := (delivered s e q d f.bytes).updSlq e q (fun x => { x with flights := more })
  let x := s.slq e q
  let s := runDone s e q d (f.run + 1) (more.isEmpty && (decide (x.phase = 1) || runFresh x || decide (qState s e q = 4)))
  match more with
  | g :: _ => if g.failed then endDesc s e q ((s.slq e q).stop.getD ST.CHANNEL) (some (0, g.run)) else s
  | [] => s

/-- The COPY that a queue runs, parked or not. -/
def copyDesc (s : State) (e : EngineId) (q : QueueId) : Option Desc :=
  match (s.slq e q).desc with
  | some d => if d.op = 1 ∧ (qState s e q = QS.RUNNING ∨ qState s e q = 4) ∧ (s.slq e q).waitChk = false then some d else none
  | none => none

/-- A run whose bytes have all been delivered, or whose PUT has its ACK, completes; runs complete in order (R400, R445). -/
def completeRun (s : State) (e : EngineId) (q : QueueId) : State :=
  match copyDesc s e q with
  | none => s
  | some d =>
    let x := s.slq e q
    match x.flights with
    | f :: more => if f.acked then completePut s e q d f more else s
    | [] =>
      if x.phase ≠ 2 then s
      else
        let r := x.run + 1
        -- the queue leaves the run before the credit reaches a WAIT
        runDone (startRun s e q r 0) e q d r true

/-! ### Replies (R410, R445) -/

/-- The request that a reply answers. -/
def reqOf (s : State) (xid : BitVec 32) : Option FabReq := s.fab.reqs.find? (fun r => decide (r.xid = xid))

/-- It leaves the list of those awaited. -/
def takeReq (s : State) (xid : BitVec 32) : State × Option FabReq :=
  match reqOf s xid with
  | none => (s, none)
  | some r => (s.updFab (fun f => { f with reqs := f.reqs.erase r }), some r)

/-- The queue still awaits the reply to this GET. -/
def awaits (s : State) (e : EngineId) (q : QueueId) (xid : BitVec 32) : Bool := decide ((s.slq e q).xid = some xid) && decide ((s.slq e q).phase = 1)

/-- The queue still awaits the reply to this PUT. -/
def flies (s : State) (e : EngineId) (q : QueueId) (xid : BitVec 32) : Bool :=
  (s.slq e q).flights.any (fun f => decide (f.xid = xid) && !f.acked && !f.failed)

def updFlight (s : State) (e : EngineId) (q : QueueId) (xid : BitVec 32) (f : Flight → Flight) : State :=
  s.updSlq e q (fun x => { x with flights := x.flights.map (fun y => if y.xid = xid then f y else y) })

/-- The peer has accepted a PUT. -/
def putAcked (s : State) (e : EngineId) (q : QueueId) (xid : BitVec 32) : State := updFlight s e q xid (fun f => { f with acked := true })

/-- A PUT was refused or had no reply: the descriptor ends with CHANNEL when every run before it is complete. -/
def putFailed (s : State) (e : EngineId) (q : QueueId) (xid : BitVec 32) : State :=
  let s := updFlight s e q xid (fun f => { f with failed := true })
  match (s.slq e q).flights with
  | f :: _ => if f.failed then endDesc s e q ((s.slq e q).stop.getD ST.CHANNEL) (some (0, f.run)) else s
  | [] => s

/-- The request of queue `q` with this XID has failed. -/
def reqFailed (s : State) (e : EngineId) (q : QueueId) (xid : BitVec 32) : State :=
  if awaits s e q xid then failRun s e q ST.CHANNEL else if flies s e q xid then putFailed s e q xid else s

/-- Data answers a GET. -/
def getAnswered (s : State) (e : EngineId) (q : QueueId) (m : Msg) : State :=
  match (s.slq e q).desc with
  | none => s
  | some d => takeMessage s e q d (markedData m) (if m.sv then some m.stamp else none)

/-! ### Software controls and stops (R28, R390, R403, R417–R419) -/

/-- A write of a queue's registers by an agent that R105 lets write them (R392). -/
def mayQueue (s : State) (a : Agent) (e : EngineId) (q : QueueId) : Bool := !qWorld s e q || sealedSup s a

/-- A write of QTAIL. -/
def writeTail (s : State) (e : EngineId) (q : QueueId) (v : Nat) : State :=
  let adv := sextNat (v + 2 ^ 32 - qTail s e q) 32
  if adv < 0 ∨ 2 ^ qSize s e q < (v + 2 ^ 32 - qHead s e q) % 2 ^ 32 then s.setFlag (R.SLUICE_QSTAT e q) F.SLUICE_QSTAT_TAILERR true
  else
    let s := s.setFld (R.SLUICE_QTAIL e q) F.SLUICE_QTAIL_INDEX v
    if qState s e q = QS.IDLE then queueIdle s e q else s

/-- The running descriptor is to end with `st` at its next run boundary; one at a boundary, or in a WAIT, ends now, and for a
failed edge so does one that is parked (R385). DESIGN CHOICE: assumption 66. -/
def stopQueue (s : State) (e : EngineId) (q : QueueId) (st : Nat) : State :=
  let x := s.slq e q
  match x.desc with
  | none => s
  | some d =>
    let stop := if x.stop = some ST.BEAT_ABORT then ST.BEAT_ABORT else st
    let s := s.setSlq e q { x with stop := some stop }
    if qState s e q = QS.WAIT_COUNTER then endDesc s e q stop
    else if d.op ≠ 1 then endDesc s e q stop
    else if runBoundary x || (decide (stop = ST.BEAT_ABORT) && decide (qState s e q = 4) && x.flights.isEmpty) then endDesc s e q stop (some (x.off, x.run))
    else s

/-- A failed edge: the counting descriptors of beat `k` stop. DESIGN CHOICE: assumption 66. -/
def abortBeatWork (s : State) : State :=
  allSlq.foldl (fun z (e, q) =>
    let x := z.slq e q
    if x.counts && x.desc.isSome then stopQueue (z.setSlq e q { x with counts := false }) e q ST.BEAT_ABORT else z) s

/-- QCTL.ABORT ends a running descriptor. DESIGN CHOICE: assumption 66. -/
def abortQueue (s : State) (e : EngineId) (q : QueueId) : State :=
  if (s.slq e q).desc.isSome && decide (qState s e q ≠ QS.WAIT_TAG) then stopQueue s e q ST.ABORTED else s

/-- RESUME. -/
def resumeQueue (s : State) (e : EngineId) (q : QueueId) : State :=
  if qState s e q ≠ QS.HALTED then s
  else queueIdle ((leaveDesc s e q).setFld (R.SLUICE_QHEAD e q) F.SLUICE_QHEAD_INDEX (qHead s e q + 1)) e q

/-- RETRY. -/
def retryQueue (s : State) (e : EngineId) (q : QueueId) : State := if qState s e q ≠ QS.HALTED then s else fetchDesc s e q true

/-- QCFG.EN clears. DESIGN CHOICE: assumption 66. -/
def disableQueue (s : State) (e : EngineId) (q : QueueId) : State :=
  if !qEn s e q then s
  else
    let s := s.setFlag (R.SLUICE_QCFG e q) F.SLUICE_QCFG_EN false
    let x := s.slq e q
    if x.desc.isSome && decide (qState s e q ≠ QS.WAIT_TAG) then stopQueue (s.setSlq e q { x with cleared := true }) e q ST.ABORTED
    else edoneAfter (setActive (setQState (leaveDesc s e q) e q QS.OFF) e q false) e

/-- QCFG.EN is set: the queue goes on at QHEAD. -/
def enableQueue (s : State) (e : EngineId) (q : QueueId) : State :=
  if qEn s e q then s
  else
    let s := s.setFlag (R.SLUICE_QCFG e q) F.SLUICE_QCFG_EN true
    if qState s e q = QS.OFF then queueIdle s e q else s

/-- Refused descriptors end (R380), wherever the refusal came from. -/
def endRefused (s : State) : State :=
  allSlq.foldl (fun z (e, q) => if (z.slq e q).refusal.isSome then failRun (z.updSlq e q (fun x => { x with refusal := none })) e q ST.TRANSLATE else z) s

/-- Local descriptors whose source is channel `c`, now closed, end with CHANNEL (R454). -/
def endClosed (s : State) (c : BitVec 16) : State :=
  allSlq.foldl (fun z (e, q) =>
    match copying z e q with
    | some d =>
      if sideKind d.src = .chan ∧ chanDev d.src = z.devId ∧ chanNo d.src = c ∧ (z.slq e q).phase = 0 then failRun z e q ST.CHANNEL else z
    | none => z) s

/-- A channel whose oldest waiter is a local take and whose ring holds a message. -/
def readyTake (s : State) : Option (BitVec 16 × EngineId × QueueId × Nat) :=
  s.fab.chans.findSome? (fun x => match x.2 with
    | some y => match y.waits with
      | .take e q n :: _ => if y.used = 0 then none else some (BitVec.ofNat 16 x.1, e, q, n)
      | _ => none
    | none => none)

/-- That take has its turn, if its descriptor still waits, and then what waits behind it (R453). -/
def serveTake (s : State) (c : BitVec 16) (e : EngineId) (q : QueueId) (n : Nat) : State :=
  let me : Waiter := .take e q n
  let s := match chanOf s c with
    | some y => setChan s c (some { y with waits := y.waits.erase me })
    | none => s
  let s := match copying s e q with
    | some d =>
      if takeOf s e q = me ∧ sideKind d.src = .chan ∧ chanDev d.src = s.devId ∧ chanNo d.src = c ∧ (s.slq e q).phase = 0 then
        match takeHead s c with
        | (s, none) => s
        | (s, some k) => takeMessage s e q d k.data k.stamp
      else s
    | none => s
  serveWaiting s c

/-! ### At an edge (R20, R404, R405) -/

/-- Waiting descriptors become eligible; the engine's EDONE bit, which the edge has cleared, is set
if there is none. DESIGN CHOICE: assumption 111. -/
def sluiceEdge (s : State) (e : EngineId) : State :=
  let ready := allQueues.filter (fun q =>
    match (s.slq e q).desc with
    | some d => decide (qState s e q = QS.WAIT_TAG) && (decide (d.tag = 0xFFFF) || decide (d.tag = s.beatNo.toNat % 65536))
    | none => false)
  let s := ready.foldl (fun z q => z.updSlq e q (fun x => { x with counts := true })) s
  edoneAfter (ready.foldl (fun z q => beginDesc z e q) s) e


end Sys2Proof.Machine
end

