-- ==== Sys2Proof/Machine/Beat.lean ====
section
/-! DEFINITION. The beat between its edges (01_beat.md): the guard and decision instants, stretch requests and grants, beat
markers and the servo, holdover, and BEAT_IN. -/

namespace Sys2Proof.Machine
open Sys2Proof

/-! ### Guard and decision (R23–R25, R29, R348, R598, R600) -/

/-- The evaluation at the guard instant of the pending edge. `acks` says which regulators acknowledge a rise (R616). DESIGN CHOICE: assumption 74. -/
def guardEval (s : State) (acks : Nat) : State :=
  let notDone := !s.flag R.BEAT_STAT F.BEAT_STAT_DONE && !s.flag R.BEAT_CTRL F.BEAT_CTRL_POLICY
  let (s, capped) := capAtGuard s
  let hotStack := allStacks.any (fun k => decide (2 ≤ s.fld (R.MEM_STAT k) F.MEM_STAT_TLEVEL))
  let hotQuad := (List.range 4).any (fun q => decide (quadLevel s q = 2))
  let s := if notDone || capped || hotStack || hotQuad then requestStretch s else s
  planRises s acks

/-- GUARD_INSTANT: nothing is evaluated before the first edge. -/
def doGuardInstant (acks : BitVec 4) (s : State) : State :=
  if s.stopped || !s.running || !s.beat.scheduled || s.beat.fresh then s else guardEval (elapseTo s s.beat.guardAt) acks.toNat

/-- The root decides (R29): one quantum, if it holds a request and quanta remain; the grant leaves at once. DESIGN CHOICE: assumption 76. -/
def decideEdge (s : State) : State :=
  if s.beat.held.isSome && quantaLeft s then
    let s := judgeAgain (moveEdge s (s.reg R.BEAT_NEXT + BitVec.ofNat 64 (quantum s)) 1)
    sendMarkers s false true (childPorts s)
  else s.setBeat (fun b => { b with held := none })

def doDecisionInstant (s : State) : State :=
  if s.stopped || !s.running || !s.beat.scheduled || !isRoot s then s else decideEdge (elapseTo s (BitVec.ofNat 64 (decideAt s)))

/-- A STRETCH_REQ arrives (R29, R30): one for an edge already taken is late at the root. -/
def onStretch (s : State) (beat : Word) (dev count : Nat) : State :=
  if !s.running || !s.beat.scheduled then s
  else if beat = nextBeat s then holdStretch s dev count
  else if isRoot s ∧ beat.toNat < (nextBeat s).toNat then s.bump32 R.BEAT_LATECNT 1
  else s

def doStretchReq (port : PortId) (beat : Word) (dev : BitVec 12) (count : BitVec 16) (s : State) : State :=
  if s.stopped || !portLive s port then s else onStretch (s.bump (R.HANK_RXFLITS port) 1) beat dev.toNat count.toNat

/-- SREQ (R24). -/
def doSreq (s : State) : State := if s.stopped then s else requestStretch s

/-! ### Markers (R31, R41–R45, R47) -/

/-- What the echo of a marker lets a device measure, in 1/8 ns: offset and path delay (R42); none without a usable echo. -/
def measure (s : State) (p : PortId) (m : Marker) (rx : Word) : Option (Int × Int) :=
  match SMap.get 0 s.beat.ports[p].sent m.echoSeq.toNat with
  | 0 => none
  | t3 =>
    let down : Int := (rx.toNat : Int) - m.txTime.toNat
    let up : Int := (m.echoRx.toNat : Int) - t3.toNat
    some ((down - up) / 2 - sextNat (s.fld (R.BEAT_ASYM p) F.BEAT_ASYM_ASYM) 16, (down + up) / 2)

/-- The servo's new rate after an offset: its size, within 200 ppm, is the servo's own (R43); its sign corrects the offset. DESIGN CHOICE: assumption 73. -/
def servo (s : State) (off : Int) : State :=
  if off = 0 then s
  else
    let (s, w) := s.freeWord
    let r : Int := (w.toNat % 200001 : Nat)
    s.setBeat (fun b => { b with rate := if 0 < off then -r else r })

/-- The timebase steps by `-off`, in 1/8 ns (R43, R44). -/
def stepTime (s : State) (off : Int) : State :=
  let f : Int := (s.now.toNat : Int) * 10 ^ 9 + s.beat.frac - off * 125000000
  let n := (f % (2 ^ 64 * 10 ^ 9)).toNat
  (s.setReg R.BEAT_TIMEBASE (BitVec.ofNat 64 (n / 10 ^ 9))).setBeat (fun b => { b with frac := n % 10 ^ 9 })

/-- An offset to the parent (R43, R44). DESIGN CHOICE: assumption 73. -/
def correct (s : State) (off : Int) (next : Word) : State :=
  if (8 * s.fld R.BEAT_SLIPTH F.BEAT_SLIPTH_SLIPTH : Nat) < off.natAbs then
    let s := s.setFlag R.BEAT_STAT F.BEAT_STAT_SLIP true
    if s.running then s.setBeat (fun b => { b with slip := some (off, next), failNow := true }) else stepTime s off
  else servo s off

/-- A grant (R29, R31): adopted and sent on; a late one is counted, and the next edge but one is the parent's. -/
def onGrant (s : State) (m : Marker) : State :=
  let late := decide (m.number ≠ s.beatNo ∧ !s.beat.fresh) || decide (finalAt s < s.now.toNat)
  if late then
    let old := s.reg R.BEAT_NEXT
    let s := (sendMarkers (s.setReg R.BEAT_NEXT m.next) false true (childPorts s)).setReg R.BEAT_NEXT old
    ((s.setFlag R.BEAT_STAT F.BEAT_STAT_LATE_GRANT true).bump32 R.BEAT_LATECNT 1).setBeat (fun b => { b with lateGrant := true })
  else
    let s := moveEdge s m.next 1
    sendMarkers s false true (childPorts s)

/-- The number of the beat that this device takes its parent to be in. -/
def parentBeat (s : State) : Word := if s.beat.fresh then s.beat.first.getD 0 else s.beatNo

/-- The marker announces an edge that its sender has still to take. -/
def announces (m : Marker) : Bool := decide (m.txTime.toNat < 8 * m.next.toNat)

/-- The schedule that the parent's marker gives (R16, R29, R31, R47): the first edge and its number; a grant; after a late grant,
the edge that follows; and otherwise the pending edge, until it is final, at the parent's NEXT and with the parent's number.
DESIGN CHOICE: assumption 72. -/
def followParent (s : State) (m : Marker) : State :=
  if !s.running then s
  else if s.beat.awaitParent then
    if announces m then
      moveEdge (s.setBeat (fun b => { b with awaitParent := false, scheduled := true, fresh := true, first := some m.number })) m.next 0
    else s
  else if m.grant then onGrant s m
  else if s.beat.lateGrant || decide (m.next.toNat ≤ s.now.toNat) then s
  else if s.beat.realign then
    if m.number = s.beatNo then moveEdge (s.setBeat (fun b => { b with realign := false })) m.next 0 else s
  else if finalAt s < s.now.toNat then s
  else if m.number = parentBeat s then (if m.next = s.reg R.BEAT_NEXT then s else retimeEdge s m.next)
  else moveEdge (s.setBeat (fun b => { b with first := some (m.number + 1) })) m.next 0

/-- A source that is not selected is present, with this offset (R47): BEAT_IN, or the markers of port SRCPORT. -/
def monitored (s : State) (bin : Bool) (off : Int) : State :=
  (s.setReg R.BEAT_MONOFF (BitVec.ofNat 64 ((off % 2 ^ 32).toNat + 2 ^ 32))).setBeat (fun b => { b with monBin := bin, monSeen := true })

/-- A marker arrives on port `p` at `rx`, in 1/8 ns. -/
def onMarker (s : State) (p : PortId) (m : Marker) (rx : Word) : State :=
  let meas := measure s p m rx
  let s := s.setBeat (fun b => { b with ports := b.ports.set p { b.ports[p] with heard := true, rxTime := rx, rxSeq := m.seq } })
  if !samePort s (parentPort s) p then s
  else if isRoot s then
    let s := s.setBeat (fun b => { b with lastParent := s.now })
    match meas with
    | some (off, _) => monitored s false off
    | none => s
  else
    let s := s.setBeat (fun b => { b with synced := true, holdover := false, lastParent := s.now })
    let s := s.setFld R.BEAT_MARK F.BEAT_MARK_STRATUM (min 14 (m.stratum.toNat + 1))
    let s := s.setFld R.BEAT_MARK F.BEAT_MARK_PARENT p.val
    let s := match meas with
      | some (off, delay) =>
        let s := s.setFld R.BEAT_MARK F.BEAT_MARK_DELAY delay.toNat
        correct (s.setFld R.BEAT_MARK F.BEAT_MARK_OFFSET (off % 2 ^ 32).toNat) off m.next
      | none => s
    followParent s m

def doBeatMarker (port : PortId) (m : Marker) (rx : Word) (s : State) : State :=
  if s.stopped || !portLive s port then s else onMarker (s.bump (R.HANK_RXFLITS port) 1) port m rx

/-- BEAT.SLIPTH.MINT. -/
def markerInterval (s : State) : Nat := s.fld R.BEAT_SLIPTH F.BEAT_SLIPTH_MINT

/-- MARKER_INTERVAL (R41, R458): an interval after the last. -/
def doMarkerInterval (s : State) : State :=
  if s.stopped then s
  else
    let s := elapseTo s (s.beat.markAt + BitVec.ofNat 64 (markerInterval s))
    sendMarkers (s.setBeat (fun b => { b with markAt := s.now })) false false (markerPorts s)

/-- HOLDOVER (R45): four intervals after the parent's last marker. On a root, a monitored port falls silent (R47). DESIGN CHOICE:
assumption 119. -/
def doHoldover (s : State) : State :=
  if s.stopped then s
  else
    let s := elapseTo s (s.beat.lastParent + BitVec.ofNat 64 (4 * markerInterval s))
    if isRoot s then (if s.beat.monBin then s else s.setFlag R.BEAT_MONOFF F.BEAT_MONOFF_VALID false)
    else (s.setFlag R.BEAT_STAT F.BEAT_STAT_SRC_LOST true).setBeat (fun b => { b with holdover := true })

/-- The edge follows an accepted one by less than 10 µs (R613). -/
def tooSoon (s : State) (t8 : Word) : Bool :=
  match s.beat.binAt with
  | some p => decide (p.toNat ≤ t8.toNat ∧ t8.toNat - p.toNat < 80000)
  | none => false

/-- BEAT_IN_EDGE (R47, R48, R613): `t8` is its time in 1/8 ns. A selected edge within 1,000 ns of the scheduled one defines it.
DESIGN CHOICE: assumptions 72 and 114. -/
def doBeatInEdge (t8 : Word) (s : State) : State :=
  if s.stopped || tooSoon s t8 then s
  else
    let s := s.setBeat (fun b => { b with binAt := some t8 })
    let off : Int := (t8.toNat : Int) - (s.reg R.BEAT_NEXT).toNat * 8
    if s.fld R.BEAT_CTRL F.BEAT_CTRL_SRC ≠ 1 then monitored s true off
    else if !s.running || !s.beat.scheduled then s
    else if off.natAbs ≤ 8000 then
      let t : Word := BitVec.ofNat 64 (t8.toNat / 8)
      servo ((s.setReg R.BEAT_NEXT t).setBeat (fun b => { b with binSeen := true })) off
    else s.setFlag R.BEAT_STAT F.BEAT_STAT_BIN_MISS true

/-! ### RUN, staging and commit groups -/

def doSetRun (s : State) : State := if s.stopped then s else runOn s
def doClearRun (s : State) : State := if s.stopped then s else runOff s
def doArm (s : State) : State := if s.stopped then s else armBank s
def doDiscard (s : State) : State := if s.stopped then s else discardBank s
def doCancel (s : State) : State := if s.stopped then s else cancelBank s

end Sys2Proof.Machine
end

