-- ==== Sys2Proof/Machine/Hank.lean ====
section
/-! DEFINITION. The receiving side of Hank links (R423–R435, R441, R443): flits and their checks, acknowledgement, credits and
retry, the assembly of messages, and the states of ports and bonds. -/

namespace Sys2Proof.Machine
open Sys2Proof

/-! ### Port states -/

def setPort (s : State) (p st : Nat) : State := s.setFld (R.HANK_STAT p) F.HANK_STAT_STATE st
/-- Port states (R429). -/
def PS.OFF : Nat := 0
def PS.TRAINING : Nat := 1
def PS.UP : Nat := 2
def PS.DEGRADED : Nat := 3
def PS.DOWN : Nat := 4
def PS.TEST : Nat := 5

/-- The port carries flits: it is live, and of a bond it is not the member that is down. -/
def carries (s : State) (p : Nat) : Bool := portLive s p && (s.link p).alive

/-- The flits of a lost link's ingress lanes have no buffer any more. -/
def clearOrigin (s : State) (l : Nat) : State :=
  let clear (f : TxFlit) : TxFlit := if f.origin.any (fun o => decide (o.1 = l)) then { f with origin := none } else f
  let tx (t : TxMsg) : TxMsg := { t with flits := t.flits.map clear }
  s.updFab (fun x => { x with waiting := x.waiting.map tx, links := x.links.map (fun y => { y with sending := y.sending.map (fun t => t.map tx) }) })

/-- The messages of link `l` that are arriving and go on elsewhere end there with an END flit that carries ABT (R443). -/
def cutForwarded (s : State) (l : Nat) : State :=
  (s.link l).ingress.toList.foldl (fun z i => match i with
    | .forward id => (joinTx z id abortFlit).getD z
    | .idle | .here | .drop => z) s

/-- The link of a port, or of its bond, is lost: its retry buffer, its credits, the messages that had begun to leave on it and what it
had received of messages (R431, R443). Messages that had not begun take another route (R436). -/
def dropLink (s : State) (l : Nat) : State :=
  let s := clearOrigin (cutForwarded s l) l
  let sent := (s.link l).sending.toList
  let s := s.updLink l (fun x => { beatReplays := x.beatReplays, trainAt := x.trainAt })
  pump (sent.foldl (fun z t => match t with | some t => t.flits.foldl freeOrigin z | none => z) s)

/-- The link layer of a pair moves from member `a` to member `b`. -/
def moveLink (s : State) (a b : Nat) : State :=
  let move (f : TxFlit) : TxFlit := match f.origin with
    | some (l, v) => if l = a then { f with origin := some (b, v) } else f
    | none => f
  let tx (t : TxMsg) : TxMsg := { t with flits := t.flits.map move }
  let x := s.link a
  let s := s.updLink a (fun y => { alive := y.alive, peerBond := y.peerBond, trainAt := y.trainAt })
  (s.updLink b (fun y => { x with alive := y.alive, peerBond := y.peerBond, trainAt := y.trainAt })).updFab (fun f =>
    { f with waiting := f.waiting.map tx, links := f.links.map (fun y => { y with sending := y.sending.map (fun t => t.map tx) }) })

/-- Flits not acknowledged are sent again, in order (R426). -/
def resend (s : State) (l : Nat) : State := (s.link l).unacked.foldl (fun z e => sendSeq z l e.1 e.2) s

/-- Port `p` has left UP or DEGRADED, to state `st`: a bond goes on with its other member; otherwise the link is lost, and a member that
was down before shows it. -/
def leaveUp (s : State) (p : PortId) (st : Nat) : State :=
  let o := mate p
  if bonded s p && carries s o then
    let was := carries s p
    let s := s.updLink p (fun y => { y with alive := false })
    let fresh := decide (portState s o ≠ PS.DEGRADED)
    let s := setPort (setPort s p st) o PS.DEGRADED
    let s := if fresh then hankEvent s (⟨o % 16, Nat.mod_lt _ (by decide)⟩) 2 else s
    if was then resend s (linkAt s p) else s
  else
    let l := linkAt s p
    let s := s.updLink p (fun y => { y with alive := false })
    let s := setPort s p st
    let s := if bonded s p then
        let s := if portLive s o then setPort s o PS.DOWN else s
        (s.setFlag (R.HANK_STAT p) F.HANK_STAT_BONDED false).setFlag (R.HANK_STAT o) F.HANK_STAT_BONDED false
      else s
    dropLink s l

/-- A port goes DOWN, for REASON `why` (R426, R430, R434, R443, R569): a bond with its other member up shows DEGRADED on both. -/
def portDown (s : State) (p : PortId) (why : Nat) : State :=
  let keeps := bonded s p && carries s (mate p) && carries s p
  let s := if portLive s p then leaveUp s p (if keeps then PS.DEGRADED else PS.DOWN) else setPort s p PS.DOWN
  let s := (s.setFld (R.HANK_STAT p) F.HANK_STAT_REASON why).setFld (R.HANK_STAT p) F.HANK_STAT_LANELOCK 0
  let s := s.setFlag (R.HANK_PEER p) F.HANK_PEER_VALID false
  let s := hankEvent s p 1
  let s := if keeps then hankEvent s p 2 else s
  report s UKind.PORT p.val 0x0E (BitVec.ofNat 64 why)

/-- A replay (R426): counted, sent again, and after RETRYMAX of them without progress the port goes DOWN. DESIGN CHOICE: assumption 70. -/
def replay (s : State) (p : PortId) : State :=
  let l := linkAt s p
  let x := s.link l
  if x.unacked = [] then s
  else if s.fld (R.HANK_RETRY p) F.HANK_RETRY_RETRYMAX ≤ x.replays then
    let o := mate p
    let s := if bonded s p && carries s o then portDown s ⟨o % 16, Nat.mod_lt _ (by decide)⟩ 2 else s
    portDown s p 2
  else
    let s := (s.bump (R.HANK_RETRIES p) 1).updLink l (fun y =>
      { y with replays := y.replays + 1, beatReplays := y.beatReplays + 1, ackAt := s.now })
    let s := if (s.link l).beatReplays = s.fld (R.HANK_RETRY p) F.HANK_RETRY_THRESH + 1 then
        report (hankEvent s p 3) UKind.PORT p.val 0x0F (BitVec.ofNat 64 (s.link l).beatReplays)
      else s
    resend s l

/-! ### Messages (R441–R443, R446) -/

/-- The message that the payloads of its flits spell, first flit first, each with its DEF flag; none when they are too few. A GET names
in LEN the bytes wanted and carries none. -/
def readMsg (fs : List (List Byte × Bool)) : Option Msg :=
  match fs with
  | [] => none
  | (h, _) :: _ =>
    let m := readHeader h
    let len := if m.kind = 2 then 0 else m.len.toNat
    let body := (fs.flatMap (·.1)).drop 32
    let total := len + (if m.sealed then 16 else 0)
    if body.length < total ∨ h.length < 32 then none
    else some
      { m with tag := if m.sealed then BitVec.ofNat 128 (ofLe ((body.drop len).take 16)) else 0, data := body.take len,
               marks := (fs.mapIdx (fun i f => (i, f.2))).filterMap (fun e => if e.2 then some e.1 else none) }

def setIngress (s : State) (l v : Nat) (i : Ingress) : State := s.updLink l (fun y => { y with ingress := y.ingress.set! v i })

/-- A flit of a message for this device: at END the message enters the device, unless it ends with ABT, and its flits leave the buffer. -/
def onHere (s : State) (l v : Nat) (fin abt dfd : Bool) (payload : List Byte) : State :=
  let got := (s.link l).asm.toList.getD v [] ++ [(payload, dfd)]
  if !fin then s.updLink l (fun y => { y with asm := y.asm.set! v got })
  else
    let s := setIngress (freeFlits (s.updLink l (fun y => { y with asm := y.asm.set! v [] })) l v got.length) l v .idle
    match readMsg got with
    | some m => if abt then s else s.updFab (fun x => { x with inbox := x.inbox ++ [(m, v)] })
    | none => s

/-- A START flit ends what its lane had of another message (R443). -/
def cutLane (s : State) (l v : Nat) : State :=
  let x := s.link l
  let s := match x.ingress.toList.getD v .idle with
    | .forward id => (joinTx s id abortFlit).getD s
    | .idle | .here | .drop => s
  setIngress (freeFlits (s.updLink l (fun y => { y with asm := y.asm.set! v [] })) l v (x.asm.toList.getD v []).length) l v .idle

/-- A DATA flit delivered in order on lane `v` of link `l` (R440, R443). DESIGN CHOICE: assumption 68. -/
def onData (s : State) (l v : Nat) (start fin abt dfd : Bool) (payload : List Byte) : State :=
  let f : TxFlit := { stretch := false, vl := v, start := start, fin := fin, abt := abt, dfd := dfd, payload := payload, origin := some (l, v) }
  let rest (s : State) (i : Ingress) : State := setIngress s l v (if fin then .idle else i)
  if start then
    let s := cutLane s l v
    let m := readHeader payload
    if m.dst = s.devId then onHere (setIngress s l v .here) l v fin abt dfd payload
    else
      match forwardStart s m v f with
      | (s, .forward id) => rest s (.forward id)
      | (s, i) => rest (freeFlits s l v 1) i
  else
    match (s.link l).ingress.toList.getD v .idle with
    | .here => onHere s l v fin abt dfd payload
    | .forward id =>
      match joinTx s id f with
      | some s => rest s (.forward id)
      | none => rest (freeFlits s l v 1) .drop
    | i => rest (freeFlits s l v 1) i

/-! ### A flit arrives (R423–R428) -/

/-- The ACK of a flit: every flit up to it leaves the retry buffer. -/
def takeAck (s : State) (l ack : Nat) : State :=
  let x := s.link l
  match x.unacked.findIdx? (fun e => decide (e.1 = ack)) with
  | none => s
  | some i => s.updLink l (fun y => { y with unacked := y.unacked.drop (i + 1), replays := 0, ackAt := s.now })

def takeCredits (s : State) (l v n : Nat) : State :=
  if n = 0 ∨ 2 < v then s else s.updLink l (fun y => { y with credits := y.credits.set! v (y.credits.toList.getD v 0 + n) })

/-- The fields of a marker in a flit's payload (R41). -/
def readMarker (b : List Byte) : Marker :=
  let n (i k : Nat) := ofLe ((b.drop i).take k)
  { txTime := BitVec.ofNat 64 (n 0 8), number := BitVec.ofNat 64 (n 8 8), next := BitVec.ofNat 64 (n 16 8), echoRx := BitVec.ofNat 64 (n 24 8),
    echoSeq := BitVec.ofNat 16 (n 32 2), seq := BitVec.ofNat 16 (n 34 2), srcId := BitVec.ofNat 12 (n 36 2), stratum := BitVec.ofNat 4 (n 36 2 / 4096),
    edge := (n 38 1).testBit 0, grant := (n 38 1).testBit 1, holdover := (n 38 1).testBit 2 }

/-- A sequenced flit is discarded or out of order: NAK in the next flit, and every other until the expected one is discarded. -/
def setNak (s : State) (l : Nat) : State := s.updLink l (fun y => { y with nak := true, resync := true })

/-- Flits that a lane's receive buffer holds (R427). -/
def laneRoom (v : Nat) : Nat := if v = 0 then 128 else 960

/-- The expected flit of a link is received: it enters its lane's buffer. One for which the buffer has no room is discarded. -/
def acceptFlit (s : State) (l h : Nat) (payload : List Byte) : State :=
  let x := s.link l
  let v := h / 8 % 4
  if laneRoom v ≤ x.used.toList.getD v 0 then setNak s l
  else
    let s := s.updLink l (fun y => { y with expect := (y.expect + 1) % 4096, ackDue := true, resync := false,
                                            used := y.used.set! v (y.used.toList.getD v 0 + 1) })
    if h % 8 = 4 then
      onStretch (freeFlits s l v 1) (BitVec.ofNat 64 (ofLe (payload.take 8))) (ofLe ((payload.drop 8).take 2) % 4096) (ofLe ((payload.drop 10).take 2))
    else onData s l v (h.testBit 5) (h.testBit 6) (h.testBit 7) (h.testBit 8) payload

/-- The flits of a bond that came early and whose turn it now is. -/
def drainEarly (l : Nat) : Nat → State → State
  | 0, s => s
  | fuel + 1, s =>
    match (s.link l).early.find? (fun e => decide (e.seq = (s.link l).expect)) with
    | some e => drainEarly l fuel (acceptFlit (s.updLink l (fun y => { y with early := y.early.erase e })) l e.hdr e.payload)
    | none => s

/-- A sequenced flit that passed its checks, at `rx`. On a bond of two members that both carry flits, one before its turn waits for the
others (R434). -/
def onSequenced (s : State) (l h : Nat) (payload : List Byte) (rx : Word) : State :=
  let x := s.link l
  let seq := h / 2 ^ 10 % 4096
  if seq = x.expect then drainEarly l x.early.length (acceptFlit s l h payload)
  else if decide ((members s l).length = 2) && !x.resync && decide ((seq + 4096 - x.expect) % 4096 < 1024) then
    (if x.early.any (fun e => decide (e.seq = seq)) then s else s.updLink l (fun y => { y with early := y.early ++ [⟨seq, h, payload, rx⟩] }))
  else setNak s l

/-- The skew of 50 ns between the members of a bond, in 1/8 ns (R434). -/
def bondSkew : Nat := 400

/-- Early flits whose predecessors have not come within the skew are discarded (R426, R434). -/
def ageEarly (s : State) (l : Nat) (rx : Word) : State :=
  if (s.link l).early.any (fun e => decide (e.rx.toNat + bondSkew < rx.toNat)) then setNak (s.updLink l (fun y => { y with early := [] })) l else s

/-- The header of a flit is one that R423 allows: its zero fields are zero. DESIGN CHOICE: assumption 69. -/
def headerOk (h : Nat) : Bool :=
  decide (h < 2 ^ 48) && (decide (h % 8 = 2 ∨ h % 8 = 4) || decide (h / 2 ^ 10 % 4096 = 0))

/-- What FEC made of the pair of a flit is counted with the pair's first flit and holds for the others (R422, R424, R461). -/
def takeFec (s : State) (p : PortId) (fec : PairFec) : State :=
  match fec with
  | .first (some n) => (s.bump (R.HANK_FECCORR p) n.toNat).updPairs p (fun y => { y with rxGood := true })
  | .first none => (s.bump (R.HANK_FECUNC p) 1).updPairs p (fun y => { y with rxGood := false })
  | .later => s

/-- A flit arrives on port `p`. DESIGN CHOICE: assumption 68. -/
def onFlit (s : State) (p : PortId) (flit : List Byte) (fec : PairFec) (rx : Word) : State :=
  let s := takeFec s p fec
  let l := linkAt s p
  let h := ofLe (flit.take 8)
  let ty := h % 8
  let seqd := decide (ty = 2 ∨ ty = 4)
  if !(s.pairing p).rxGood then (if seqd then setNak s l else s)
  else if flit.length ≠ 256 ∨ crc32 (flit.take 252) ≠ ofLe (flit.drop 252) ∨ !headerOk h then
    let s := s.bump (R.HANK_CRCERR p) 1
    if seqd then setNak s l else s
  else if 5 < ty ∨ h / 8 % 4 = 3 then s
  else
    let s := if ty = 0 then s else s.bump (R.HANK_RXFLITS p) 1
    let s := takeCredits (takeAck s l (h / 2 ^ 22 % 4096)) l (h / 2 ^ 34 % 4) (h / 2 ^ 36 % 4096)
    let payload := (flit.drop 8).take 244
    let s := if h.testBit 9 then replay s p else s
    let s := ageEarly s l rx
    pump (if seqd then onSequenced s l h payload rx else if ty = 3 then onMarker s p (readMarker payload) rx else s)

/-! ### What is due when nothing else leaves -/

/-- Something is due on the link: an ACK, a NAK or credits. -/
def Link.due (x : Link) : Bool := x.ackDue || x.nak || x.owed.toList.any (fun n => decide (n ≠ 0))

/-- IDLE flits carry what is due, a lane's credits each. DESIGN CHOICE: assumption 69. -/
def sendDue (l : Nat) : Nat → State → State
  | 0, s => s
  | fuel + 1, s =>
    match members s l with
    | p :: _ => if (s.link l).due then sendDue l fuel (putIdle s l p) else s
    | [] => s

/-- IDLE flits complete the codeword pair of port `p` (R422, R428). -/
def fillPair (p : Nat) : Nat → State → State
  | 0, s => s
  | fuel + 1, s => if (s.pairing p).flits = [] then s else fillPair p fuel (putIdle s (linkAt s p) p)

/-- Some link has something due, or some codeword pair is begun. -/
def linksDue (s : State) : Bool := s.fab.links.toList.any Link.due || s.fab.pairs.toList.any (fun x => !x.flits.isEmpty)

/-- What the link layer sends when a command has had its effect. -/
def flushLinks (s : State) : State :=
  if linksDue s then
    (List.range 16).foldl (fun z p => fillPair p Fec.flits (if linkAt z p = p then sendDue p 4 z else z)) s
  else s

/-! ### Training (R430–R434) -/

/-- Training begins; the TRAIN flit of its step 4 is recorded here. DESIGN CHOICE: assumption 70. -/
def beginTraining (s : State) (p : PortId) : State :=
  let s := if portLive s p then leaveUp s p PS.TRAINING else setPort s p PS.TRAINING
  let s := s.setFlag (R.HANK_PEER p) F.HANK_PEER_VALID false
  let s := (s.setFld (R.HANK_STAT p) F.HANK_STAT_LANELOCK 0).updLink p (fun y => { y with trainAt := s.now })
  putFlit s p p 5 0 0 false false false false (Config.trainPayload s.devId.toNat p.val (s.flag (R.HANK_CTRL p) F.HANK_CTRL_BOND)).toList

/-- EN is set. -/
def enablePort (s : State) (p : PortId) : State :=
  let s := s.setFlag (R.HANK_CTRL p) F.HANK_CTRL_EN true
  if portState s p = PS.OFF then beginTraining s p else s

/-- EN is cleared. -/
def disablePort (s : State) (p : PortId) : State :=
  let s := s.setFlag (R.HANK_CTRL p) F.HANK_CTRL_EN false
  let s := if portLive s p then leaveUp s p PS.OFF else s
  let s := setPort s p (if s.flag (R.HANK_CTRL p) F.HANK_CTRL_TEST then PS.TEST else PS.OFF)
  (s.setFlag (R.HANK_PEER p) F.HANK_PEER_VALID false).setFld (R.HANK_STAT p) F.HANK_STAT_LANELOCK 0

/-- RETRAIN. -/
def retrainPort (s : State) (p : PortId) : State := if portState s p = PS.OFF then s else beginTraining s p

/-- TEST is set on a port that is not UP: PRBS31 runs. A member of a degraded bond leaves it. -/
def testOn (s : State) (p : PortId) : State :=
  if portState s p = PS.UP then s
  else
    let s := (s.setFlag (R.HANK_CTRL p) F.HANK_CTRL_TEST true).setReg (R.HANK_TESTERR p) 0
    if portLive s p then leaveUp s p PS.TEST else setPort s p PS.TEST

/-- TEST is cleared: an enabled port waits for RETRAIN. -/
def testOff (s : State) (p : PortId) : State :=
  let s := s.setFlag (R.HANK_CTRL p) F.HANK_CTRL_TEST false
  if portState s p = PS.TEST then setPort s p (if s.flag (R.HANK_CTRL p) F.HANK_CTRL_EN then PS.DOWN else PS.OFF) else s

/-- The conditions of R433 for a bond of port `p`, whose peer has just been found, with the other port of its pair. -/
def canBond (s : State) (p : PortId) : Bool :=
  let o := mate p
  let dev (k : Nat) := s.fld (R.HANK_PEER k) F.HANK_PEER_DEVID
  let port (k : Nat) := s.fld (R.HANK_PEER k) F.HANK_PEER_PORT
  s.flag (R.HANK_CTRL p) F.HANK_CTRL_BOND && s.flag (R.HANK_CTRL o) F.HANK_CTRL_BOND && portLive s o && (s.link o).alive &&
    decide (dev p = dev o) && decide (port p / 2 = port o / 2) && decide (port p ≠ port o) && (s.link p).peerBond && (s.link o).peerBond

/-- A member of a bond that shows DEGRADED is UP again. -/
def upAgain (s : State) (p : Nat) : State :=
  if portState s p = PS.DEGRADED then hankEvent (setPort s p PS.UP) (⟨p % 16, Nat.mod_lt _ (by decide)⟩) 0 else s

/-- What the receiver of a port measures of its lanes, which R461 leaves to it: free values (assumption 47). -/
def measureLanes (s : State) (p : PortId) : State :=
  let (s, a) := s.freeWord
  let (s, b) := s.freeWord
  (s.setReg (R.HANK_RXPWR p) a).setReg (R.HANK_LANESNR p) b

/-- Training ends: the port is UP, bonded or alone. A bond keeps the link of the member that was up. -/
def trained (s : State) (p : PortId) (peer : BitVec 12) (peerPort : BitVec 4) (peerBond : Bool) : State :=
  if portState s p ≠ PS.TRAINING then s
  else
    let o := mate p
    let s := s.setReg (R.HANK_PEER p) (BitVec.ofNat 64 (peer.toNat + peerPort.toNat * 2 ^ 12 + 2 ^ 16))
    let s := (setPort s p PS.UP).setFld (R.HANK_STAT p) F.HANK_STAT_LANELOCK 255
    -- a bond that this training does not restore ends: its link goes to the other member
    let s := if bonded s p && !(decide (s.fld (R.HANK_PEER p) F.HANK_PEER_DEVID = s.fld (R.HANK_PEER o) F.HANK_PEER_DEVID) && peerBond &&
          decide (peerPort.toNat / 2 = s.fld (R.HANK_PEER o) F.HANK_PEER_PORT / 2) && s.flag (R.HANK_CTRL p) F.HANK_CTRL_BOND &&
          s.flag (R.HANK_CTRL o) F.HANK_CTRL_BOND) then
        let s := if p.val % 2 = 0 then moveLink s p o else s
        let s := if portLive s o then upAgain s o else s
        (s.setFlag (R.HANK_STAT p) F.HANK_STAT_BONDED false).setFlag (R.HANK_STAT o) F.HANK_STAT_BONDED false
      else s
    let s := if bonded s p then s.updLink p (fun y => { y with alive := true, peerBond := peerBond })
      else s.updLink p (fun y => { trainAt := y.trainAt, beatReplays := y.beatReplays, alive := true, peerBond := peerBond })
    let s :=
      if canBond s p then
        let even := p.val / 2 * 2
        let s := if bonded s p ∨ p.val ≠ even then s else moveLink s o even
        let s := upAgain (setPort s p PS.UP) o
        (s.setFlag (R.HANK_STAT p) F.HANK_STAT_BONDED true).setFlag (R.HANK_STAT o) F.HANK_STAT_BONDED true
      else s
    hankEvent (measureLanes s p) p 0

/-! ### What the commands on ports do -/

def doFlitReceive (p : PortId) (flit : List Byte) (fec : PairFec) (rx : Word) (s : State) : State :=
  if s.stopped || !carries s p then s else onFlit s p flit fec rx

/-- No ACK has advanced for HANK.RETRY.REPLAYTO ns (R426). -/
def doReplayTimeout (p : PortId) (s : State) : State :=
  let x := s.link (linkAt s p)
  if s.stopped || !carries s p || x.unacked.isEmpty then s
  else replay (elapseTo s (x.ackAt + BitVec.ofNat 64 (s.fld (R.HANK_RETRY p) F.HANK_RETRY_REPLAYTO))) p
def doPortEnable (p : PortId) (s : State) : State := if s.stopped then s else enablePort s p
def doPortDisable (p : PortId) (s : State) : State := if s.stopped then s else disablePort s p
def doRetrain (p : PortId) (s : State) : State := if s.stopped then s else retrainPort s p

/-- TEST: the test runs and finds `errs` bit errors. -/
def doTest (p : PortId) (errs : Nat) (s : State) : State :=
  if s.stopped then s
  else
    let s := testOn s p
    if portState s p = PS.TEST then s.bump (R.HANK_TESTERR p) errs else s

def doTrainingComplete (p : PortId) (peer : BitVec 12) (peerPort : BitVec 4) (peerBond : Bool) (s : State) : State :=
  if s.stopped then s else trained s p peer peerPort peerBond

/-- TRAINFAIL: 250 ms after training began. -/
def doTrainfail (p : PortId) (s : State) : State :=
  if s.stopped || decide (portState s p ≠ PS.TRAINING) then s
  else portDown (elapseTo s ((s.link p).trainAt + 250000000)) p 1

/-- SIGNAL_LOSS. -/
def doSignalLoss (p : PortId) (s : State) : State := if s.stopped || !carries s p then s else portDown s p 3

end Sys2Proof.Machine
end

