-- ==== Sys2Proof/Machine/Bar2.lean ====
section
/-! DEFINITION. BAR2, the host's view of device memory (R528–R530, R402): where a host-view address leads, which requests are
refused, and what a read or write does at its home. -/

namespace Sys2Proof.Machine
open Sys2Proof

/-- The host-view address of BAR2 offset `off`: bits of BAR2WIN.BASE below the BAR's size are cleared (R528). -/
def hostView (s : State) (off : Nat) : Nat :=
  s.fld R.GCTL_BAR2WIN F.GCTL_BAR2WIN_BASE * 2 ^ 28 / 2 ^ s.host.barLog2 * 2 ^ s.host.barLog2 + off

/-- The device address that host-view address `h` reaches (R528). -/
def viewAddr (h : Nat) : Option Nat :=
  if h < Config.hbmBytes then some h
  else if inRange h 0x1F000000000 (12 * Config.panBytes) then some (Config.panBase + (h - 0x1F000000000))
  else if inRange h 0x1F800000000 Config.sessBytes then some (Config.sessBase + (h - 0x1F800000000))
  else if inRange h 0x1F810000000 Config.tstoreBytes then some (Config.tstoreBase + (h - 0x1F810000000))
  else none

/-- The device address of a request of `n` bytes that touches no unmapped host-view address. -/
def viewSpan (h n : Nat) : Option Nat :=
  match viewAddr h, viewAddr (h + n - 1) with
  | some a, some z => if z + 1 = a + n then some a else none
  | _, _ => none

def ofTable (a : Nat) : Bool := match windowOf a with | .session | .tstore => true | _ => false

/-- Where a BAR2 request goes: its device address, or the KIND of its refusal (R529, R546). The first case that applies, in the
order of KIND, is the one recorded. DESIGN CHOICE: assumption 17. -/
def bar2Route (s : State) (h n : Nat) : Except Nat Nat :=
  match viewSpan h n with
  | none => .error 0
  | some a =>
    if anySealed s a n then .error 1
    else if !s.selfTested then .error 2
    else if ofTable a && (decide (n ≠ 4 ∧ n ≠ 8) || decide (a % n ≠ 0)) then .error 3
    else .ok a

/-- A refusal is counted, and recorded while VALID is clear (R529). -/
def refuseBar2 (s : State) (h : Nat) (write : Bool) (kind : Nat) : State :=
  let s := s.bump R.GCTL_BAR2REF 1
  if s.flag R.GCTL_BAR2ERR F.GCTL_BAR2ERR_VALID then s
  else s.setReg R.GCTL_BAR2ERR (BitVec.ofNat 64 (1 + h % 2 ^ 41 * 2 + boolNat write * 2 ^ 42 + kind * 2 ^ 43))

/-- A read of device addresses [a, a + n) for the host, and its completion (R530). -/
def bar2Load (s : State) (a n : Nat) : State :=
  if windowOf a = .tstore then
    let (s, bs) := tstoreRead s a n
    s.emit (.completion bs false)
  else
    let (s, bs) := memRead s .host 0 a n
    s.emit (.completion (bs.map (·.1)) (bs.any (·.2)))

/-- A write at device address `a` for the host; a poisoned one writes its bytes marked Deferred (R402, R530). -/
def bar2Store (s : State) (a : Nat) (data : List Byte) (poisoned : Bool) : State :=
  if windowOf a = .tstore then tstoreWrite s a data else memWrite s .host a data poisoned

/-- A BAR2 request that R342 does not hold. -/
def bar2Do (s : State) (off n : Nat) (f : State → Nat → State) (write : Bool) : State :=
  match bar2Route s (hostView s off) n with
  | .ok a => f s a
  | .error k =>
    let s := refuseBar2 s (hostView s off) write k
    if write then s else s.emit .completerAbort

end Sys2Proof.Machine
end

