-- ==== Sys2Proof/Machine/Hbm.lean ====
section
/-! DEFINITION. The stacks (09_stacked_memory.md): accesses at a controller, the write-combining buffers, scrub, retirement,
sparing and fences, temperature and margining; and the pan scrubber (R306) and the L1 control registers (R314, R315). -/

namespace Sys2Proof.Machine
open Sys2Proof

/-! ### Accesses that arrive at a stack -/

/-- Who an agent is as a requester. -/
def agentWho (a : Agent) : Who := match a with | .host => .host | .thread t => .thread t | .mc => .mc

/-- The part of [a, a + n) that lies in HBM. -/
def hbmLen (a n : Nat) : Nat := min n (Config.hbmBytes - a)

/-- An access that meets a row or granule being copied waits at the stack until the copy ends (R342, R345). -/
def holdAt (s : State) (a : Nat) (c : Instr) : State :=
  s.updStack (stackOf (hbmPlace s a)) (fun x => { x with held := x.held ++ [{ addr := a, cmd := c, map := mapping s }] })

/-- The device address of a BAR2 request that must wait for a copy, by `busy` (R342, R345). DESIGN CHOICE: assumption 18. -/
def bar2Held (s : State) (off n : Nat) (busy : State → Nat → Nat → Bool) : Option Nat :=
  match bar2Route s (hostView s off) n with
  | .ok a => if busy s a n then some a else none
  | .error _ => none

/-- A host read through BAR2 (R529, R530); one that the stack holds keeps the device address it had when it was received. -/
def doBar2Read (s : State) (off n : Nat) (up : List Upset) : State :=
  if n = 0 ∨ 2 ^ s.host.barLog2 < off + n then s
  else
    let s := strikes s up
    match bar2Held s off n anyRowBusy with
    | some a => holdAt s a (.bar2Read off n [])
    | none => bar2Do s off n (fun z a => bar2Load z a n) false

/-- A host write through BAR2. -/
def doBar2Write (s : State) (off : Nat) (data : List Byte) (poisoned : Bool) (up : List Upset) : State :=
  if data = [] ∨ 2 ^ s.host.barLog2 < off + data.length then s
  else
    let s := strikes s up
    match bar2Held s off data.length anyWriteBusy with
    | some a => holdAt s a (.bar2Write off data poisoned [])
    | none => bar2Do s off data.length (fun z a => bar2Store z a data poisoned) true

/-- An access to HBM, at its home: what is returned leaves in `out`. -/
def hbmAccess (s : State) (c : Instr) : State :=
  match c with
  | .hbmWrite w a data up =>
    let n := hbmLen a data.length
    let s := strikes s up
    if anyWriteBusy s a n then holdAt s a (.hbmWrite w a data []) else memWrite s (agentWho w) a (data.take n)
  | .hbmRead w a len up =>
    let n := hbmLen a len
    let s := strikes s up
    if anyRowBusy s a n then holdAt s a (.hbmRead w a len [])
    else
      let (s, bs) := memRead s (agentWho w) 0 a n
      s.emit (.readData bs)
  | .hbmAtomic w a op dbl operand compare up =>
    let n := if dbl then 8 else 4
    let s := strikes s up
    let a := a / n * n
    if Config.hbmBytes < a + n then s
    else if anyWriteBusy s a n then holdAt s a (.hbmAtomic w a op dbl operand compare [])
    else
      let (s, old, bad) := memAtomic s (agentWho w) a op dbl operand compare
      s.emit (.readData ((leBytes n old).map (fun b => (b, bad))))
  | _ => s

/-- An access that waited, performed under the interleave under which it arrived (R331). -/
def heldAccess (s : State) (e : Held) : State :=
  (underMapping s e.map (fun s => (match e.cmd with
    | .bar2Read _ n _ => if anyRowBusy s e.addr n then holdAt s e.addr e.cmd else bar2Load s e.addr n
    | .bar2Write _ data poisoned _ =>
      if anyWriteBusy s e.addr data.length then holdAt s e.addr e.cmd else bar2Store s e.addr data poisoned
    | c => hbmAccess s c, ()))).1

/-! ### Write-combining buffer (R336) -/

def flushAll (s : State) (k : StackId) : State := flushWhere s k (fun _ => true)

/-- The oldest entry reaches its age limit, and every entry of that age is written. DESIGN CHOICE: assumption 56. -/
def ageFlush (s : State) (k : StackId) : State :=
  match (s.stack k).wcb with
  | [] => s
  | e :: _ =>
    let age := s.fld (R.MEM_WCCFG k) F.MEM_WCCFG_AGE
    let s := elapseTo s (e.since + BitVec.ofNat 64 age)
    flushWhere s k (fun x => decide (x.since.toNat + age ≤ s.now.toNat))

/-! ### Patrol scrub (R341, R306) -/

/-- Pseudo-channel `p` is out of service: fenced, or replaced by the spare (R345, R346). -/
def pchOut (s : State) (k : StackId) (p : Nat) : Bool := bit (s.reg (R.MEM_PCOOS k)) p

/-- The scrubber's pointer after (l, p). -/
def scrubAfter (l p : Nat) : Nat × Nat := if p < 63 then (l, p + 1) else (if l + 1 < Config.granulesPerPch then l + 1 else 0, 0)

/-- The pointer moved past pseudo-channels out of service; at most 64 steps. -/
def scrubSkip (s : State) (k : StackId) : Nat → Nat × Nat → Option (Nat × Nat)
  | 0, _ => none
  | n + 1, (l, p) => if pchOut s k p then scrubSkip s k n (scrubAfter l p) else some (l, p)

def scrubStack (s : State) (k : StackId) : State :=
  if !s.flag (R.MEM_CTRL k) F.MEM_CTRL_SCRUBEN || decide (s.fld (R.MEM_STAT k) F.MEM_STAT_STATE ≠ 1) then s
  else
    match scrubSkip s k 65 (s.fld (R.MEM_SCRUB k) F.MEM_SCRUB_PTRL, s.fld (R.MEM_SCRUB k) F.MEM_SCRUB_PTRPCH) with
    | none => s
    | some (l, p) =>
      let base := ({ stack := k.val, pch := p, l := l, b := 0 } : Place).key
      let s := (List.range 8).foldl (fun z i => (checkCodeword z (base + 32 * i) 3).1) s
      let (l', p') := scrubAfter l p
      (s.setFld (R.MEM_SCRUB k) F.MEM_SCRUB_PTRL l').setFld (R.MEM_SCRUB k) F.MEM_SCRUB_PTRPCH p'

def scrubPan (s : State) (n : SpindleId) : State :=
  if !s.flag (R.SPINDLE_PANCFG n) F.SPINDLE_PANCFG_SCRUBEN || panOut s n then s
  else
    let line := (s.spin n).scrubLine
    let s := (List.range 8).foldl (fun z i => (checkWord z (.scrub n) (panAddr n (64 * line + 8 * i))).1) s
    s.updSpin n (fun x => { x with scrubLine := (line + 1) % 2097152 })

/-- A copy of the stack goes on: in TRAINING and in SERVICE, but not while a stack is FENCED or has FAILED (R344, R349). -/
def copyRuns (s : State) (k : StackId) : Bool := decide (s.fld (R.MEM_STAT k) F.MEM_STAT_STATE ≤ 1)

/-! ### Row retirement (R342–R344) -/

/-- Free spare rows of a pseudo-channel. -/
def spareRows (s : State) (k : StackId) (p : Nat) : Nat := 16 - ((s.stack k).retired.filter (fun r => decide (r.pch = p))).length

def copyBusy (s : State) (k : StackId) : Bool :=
  (s.stack k).copying.isSome || (s.stack k).sparing.isSome

def setRetire (s : State) (k : StackId) (stat reason : Nat) : State :=
  (s.setFld (R.MEM_RETIRE k) F.MEM_RETIRE_RSTAT stat).setFld (R.MEM_RETIRE k) F.MEM_RETIRE_REASON reason

/-- GO of MEM.RETIRE, for the row that the register names. -/
def retireGo (s : State) (k : StackId) : State :=
  let r := s.reg (R.MEM_RETIRE k)
  let row : Row := { pch := getF r F.MEM_RETIRE_PCH, sid := getF r F.MEM_RETIRE_SID, bg := getF r F.MEM_RETIRE_BG, ba := getF r F.MEM_RETIRE_BA,
                     row := getF r F.MEM_RETIRE_ROW }
  if spareRows s k row.pch = 0 then setRetire s k 3 1
  else if copyBusy s k then setRetire s k 3 2
  else if 18431 < row.row then setRetire s k 3 3
  else if pchOut s k row.pch then setRetire s k 3 4
  else setRetire (s.updStack k (fun x => { x with copying := some row })) k 1 0

/-- The codewords of HBM that hold a latent error and that `p` names, by key. -/
def errKeys (s : State) (p : Place → Bool) : List Nat :=
  (s.errs.filter (fun e => decide (e.1 < Config.hbmBytes) && p (placeOfKey e.1))).map (·.1)

/-- The accesses that waited are performed in order; one that must still wait for another copy is held again. DESIGN CHOICE: assumption 18. -/
def releaseHeld (s : State) (k : StackId) : State :=
  let l := (s.stack k).held
  l.foldl heldAccess (s.updStack k (fun x => { x with held := [] }))

/-- Accesses held for a granule alone go on once its copy has ended (R345). -/
def releaseGranules (s : State) : State :=
  allStacks.foldl (fun z k => if (z.stack k).held.isEmpty || (z.stack k).copying.isSome || !copyRuns z k then z else releaseHeld z k) s

/-- The copy of the row ends: later accesses reach the spare row, those that waited are performed, and the register says so
(R342). -/
def retireEnd (s : State) (k : StackId) : State :=
  match (s.stack k).copying with
  | none => s
  | some row =>
    if !copyRuns s k then s
    else
      let s := (errKeys s (fun p => decide (p.stack = k.val) && decide (rowOf p = row))).foldl (fun z a => (checkCodeword z a 5).1) s
      let s := releaseHeld (s.updStack k (fun x => { x with copying := none, retired := x.retired ++ [row] })) k
      logRepair (memEvent (setRetire s k 2 0) k 4) (.retire k.val row)

/-! ### Sparing and fences (R345, R346) -/

def setSpare (s : State) (k : StackId) (stat reason : Nat) : State :=
  (s.setFld (R.MEM_SPARE k) F.MEM_SPARE_SSTAT stat).setFld (R.MEM_SPARE k) F.MEM_SPARE_REASON reason

/-- GO of MEM.SPARE. A GO that comes while the copy runs is rejected, and the copy goes on. DESIGN CHOICE: assumption 57. -/
def spareGo (s : State) (k : StackId) : State :=
  let p := s.fld (R.MEM_SPARE k) F.MEM_SPARE_PCH
  if s.flag (R.MEM_SPARE k) F.MEM_SPARE_USED then setSpare s k 3 1
  else if copyBusy s k then setSpare s k 3 2
  else if pchOut s k p then setSpare s k 3 3
  else
    let s := (setSpare s k 1 0).setFld (R.MEM_SPARE k) F.MEM_SPARE_PTR 0
    (s.setFld (R.MEM_SPARE k) F.MEM_SPARE_SPARED p).updStack k (fun x => { x with sparing := some p, spareFrac := 0 })

def markOut (s : State) (k : StackId) (p : Nat) : State := s.setReg (R.MEM_PCOOS k) (setBit (s.reg (R.MEM_PCOOS k)) p true)

/-- The copy has reached the end: every later access goes to the spare (R345). -/
def spareEnd (s : State) (k : StackId) : State :=
  match (s.stack k).sparing with
  | none => s
  | some p => if !copyRuns s k then s else
    let s := s.updStack k (fun x => { x with sparing := none, spareFrac := 0 })
    let s := (errKeys s (fun x => decide (x.stack = k.val) && decide (x.pch = p))).foldl (fun z a => (checkCodeword z a 4).1) s
    let s := markOut ((setSpare s k 2 0).setFld (R.MEM_SPARE k) F.MEM_SPARE_PTR Config.granulesPerPch) k p
    logRepair (memEvent (s.setFlag (R.MEM_SPARE k) F.MEM_SPARE_USED true) k 5) (.spare k.val p)

/-- Pseudo-channel `p` leaves service without a copy. -/
def fencePch (s : State) (k : StackId) (p : Nat) : State :=
  let s := flushWhere s k (fun e => decide ((placeOfKey (64 * e.line)).pch = p))
  (markOut s k p).updStack k (fun x => { x with fenced := x.fenced ||| BitVec.ofNat 64 (2 ^ p) })

/-! ### Temperature (R347–R350) -/

/-- The level that follows `l` at stack temperature `t`; Critical is left under R350 alone. DESIGN CHOICE: assumption 58. -/
def stackLevel (l t : Nat) : Nat :=
  if l = 3 ∨ 400 ≤ t then 3
  else if 352 ≤ t then 2
  else if l = 2 ∧ 352 < t + 12 then 2
  else if 320 ≤ t then 1
  else if l ≠ 0 ∧ 320 < t + 12 then 1
  else 0

def setLevel (s : State) (k : StackId) (l : Nat) : State :=
  (s.setFld (R.MEM_STAT k) F.MEM_STAT_TLEVEL l).setFlag (R.MEM_STAT k) F.MEM_STAT_REFX2 (decide (2 ≤ l))

def fourTemps (l : List Nat) : Word :=
  BitVec.ofNat 64 (l.getD 0 0 + l.getD 1 0 * 2 ^ 16 + l.getD 2 0 * 2 ^ 32 + l.getD 3 0 * 2 ^ 48)

/-- A stack enters Critical (R349). -/
def enterCritical (s : State) (k : StackId) : State :=
  let s := flushAll s k
  let s := if s.fld (R.MEM_STAT k) F.MEM_STAT_STATE ≤ 1 then s.setFld (R.MEM_STAT k) F.MEM_STAT_STATE 2 else s
  memEvent (report s UKind.STACK k.val 0x0A (s.reg (R.MEM_TEMP k))) k 2

/-- One sample: 4 base-die and 16 DRAM-die readings. DESIGN CHOICE: assumption 58. -/
def stackSample (s : State) (k : StackId) (bd dr : List (BitVec 10)) : State :=
  let b := (List.range 4).map (fun i => (bd.getD i 0).toNat)
  let d := (List.range 16).map (fun i => (dr.getD i 0).toNat)
  let bm := b.foldl max 0
  let dm := d.foldl max 0
  let t := max bm dm
  let die := ((List.range 16).find? (fun i => decide (d.getD i 0 = dm))).getD 0
  let s := s.setReg (R.MEM_TEMP k) (BitVec.ofNat 64 (t + bm * 2 ^ 16 + dm * 2 ^ 32 + die * 2 ^ 48))
  let s := s.setReg (R.MEM_BDTEMP k) (fourTemps b)
  let s := (List.range 4).foldl (fun z i => z.setReg (R.MEM_DRTEMP k i) (fourTemps (d.drop (4 * i)))) s
  let old := s.fld (R.MEM_STAT k) F.MEM_STAT_TLEVEL
  let new := stackLevel old t
  let s := setLevel s k new
  let s := if old < new then (if new = 3 then enterCritical s k else memEvent s k (new - 1)) else s
  if 420 ≤ t then thermTrip s 2 k.val else s

/-- A FENCED stack returns to SERVICE when every reading is below 80 °C (R350). -/
def resumeStack (s : State) (k : StackId) : State :=
  let t := s.fld (R.MEM_TEMP k) F.MEM_TEMP_MAXT
  if s.fld (R.MEM_STAT k) F.MEM_STAT_STATE = 2 ∧ t < 320 then
    setLevel (s.setFld (R.MEM_STAT k) F.MEM_STAT_STATE 1) k (if t + 12 ≤ 320 then 0 else 1)
  else s

/-- A write of 1 to MEM.CTRL.RESUME, which AUTORES makes of no effect (R350). -/
def resumeGo (s : State) (k : StackId) : State := if s.flag (R.MEM_CTRL k) F.MEM_CTRL_AUTORES then s else resumeStack s k

/-! ### Margining (R352, R353) -/

def marginStat (s : State) (k : StackId) (v : Nat) : State := s.setFld (R.MEM_MARGIN k) F.MEM_MARGIN_MSTAT v

/-- The data of pseudo-channel `p` is destroyed: its bytes are free until they are written. DESIGN CHOICE: assumption 59. -/
def scramble (s : State) (k : StackId) (p : Nat) : State :=
  let s := { s with free := s.free + 1 }
  s.updStack k (fun x => { x with scrambled := SMap.set 0 x.scrambled p s.free,
                                  rewritten := SMap.clear x.rewritten (fun a => decide ((placeOfKey a).pch = p)) })

/-- START of MEM.MARGIN, for the test that the register names. DESIGN CHOICE: assumption 59. -/
def marginGo (s : State) (k : StackId) : State :=
  let r := s.reg (R.MEM_MARGIN k)
  let p := getF r F.MEM_MARGIN_PCH
  let mode := getF r F.MEM_MARGIN_MODE
  let off := sextNat (getF r F.MEM_MARGIN_OFFSET) 8
  let s := s.setFlag (R.MEM_MARGIN k) F.MEM_MARGIN_DONE false
  let training := decide (s.fld (R.MEM_STAT k) F.MEM_STAT_STATE = 0)
  let oos := bit (s.reg (R.MEM_PCOOS k)) p
  let allowed := (s.stack k).margin.isNone && (if mode = 0 ∨ mode = 1 then training || oos else decide (mode = 2) && training)
  if !allowed then marginStat s k 1
  else if off < (if mode = 0 then -32 else -30) ∨ (if mode = 0 then 31 else 30) < off then marginStat s k 2
  else
    let s := marginStat (s.updStack k (fun x => { x with margin := some p })) k 0
    -- a spared original's lanes hold no data that an access reaches
    if s.flag (R.MEM_SPARE k) F.MEM_SPARE_USED ∧ s.fld (R.MEM_SPARE k) F.MEM_SPARE_SPARED = p then s else scramble s k p

def marginEnd (s : State) (k : StackId) (errBursts : Nat) (lanes : BitVec 32) : State :=
  match (s.stack k).margin with
  | none => s
  | some _ =>
    let s := s.updStack k (fun x => { x with margin := none })
    let s := s.setReg (R.MEM_MARGRES k) (BitVec.ofNat 64 (min errBursts 4294967295 + lanes.toNat * 2 ^ 32))
    memEvent (s.setFlag (R.MEM_MARGIN k) F.MEM_MARGIN_DONE true) k 6

/-! ### L1 control registers (R314, R315) -/

/-- The ways whose WAYDIS bit becomes set lose their lines. -/
def dropWays (s : State) (n : SpindleId) (d : Bool) : State :=
  (List.finRange 4).foldl (fun z w =>
    if disabledBy (z.reg (ctlOff n d)) w then
      let c := z.cache n d
      z.setCache n d ((c.lines.filter (fun e => decide (e.1 % 4 = w.val))).foldl (fun c e => c.drop e.1) c)
    else z) s

/-- The bits of L1DCTL and L1ICTL that a write sets: all fields but PFPEND. -/
def l1CtlMask : Word := 0x1F77

/-- A write of L1DCTL or L1ICTL. -/
def writeL1Ctl (s : State) (n : SpindleId) (d : Bool) (v m : Word) : State :=
  let o := ctlOff n d
  dropWays (s.setReg o (maskMerge (s.reg o) v (m &&& l1CtlMask))) n d

end Sys2Proof.Machine
end

