-- ==== Sys2Proof/Machine/Operands.lean ====
section
/-! DEFINITION. The number formats of the device (R145–R153, R189): what the bits of an operand or element stand for. -/

namespace Sys2Proof.Machine
open Sys2Proof

/-- A floating-point format of R145: its exponent bits and stored significand bits, and whether it is E4M3 (R146). -/
structure FFmt where
  eb : Nat
  mb : Nat
  e4m3 : Bool := false
  deriving DecidableEq, Repr

def fp64 : FFmt := { eb := 11, mb := 52 }
def fp32 : FFmt := { eb := 8, mb := 23 }
def fp16 : FFmt := { eb := 5, mb := 10 }
def bf16 : FFmt := { eb := 8, mb := 7 }
def e5m2 : FFmt := { eb := 5, mb := 2 }
def e4m3 : FFmt := { eb := 4, mb := 3, e4m3 := true }

def FFmt.width (f : FFmt) : Nat := 1 + f.eb + f.mb
def FFmt.bias (f : FFmt) : Nat := 2 ^ (f.eb - 1) - 1
/-- Exponent of the last place of a subnormal. -/
def FFmt.qmin (f : FFmt) : Int := 1 - (f.bias : Int) - f.mb
/-- The sign bit alone. -/
def FFmt.signBit (f : FFmt) : Nat := 2 ^ (f.eb + f.mb)
def FFmt.infBits (f : FFmt) : Nat := (2 ^ f.eb - 1) * 2 ^ f.mb
/-- The canonical quiet NaN (R147). -/
def FFmt.canonNan (f : FFmt) : Nat := if f.e4m3 then 0x7F else f.infBits + 2 ^ (f.mb - 1)
/-- The bits of the largest finite value. -/
def FFmt.maxBits (f : FFmt) : Nat := if f.e4m3 then 0x7E else f.infBits - 1

/-- What the bits of a floating-point operand stand for: a NaN (quiet or signalling), an infinity, or sig · 2^exp. -/
inductive FVal where
  | nan (neg quiet : Bool)
  | inf (neg : Bool)
  | fin (neg : Bool) (sig : Nat) (exp : Int)
  deriving DecidableEq, Repr

/-- The value of a format's bits (R145–R147). -/
def FFmt.unpack (f : FFmt) (bits : Nat) : FVal :=
  let x := bits % 2 ^ f.width
  let neg := decide (f.signBit ≤ x)
  let e := x / 2 ^ f.mb % 2 ^ f.eb
  let m := x % 2 ^ f.mb
  if f.e4m3 ∧ e = 15 ∧ m = 7 then .nan neg true
  else if !f.e4m3 ∧ e = 2 ^ f.eb - 1 then
    if m = 0 then .inf neg else .nan neg (decide (2 ^ (f.mb - 1) ≤ m))
  else if e = 0 then .fin neg m f.qmin
  else .fin neg (2 ^ f.mb + m) (f.qmin + (e - 1))

def FFmt.isNan (f : FFmt) (bits : Nat) : Bool := match f.unpack bits with | .nan _ _ => true | _ => false
def FFmt.isSnan (f : FFmt) (bits : Nat) : Bool := match f.unpack bits with | .nan _ q => !q | _ => false
def FFmt.neg? (f : FFmt) (bits : Nat) : Bool := decide (f.signBit ≤ bits % 2 ^ f.width)
/-- A NaN with its quiet bit set (R163). -/
def FFmt.quiet (f : FFmt) (bits : Nat) : Nat := (bits % 2 ^ f.width) ||| (if f.e4m3 then 0 else 2 ^ (f.mb - 1))
def FFmt.flip (f : FFmt) (bits : Nat) : Nat := (bits % 2 ^ f.width) ^^^ f.signBit
def FFmt.mag (f : FFmt) (bits : Nat) : Nat := bits % f.signBit
def FFmt.withSign (f : FFmt) (neg : Bool) (mag : Nat) : Nat := mag + (if neg then f.signBit else 0)

/-! ### Element types (R189) -/

inductive ElemTy where
  | float (f : FFmt)
  | int (signed : Bool) (w : Nat)
  deriving DecidableEq, Repr

def ElemTy.width : ElemTy → Nat
  | .float f => f.width
  | .int _ w => w

/-- The type of a code of R189. -/
def elemTy (c : Nat) : ElemTy :=
  match c % 16 with
  | 0 => .float fp64 | 1 => .float fp32 | 2 => .float fp16 | 3 => .float bf16 | 4 => .float e4m3 | 5 => .float e5m2
  | 6 => .int true 64 | 7 => .int true 32 | 8 => .int true 16 | 9 => .int true 8 | 10 => .int false 64 | 11 => .int false 32
  | 12 => .int false 16 | 13 => .int false 8 | 14 => .int true 4 | _ => .int false 4

/-- An integer element as a number (R149). -/
def intVal (signed : Bool) (w bits : Nat) : Int := if signed then sextNat bits w else ((bits % 2 ^ w : Nat) : Int)
def intMin (signed : Bool) (w : Nat) : Int := if signed then -(2 ^ (w - 1) : Nat) else 0
def intMax (signed : Bool) (w : Nat) : Int := if signed then (2 ^ (w - 1) : Nat) - 1 else (2 ^ w : Nat) - 1
def intBits (w : Nat) (i : Int) : Nat := (i % (2 ^ w : Nat)).toNat

/-! ### Packed elements in a byte string (R150, R188) -/

/-- Element `i` of width `w` bits in bytes that are held as one number, byte 0 lowest. -/
def elemAt (x : Nat) (w i : Nat) : Nat := (x >>> (w * i)) % 2 ^ w

/-- Elements as bytes, element 0 first. -/
def packElems (w : Nat) (es : List Nat) : Nat := (es.reverse).foldl (fun a e => a * 2 ^ w + e % 2 ^ w) 0

end Sys2Proof.Machine
end

