-- ==== Sys2Proof/Machine/Flags.lean ====
section
/-! DEFINITION. The sticky flags (R176) and the arithmetic that sets them: rounding (R161, R162), NaNs (R163), the IEEE 754-2019
operations of the scalar and vector units, conversions (R167–R171), exp2 and log2 (R202). -/

namespace Sys2Proof.Machine
open Sys2Proof

/-- Five flags in the layout of R176. -/
abbrev Flags := BitVec 5
def NV : Flags := 1
def DZ : Flags := 2
def OF : Flags := 4
def UF : Flags := 8
def NX : Flags := 16

/-- Rounding modes (R94). -/
inductive Rm where
  | rne | rtz | rdn | rup | rna
  deriving DecidableEq, Repr

def rmOf (n : Nat) : Option Rm :=
  match n with
  | 0 => some .rne | 1 => some .rtz | 2 => some .rdn | 3 => some .rup | 4 => some .rna | _ => none

/-- What an overflow gives: as IEEE 754-2019, the largest finite value, or a NaN (R167). -/
inductive OvMode where
  | ieee | largest | nan
  deriving DecidableEq, Repr

/-- A result: bits and the flags signalled. -/
structure FRes where
  bits : Nat
  fl : Flags := 0
  deriving DecidableEq, Repr

/-! ### Rounding -/

def bitLen (n : Nat) : Nat := if n = 0 then 0 else Nat.log2 n + 1

/-- Whether a magnitude moves up: `odd` the last kept bit, `cmp` the discarded part against one half, `any` it is nonzero. -/
def roundUp (rm : Rm) (neg odd : Bool) (cmp : Ordering) (any : Bool) : Bool :=
  match rm with
  | .rne => decide (cmp = .gt) || (decide (cmp = .eq) && odd)
  | .rna => decide (cmp ≠ .lt)
  | .rtz => false
  | .rdn => neg && any
  | .rup => !neg && any

/-- The magnitude (sig, or just above it when `sticky`) · 2^exp, rounded to a multiple of 2^q: the multiple, and whether it is
inexact. -/
def roundAt (rm : Rm) (neg : Bool) (sig : Nat) (exp : Int) (sticky : Bool) (q : Int) : Nat × Bool :=
  if q ≤ exp then
    let n := sig * 2 ^ (exp - q).toNat
    if sticky then (if roundUp rm neg (decide (n % 2 = 1)) .lt true then n + 1 else n, true) else (n, false)
  else
    let sh := (q - exp).toNat
    let n := sig / 2 ^ sh
    let r := sig % 2 ^ sh
    let half := 2 ^ (sh - 1)
    let cmp := if r < half then Ordering.lt else if half < r ∨ sticky then Ordering.gt else Ordering.eq
    let any := decide (r ≠ 0) || sticky
    (if roundUp rm neg (decide (n % 2 = 1)) cmp any then n + 1 else n, any)

/-- The result of an overflow. -/
def ovBits (f : FFmt) (rm : Rm) (ov : OvMode) (neg : Bool) : Nat :=
  match ov with
  | .nan => f.withSign neg f.canonNan
  | .largest => f.withSign neg f.maxBits
  | .ieee =>
    let toMax := match rm with | .rtz => true | .rdn => !neg | .rup => neg | .rne | .rna => false
    f.withSign neg (if toMax then f.maxBits else f.infBits)

/-- A nonzero exact magnitude (just above sig · 2^exp when `sticky`), rounded once to format `f` with subnormals honoured;
tininess is detected after rounding (R162). -/
def roundMag (f : FFmt) (rm : Rm) (ov : OvMode) (neg : Bool) (sig : Nat) (exp : Int) (sticky : Bool := false) : FRes :=
  if sig = 0 then { bits := f.withSign neg 0 }
  else
    let q1 := exp + bitLen sig - (f.mb + 1)
    let q := max q1 f.qmin
    let (n, inx) := roundAt rm neg sig exp sticky q
    let mag := (q - f.qmin).toNat * 2 ^ f.mb + n
    if f.maxBits < mag then { bits := ovBits f rm ov neg, fl := OF ||| NX }
    else
      let tiny := decide (q1 < f.qmin) && (
        let (n1, _) := roundAt rm neg sig exp sticky q1
        -- n1·2^q1 below the smallest normal 2^(qmin + mb)
        decide (q1 + bitLen n1 ≤ f.qmin + f.mb))
      { bits := f.withSign neg mag, fl := if inx then (if tiny then UF ||| NX else NX) else 0 }

/-- An exact dyadic value m · 2^e. -/
structure Dy where
  m : Int
  e : Int
  deriving DecidableEq, Repr

def dyOf (neg : Bool) (sig : Nat) (exp : Int) : Dy := { m := if neg then -(sig : Int) else sig, e := exp }
def Dy.add (a b : Dy) : Dy :=
  let e := min a.e b.e
  { m := a.m * 2 ^ (a.e - e).toNat + b.m * 2 ^ (b.e - e).toNat, e := e }
def Dy.mul (a b : Dy) : Dy := { m := a.m * b.m, e := a.e + b.e }
def Dy.neg (a : Dy) : Dy := { a with m := -a.m }
/-- a < b, exactly. -/
def Dy.lt (a b : Dy) : Bool := decide ((a.add b.neg).m < 0)
def Dy.isZero (a : Dy) : Bool := decide (a.m = 0)

/-- An exact value rounded; an exact zero takes the sign `zneg`. -/
def roundDy (f : FFmt) (rm : Rm) (ov : OvMode) (x : Dy) (zneg : Bool) : FRes :=
  if x.m = 0 then { bits := f.withSign zneg 0 } else roundMag f rm ov (decide (x.m < 0)) x.m.natAbs x.e

/-! ### Arithmetic (R161–R166) -/

/-- The NaN result of R163, if an operand is NaN. -/
def nanRes (f : FFmt) (ops : List Nat) : Option FRes :=
  match ops.find? f.isNan with
  | none => none
  | some x => some { bits := f.quiet x, fl := if ops.any f.isSnan then NV else 0 }

def invalidRes (f : FFmt) : FRes := { bits := f.canonNan, fl := NV }

/-- The sign of an exact zero sum (IEEE 754-2019). -/
def zeroSign (rm : Rm) (na nb : Bool) : Bool := if na = nb then na else decide (rm = .rdn)

def fAdd (f : FFmt) (rm : Rm) (a b : Nat) : FRes :=
  match nanRes f [a, b] with
  | some r => r
  | none =>
    match f.unpack a, f.unpack b with
    | .inf na, .inf nb => if na = nb then { bits := f.withSign na f.infBits } else invalidRes f
    | .inf na, _ => { bits := f.withSign na f.infBits }
    | _, .inf nb => { bits := f.withSign nb f.infBits }
    | .fin na sa ea, .fin nb sb eb => roundDy f rm .ieee ((dyOf na sa ea).add (dyOf nb sb eb)) (zeroSign rm na nb)
    | _, _ => invalidRes f

/-- A NaN subtrahend keeps its sign. -/
def fSub (f : FFmt) (rm : Rm) (a b : Nat) : FRes :=
  match nanRes f [a, b] with
  | some r => r
  | none => fAdd f rm a (f.flip b)

def fMul (f : FFmt) (rm : Rm) (a b : Nat) : FRes :=
  match nanRes f [a, b] with
  | some r => r
  | none =>
    match f.unpack a, f.unpack b with
    | .inf na, .inf nb => { bits := f.withSign (na != nb) f.infBits }
    | .inf na, .fin nb sb _ => if sb = 0 then invalidRes f else { bits := f.withSign (na != nb) f.infBits }
    | .fin na sa _, .inf nb => if sa = 0 then invalidRes f else { bits := f.withSign (na != nb) f.infBits }
    | .fin na sa ea, .fin nb sb eb => roundMag f rm .ieee (na != nb) (sa * sb) (ea + eb)
    | _, _ => invalidRes f

def fDiv (f : FFmt) (rm : Rm) (a b : Nat) : FRes :=
  match nanRes f [a, b] with
  | some r => r
  | none =>
    match f.unpack a, f.unpack b with
    | .inf _, .inf _ => invalidRes f
    | .inf na, .fin nb _ _ => { bits := f.withSign (na != nb) f.infBits }
    | .fin na _ _, .inf nb => { bits := f.withSign (na != nb) 0 }
    | .fin na sa ea, .fin nb sb eb =>
      if sb = 0 then (if sa = 0 then invalidRes f else { bits := f.withSign (na != nb) f.infBits, fl := DZ })
      else if sa = 0 then { bits := f.withSign (na != nb) 0 }
      else
        let k := 2 * f.mb + 4 + bitLen sb
        roundMag f rm .ieee (na != nb) (sa * 2 ^ k / sb) (ea - eb - k) (decide (sa * 2 ^ k % sb ≠ 0))
    | _, _ => invalidRes f

/-- Integer square root, one bit of the root per step. -/
def isqrtAux : Nat → Nat → Nat → Nat
  | 0, _, r => r
  | k + 1, n, r => let c := r + 2 ^ k; isqrtAux k n (if c * c ≤ n then c else r)
def isqrt (n : Nat) : Nat := isqrtAux (bitLen n / 2 + 1) n 0

def fSqrt (f : FFmt) (rm : Rm) (a : Nat) : FRes :=
  match nanRes f [a] with
  | some r => r
  | none =>
    match f.unpack a with
    | .inf false => { bits := f.infBits }
    | .inf true => invalidRes f
    | .fin neg s e =>
      if s = 0 then { bits := f.withSign neg 0 }
      else if neg then invalidRes f
      else
        let k0 := 2 * f.mb + 8
        let k := if (e - k0) % 2 = 0 then k0 else k0 + 1
        let n := s * 2 ^ k
        let r := isqrt n
        roundMag f rm .ieee false r ((e - k) / 2) (decide (r * r ≠ n))
    | _ => invalidRes f

/-- An exact product with its sign, for the fused forms. -/
inductive Prod where
  | nan | inf (neg : Bool) | fin (neg : Bool) (d : Dy)
  deriving DecidableEq, Repr

/-- The product of two values that are not NaN; `nan` for ∞ × 0. -/
def prodOf (a b : FVal) : Prod :=
  match a, b with
  | .inf na, .inf nb => .inf (na != nb)
  | .inf na, .fin nb s _ => if s = 0 then .nan else .inf (na != nb)
  | .fin na s _, .inf nb => if s = 0 then .nan else .inf (na != nb)
  | .fin na sa ea, .fin nb sb eb => .fin (na != nb) (dyOf (na != nb) (sa * sb) (ea + eb))
  | _, _ => .nan

/-- The sum of exact terms, rounded once; each is an infinity or a signed finite value. None for an invalid sum. -/
def sumTerms (f : FFmt) (rm : Rm) (ts : List Prod) : FRes :=
  if .nan ∈ ts then invalidRes f
  else
    let pos := decide (Prod.inf false ∈ ts)
    let neg := decide (Prod.inf true ∈ ts)
    if pos && neg then invalidRes f
    else if pos then { bits := f.infBits }
    else if neg then { bits := f.withSign true f.infBits }
    else
      let d := ts.foldl (fun a t => match t with | .fin _ x => a.add x | _ => a) { m := 0, e := 0 }
      let negs := ts.map (fun t => match t with | .fin n _ => n | _ => false)
      let zneg := if negs.all id then true else if negs.all (!·) then false else decide (rm = .rdn)
      roundDy f rm .ieee d zneg

def termOf : FVal → Prod
  | .inf n => .inf n
  | .fin n s e => .fin n (dyOf n s e)
  | .nan _ _ => .nan

/-- ±(a × b) ± c rounded once (R161, R164); NaN operands in the order a, b, c. -/
def fFma (f : FFmt) (rm : Rm) (negP negC : Bool) (a b c : Nat) : FRes :=
  let a' := f.unpack a
  let b' := f.unpack b
  let infZero := match a', b' with
    | .inf _, .fin _ 0 _ => true
    | .fin _ 0 _, .inf _ => true
    | _, _ => false
  match nanRes f [a, b, c] with
  | some r => { r with fl := r.fl ||| (if infZero then NV else 0) }
  | none =>
    let p := prodOf a' b'
    let p := if negP then (match p with | .inf n => .inf !n | .fin n d => .fin (!n) d.neg | .nan => .nan) else p
    let c' := termOf (f.unpack (if negC then f.flip c else c))
    sumTerms f rm [p, c']

/-! ### Comparison, minimum and maximum, class, sign (R94, R165) -/

/-- The order of two values that are not NaN. -/
def FVal.lt (a b : FVal) : Bool :=
  match a, b with
  | .inf na, .inf nb => na && !nb
  | .inf na, _ => na
  | _, .inf nb => !nb
  | .fin na sa ea, .fin nb sb eb => (dyOf na sa ea).lt (dyOf nb sb eb)
  | _, _ => false

def FVal.eqv (a b : FVal) : Bool :=
  match a, b with
  | .inf na, .inf nb => na == nb
  | .fin na sa ea, .fin nb sb eb => ((dyOf na sa ea).add (dyOf nb sb eb).neg).isZero
  | _, _ => false

inductive CmpKind where
  | eq | lt | le
  deriving DecidableEq, Repr

/-- A compare: equality is quiet, the others signalling. -/
def fCmp (f : FFmt) (k : CmpKind) (a b : Nat) : Bool × Flags :=
  if f.isNan a || f.isNan b then
    (false, if k = .eq then (if f.isSnan a || f.isSnan b then NV else 0) else NV)
  else
    let x := f.unpack a
    let y := f.unpack b
    (match k with | .eq => x.eqv y | .lt => x.lt y | .le => x.lt y || x.eqv y, 0)

/-- minimumNumber and maximumNumber (R165): −0 is less than +0. -/
def fMinMax (f : FFmt) (isMax : Bool) (a b : Nat) : FRes :=
  let fl : Flags := if f.isSnan a || f.isSnan b then NV else 0
  match f.isNan a, f.isNan b with
  | true, true => (nanRes f [a, b]).getD (invalidRes f)
  | true, false => { bits := b % 2 ^ f.width, fl := fl }
  | false, true => { bits := a % 2 ^ f.width, fl := fl }
  | false, false =>
    let x := f.unpack a
    let y := f.unpack b
    let aLess := x.lt y || (x.eqv y && f.neg? a && !f.neg? b)
    { bits := (if aLess = isMax then b else a) % 2 ^ f.width }

def fClass (f : FFmt) (a : Nat) : Nat :=
  let n := f.neg? a
  match f.unpack a with
  | .nan _ q => if q then 512 else 256
  | .inf _ => if n then 1 else 128
  | .fin _ s _ =>
    if s = 0 then (if n then 8 else 16) else if s < 2 ^ f.mb then (if n then 4 else 32) else (if n then 2 else 64)

/-! ### Conversions (R167–R171) -/

/-- Floating point to floating point. -/
def cvtFF (src dst : FFmt) (rm : Rm) (ov : OvMode) (a : Nat) : FRes :=
  let neg := src.neg? a
  match src.unpack a with
  | .fin _ s e => roundMag dst rm ov neg s e
  | .inf _ => if dst.e4m3 then { bits := dst.withSign neg dst.canonNan, fl := NV } else { bits := dst.withSign neg dst.infBits }
  | .nan _ q =>
    let fl : Flags := if q then 0 else NV
    if dst.e4m3 || src.e4m3 then { bits := dst.withSign neg dst.canonNan, fl := fl }
    else
      let pay := a % 2 ^ (src.mb - 1)
      let pay := if dst.mb ≤ src.mb then pay / 2 ^ (src.mb - dst.mb) else pay * 2 ^ (dst.mb - src.mb)
      { bits := dst.withSign neg (dst.canonNan + pay), fl := fl }

/-- Floating point to an integer of `w` bits. -/
def cvtFI (src : FFmt) (signed : Bool) (w : Nat) (rm : Rm) (a : Nat) : FRes :=
  match src.unpack a with
  | .nan _ _ => { bits := 0, fl := NV }
  | .inf n => { bits := intBits w (if n then intMin signed w else intMax signed w), fl := OF ||| NX }
  | .fin n s e =>
    let (m, inx) := roundAt rm n s e false 0
    let i : Int := if n then -(m : Int) else m
    if i < intMin signed w then { bits := intBits w (intMin signed w), fl := OF ||| NX }
    else if intMax signed w < i then { bits := intBits w (intMax signed w), fl := OF ||| NX }
    else { bits := intBits w i, fl := if inx then NX else 0 }

/-- An integer value to floating point. -/
def cvtIF (dst : FFmt) (rm : Rm) (ov : OvMode) (i : Int) : FRes := roundDy dst rm ov { m := i, e := 0 } false

/-- An integer value to an integer type. -/
def cvtII (signed : Bool) (w : Nat) (i : Int) : FRes :=
  if i < intMin signed w then { bits := intBits w (intMin signed w), fl := OF ||| NX }
  else if intMax signed w < i then { bits := intBits w (intMax signed w), fl := OF ||| NX }
  else { bits := intBits w i }

/-- What an overflow of a conversion to `dst` gives under SAT (R167). -/
def ovOf (dst : FFmt) (sat : Bool) : OvMode :=
  if dst = e4m3 then (if sat then .largest else .nan) else if dst = e5m2 then (if sat then .largest else .ieee) else .ieee

/-- Any element type to any other. -/
def convert (src dst : ElemTy) (rm : Rm) (sat : Bool) (a : Nat) : FRes :=
  match src, dst with
  | .float f, .float g => cvtFF f g rm (ovOf g sat) a
  | .float f, .int sg w => cvtFI f sg w rm a
  | .int sg w, .float g => cvtIF g rm (ovOf g sat) (intVal sg w a)
  | .int sg w, .int sh v => cvtII sh v (intVal sg w a)

/-! ### exp2 and log2 (R202) -/

def fixBits : Nat := 256

/-- 2^(f / 2^n) as a fixed-point number of `fixBits` bits, from the bits of f, most significant first: `r` is 2^(2^−j). -/
def pow2Aux : Nat → Nat → Nat → Nat → Nat
  | 0, _, _, acc => acc
  | n + 1, f, r, acc =>
    let r' := isqrt (r * 2 ^ fixBits)
    pow2Aux n f r' (if f.testBit n then acc * r' / 2 ^ fixBits else acc)

/-- 2^x in FP32, correctly rounded in roundTiesToEven. 2^x is irrational unless x is an integer. -/
def fExp2 (a : Nat) : FRes :=
  let f := fp32
  match nanRes f [a] with
  | some r => r
  | none =>
    match f.unpack a with
    | .inf true => { bits := 0 }
    | .inf false => { bits := f.infBits }
    | .fin neg s e =>
      if s = 0 then { bits := 0x3F800000 }
      else if 8 ≤ e + bitLen s then
        -- |x| ≥ 128
        if neg ∧ (e + bitLen s ≤ 8) then
          let i : Int := -((s * 2 ^ e.toNat / 2 ^ (-e).toNat : Nat) : Int)
          if (s * 2 ^ e.toNat) % 2 ^ (-e).toNat = 0 then roundMag f .rne .ieee false 1 i
          else
            let n := (-e).toNat
            let x : Int := -(s : Int)
            roundMag f .rne .ieee false (pow2Aux n (x % (2 ^ n : Nat)).toNat (2 ^ (fixBits + 1)) (2 ^ fixBits))
              (x / (2 ^ n : Nat) - fixBits) true
        else if neg then roundMag f .rne .ieee false 1 (-1000) true
        else { bits := f.infBits, fl := OF ||| NX }
      else if e + bitLen s ≤ -30 then { bits := 0x3F800000, fl := NX }
      else
        let n := (-e).toNat
        let x : Int := (if neg then -(s : Int) else s) * 2 ^ e.toNat
        let i := x / (2 ^ n : Nat)
        let fr := (x % (2 ^ n : Nat)).toNat
        if fr = 0 then roundMag f .rne .ieee false 1 i
        else roundMag f .rne .ieee false (pow2Aux n fr (2 ^ (fixBits + 1)) (2 ^ fixBits)) (i - fixBits) true
    | _ => invalidRes f

/-- The first `n` fraction bits of log2 of m / 2^W, 1 ≤ m / 2^W < 2, by repeated squaring. -/
def log2Aux (W : Nat) : Nat → Nat → Nat → Nat
  | 0, _, acc => acc
  | n + 1, m, acc =>
    let q := m * m / 2 ^ W
    if 2 ^ (W + 1) ≤ q then log2Aux W n (q / 2) (2 * acc + 1) else log2Aux W n q (2 * acc)

/-- log2 x in FP32, correctly rounded in roundTiesToEven. -/
def fLog2 (a : Nat) : FRes :=
  let f := fp32
  match nanRes f [a] with
  | some r => r
  | none =>
    match f.unpack a with
    | .inf false => { bits := f.infBits }
    | .inf true => invalidRes f
    | .fin neg s e =>
      if s = 0 then { bits := f.withSign true f.infBits, fl := DZ }
      else if neg then invalidRes f
      else
        let l := bitLen s - 1
        let k : Int := e + l
        if s = 2 ^ l then cvtIF f .rne .ieee k
        else
          let W := 512
          let t : Int := k * (2 ^ 128 : Nat) + (log2Aux W 128 (s * 2 ^ (W - l)) 0 : Nat)
          if 0 ≤ t then roundMag f .rne .ieee false t.toNat (-128) true
          else roundMag f .rne .ieee true (t.natAbs - 1) (-128) true
    | _ => invalidRes f

end Sys2Proof.Machine
end

