-- ==== Sys2Proof/Machine/Chain.lean ====
section
/-! DEFINITION. Chain descriptors and their stages (R209–R213), as vchain and the Reel's update unit (R485, R486) use them. -/

namespace Sys2Proof.Machine
open Sys2Proof

/-- One stage: operation, selectors, rounding mode, and whether a reserved bit is set. -/
structure Stage where
  op : Nat
  a : Nat
  b : Nat
  c : Nat
  rm : Nat
  rsv : Bool
  deriving DecidableEq, Repr

structure ChainDesc where
  vd : Nat
  itype : Nat
  wtype : Nat
  dtype : Nat
  v : List Nat
  k : List Nat
  stages : List Stage
  deriving DecidableEq, Repr

/-- Bits [hi:lo] of a number. -/
def bitsNat (x hi lo : Nat) : Nat := x / 2 ^ lo % 2 ^ (hi + 1 - lo)

def parseStage (x : Nat) : Stage :=
  { op := bitsNat x 7 0, a := bitsNat x 12 8, b := bitsNat x 17 13, c := bitsNat x 22 18, rm := bitsNat x 25 23, rsv := decide (bitsNat x 55 26 ≠ 0) }

/-- The 64 bytes of a descriptor (R209). -/
def parseChain (bs : List Byte) : ChainDesc :=
  let h := ofLe (bs.take 8)
  { vd := bitsNat h 7 3, itype := bitsNat h 11 8, wtype := bitsNat h 15 12, dtype := bitsNat h 19 16,
    v := [bitsNat h 24 20, bitsNat h 29 25, bitsNat h 34 30, bitsNat h 39 35], k := [bitsNat h 45 40, bitsNat h 51 46, bitsNat h 57 52, bitsNat h 63 58],
    stages := (List.range (bitsNat h 2 0 + 1)).map (fun j => parseStage (ofLe ((bs.drop (8 + 7 * j)).take 7))) }

/-! ### Well-formedness (R211, R212) -/

/-- The selectors that a stage's operation uses. -/
def Stage.used (t : Stage) : List Nat :=
  if t.op ∈ [0x07, 0x08, 0x0A, 0x0B, 0x0C] then [t.a]
  else if t.op ∈ [0x04, 0x0F, 0x10] then [t.a, t.b, t.c]
  else [t.a, t.b]

def isIntW (w : Nat) : Bool := decide (w = 6 ∨ w = 7)

/-- The operation exists for the working type. -/
def opOk (w op : Nat) : Bool :=
  if op ∈ [1, 2, 3, 4, 5, 6, 7, 8, 0x0D, 0x0E, 0x0F, 0x10] then true
  else if op ∈ [0x09, 0x0A, 0x11] then !isIntW w
  else if op ∈ [0x0B, 0x0C] then decide (w = 1)
  else if op ∈ [0x12, 0x13, 0x14] then isIntW w
  else false

/-- The operation rounds in its stage's RM. -/
def usesRm (w op : Nat) : Bool := !isIntW w && decide (op ∈ [1, 2, 3, 4, 9, 0x0A, 0x11])

/-- Stage `j` is one that R212 allows. DEDUCED: assumption 33. -/
def stageOk (w j : Nat) (t : Stage) : Bool :=
  opOk w t.op && decide (t.a ≤ 17) && decide (t.b ≤ 17) && decide (t.c ≤ 17) && !t.rsv &&
    t.used.all (fun x => !(decide (x = 0) && decide (j = 0)) && !(decide (9 ≤ x ∧ x ≤ 15) && decide (j ≤ x - 9))) &&
    !(usesRm w t.op && decide (t.rm = 5 ∨ t.rm = 6))

/-- ITYPE converts exactly to WTYPE. -/
def exactInto (i w : Nat) : Bool :=
  match w with
  | 1 => decide (i ∈ [1, 2, 3, 4, 5, 8, 9, 12, 13])
  | 0 => decide (i ∈ [0, 1, 2, 3, 4, 5, 7, 8, 9, 11, 12, 13, 14, 15])
  | 7 => decide (i ∈ [7, 8, 9, 12, 13])
  | 6 => decide (i ∈ [6, 7, 8, 9, 11, 12, 13, 14, 15])
  | _ => false

/-- The first faulting stage of a malformed descriptor; a bad type field names stage 0. DESIGN CHOICE: assumption 37. -/
def chainFault (d : ChainDesc) : Option Nat :=
  if !decide (d.wtype ∈ [0, 1, 6, 7]) || !exactInto d.itype d.wtype then some 0
  else (List.range d.stages.length).find? (fun j => match d.stages[j]? with | some t => !stageOk d.wtype j t | none => false)

/-- The V inputs, or the K inputs, that some stage selects. -/
def selects (d : ChainDesc) (x : Nat) : Bool := d.stages.any (fun t => decide (x ∈ t.used))

/-! ### Evaluation (R210, R211, R213) -/

/-- A floating-point value truncated to an integer, bounded. -/
def truncInt (f : FFmt) (a : Nat) : Int :=
  match f.unpack a with
  | .fin n s e =>
    let m := if 16 ≤ e + bitLen s then 65536 else if 0 ≤ e then s * 2 ^ e.toNat else s / 2 ^ (-e).toNat
    if n then -(m : Int) else m
  | _ => 0

/-- A × 2^⌊B⌋ toward zero; an infinite B scales by ∞ or by 0. DESIGN CHOICE: assumption 32. -/
def fLdexp (f : FFmt) (rm : Rm) (a b : Nat) : FRes :=
  match nanRes f [a, b] with
  | some r => r
  | none =>
    match f.unpack b with
    | .inf n => fMul f rm a (if n then 0 else f.infBits)
    | _ =>
      match f.unpack a with
      | .fin n s e => roundMag f rm .ieee n s (e + truncInt f b)
      | _ => { bits := a }

def oneBits (f : FFmt) : Nat := f.bias * 2 ^ f.mb

/-- A stage's result on floating-point operands. -/
def stageFp (f : FFmt) (op : Nat) (rm : Rm) (a b c : Nat) : FRes :=
  match op with
  | 0x01 => fAdd f rm a b
  | 0x02 => fSub f rm a b
  | 0x03 => fMul f rm a b
  | 0x04 => fFma f rm false false a b c
  | 0x05 => fMinMax f false a b
  | 0x06 => fMinMax f true a b
  | 0x07 => { bits := f.mag a }
  | 0x08 => { bits := f.flip a }
  | 0x09 => fDiv f rm a b
  | 0x0A => fSqrt f rm a
  | 0x0B => fExp2 a
  | 0x0C => fLog2 a
  | 0x0D => let (r, fl) := fCmp f .lt b a; { bits := if r then oneBits f else 0, fl := fl }
  | 0x0E => let (r, fl) := fCmp f .eq a b; { bits := if r then oneBits f else 0, fl := fl }
  | 0x0F => { bits := if f.mag c = 0 then b else a }
  | 0x10 => let r := fMinMax f true a b; let q := fMinMax f false r.bits c; { q with fl := q.fl ||| r.fl }
  | _ => fLdexp f rm a b

/-- A stage's result on integers of `w` bits, signed. -/
def stageInt (w op : Nat) (a b c : Nat) : Nat :=
  let sa := sextNat a w
  let sb := sextNat b w
  let sc := sextNat c w
  match op with
  | 0x01 => intBits w (sa + sb)
  | 0x02 => intBits w (sa - sb)
  | 0x03 => intBits w (sa * sb)
  | 0x04 => intBits w (sa * sb + sc)
  | 0x05 => intBits w (min sa sb)
  | 0x06 => intBits w (max sa sb)
  | 0x07 => intBits w sa.natAbs
  | 0x08 => intBits w (-sa)
  | 0x0D => if sb < sa then 1 else 0
  | 0x0E => if sa = sb then 1 else 0
  | 0x0F => if sc = 0 then b else a
  | 0x10 => intBits w (min (max sa sb) sc)
  | 0x12 => (a &&& b) % 2 ^ w
  | 0x13 => (a ||| b) % 2 ^ w
  | _ => (a ^^^ b) % 2 ^ w

def stageVal (w op : Nat) (rm : Rm) (a b c : Nat) : FRes :=
  match elemTy w with
  | .float f => stageFp f op rm a b c
  | .int _ n => { bits := stageInt n op a b c }

/-- An element's value through the chain: `vs` and `ks` are its V and K inputs in WTYPE, `rm` the rounding mode that RM 7
selects, `sat` SAT for the final conversion to DTYPE. -/
def evalChain (d : ChainDesc) (rm : Rm) (sat : Bool) (vs ks : List Nat) : FRes :=
  let one := match elemTy d.wtype with | .float f => oneBits f | .int _ _ => 1
  let r := d.stages.foldl (fun (acc : List Nat × Flags) t =>
    let xs := acc.1
    let pick (x : Nat) : Nat :=
      if x = 0 then xs.getLastD 0 else if x ≤ 4 then vs.getD (x - 1) 0 else if x ≤ 8 then ks.getD (x - 5) 0
      else if x ≤ 15 then xs.getD (x - 9) 0 else if x = 16 then 0 else one
    let v := stageVal d.wtype t.op ((rmOf t.rm).getD rm) (pick t.a) (pick t.b) (pick t.c)
    (xs ++ [v.bits], acc.2 ||| v.fl)) ([], 0)
  let q := convert (elemTy d.wtype) (elemTy d.dtype) rm sat (r.1.getLastD 0)
  { bits := q.bits, fl := q.fl ||| r.2 }

/-- A NaN result is the canonical quiet NaN of its format (R294, R477). DEDUCED: assumption 54. -/
def canonRes (f : FFmt) (r : FRes) : FRes := if f.isNan r.bits then { r with bits := f.canonNan } else r

/-- An input converted to WTYPE. -/
def intoW (d : ChainDesc) (rm : Rm) (bits : Nat) : FRes := convert (elemTy d.itype) (elemTy d.wtype) rm false bits

end Sys2Proof.Machine
end

