-- ==== Sys2Proof/Machine/ReelPlan.lean ====
section
/-! DEFINITION. The Reel's descriptors, their checks (R463–R465, R485), and the schedules of the topologies (R468–R473). -/

namespace Sys2Proof.Machine
open Sys2Proof

/-! ### Descriptors and group tables (R463, R464) -/

def OPC.ALLREDUCE : Nat := 0
def OPC.REDUCE_SCATTER : Nat := 1
def OPC.ALL_GATHER : Nat := 2
def OPC.BROADCAST : Nat := 3
def OPC.REDUCE : Nat := 4
def OPC.UPDATE_GATHER : Nat := 5
def TOPO.RING : Nat := 0
def TOPO.BIRING : Nat := 1
def TOPO.TREE : Nat := 2
def TOPO.RING2D : Nat := 3
def WIRE.FP32 : Nat := 0
def WIRE.BF16 : Nat := 1
def WIRE.FP64 : Nat := 2
def WIRE.PLYW16 : Nat := 3

/-- The word at byte `o` of a structure. -/
def wordIn (b : List Byte) (o : Nat) : Nat := ofLe ((b.drop o).take 8)

def parseReel (b : List Byte) : RDesc :=
  let w (o hi lo : Nat) : Nat := bitsNat (wordIn b o) hi lo
  let f (o i : Nat) : Bool := decide (w o i i ≠ 0)
  { cid := w 0 31 0, op := w 0 35 32, topo := w 0 38 36, wire := w 0 41 39, csrc := f 0 42, rejp := f 0 43, retain := f 0 44, irq := f 0 45,
    tag := w 0 63 48, elems := w 8 39 0, etype := w 8 43 40, headroom := w 8 46 44, root := w 8 59 48, nrank := w 16 12 0, dimx := w 16 28 16,
    seglog := w 16 34 32, shv := f 16 35, shrank := w 16 47 36, gaddr := w 24 63 0, src := w 32 63 0, sext := w 40 43 0, dst := w 48 63 0,
    dext := w 56 43 0, raddr := w 64 63 0, rext := w 72 43 0, shaddr := w 80 63 0, dlbase := w 88 31 0, dlhop := w 88 63 32, bkwait := w 96 31 0,
    staddr := w 104 63 0, uaddr := w 112 63 0 }

/-- Every field marked zero is zero (R463): the high bits of GADDR, STADDR and UADDR too, but for those of a shared virtual address,
which fails step 5 in any field (R465, R356). DEDUCED: assumption 78. -/
def zerosOk (b : List Byte) (d : RDesc) : Bool :=
  let z (o hi lo : Nat) : Bool := decide (bitsNat (wordIn b o) hi lo = 0)
  let high (o : Nat) : Bool := z o 63 48 || isSva (wordIn b o)
  high 0x18 && high 0x68 && (high 0x70 || decide (d.op ≠ 5)) && z 0 47 46 && z 8 47 47 && z 8 63 60 && z 16 15 13 && z 16 31 29 && z 16 63 48 && z 24 1 0 && z 96 63 32 && z 104 5 0 &&
    (z 112 5 0 || decide (d.op ≠ 5)) && z 120 63 0 && (decide (d.topo = 3) || decide (d.dimx = 0))

def parseGroup (b : List Byte) (n : Nat) : List GEntry :=
  (List.range n).map (fun r =>
    let x := ofLe ((b.drop (4 * r)).take 4)
    { dev := bitsNat x 11 0, bk := if bitsNat x 12 12 ≠ 0 then some (bitsNat x 27 16) else none })

def groupZeros (b : List Byte) (n : Nat) : Bool :=
  (List.range n).all (fun r =>
    let x := ofLe ((b.drop (4 * r)).take 4)
    decide (bitsNat x 15 13 = 0) && decide (bitsNat x 31 28 = 0))

/-- The table names each device once and this one exactly once; no entry backs itself. -/
def groupOk (g : List GEntry) (own : Nat) : Bool :=
  decide ((g.map (·.dev)).Nodup) && g.any (fun e => decide (e.dev = own)) && g.all (fun e => decide (e.bk ≠ some e.dev))

def rankOf (g : List GEntry) (dev : Nat) : Option Nat := g.findIdx? (fun e => decide (e.dev = dev))
def devOf (g : List GEntry) (r : Nat) : Nat := ((g[r]?).map (·.dev)).getD 0
def bkOf (g : List GEntry) (r : Nat) : Option Nat := (g[r]?).bind (·.bk)

/-! ### Types and combinations (R469, R476) -/

/-- Bytes of an element of ETYPE. -/
def esize (etype : Nat) : Nat := if etype = 0 then 8 else if etype = 1 then 4 else 2
def efmt (etype : Nat) : FFmt := if etype = 0 then fp64 else if etype = 1 then fp32 else bf16
/-- Format of a value on a wire other than Ply-W16. -/
def wfmt (wire : Nat) : FFmt := if wire = 0 then fp32 else if wire = 1 then bf16 else fp64

def pairOk (d : RDesc) : Bool :=
  match d.wire with
  | 0 | 1 => decide (d.etype = 1 ∨ d.etype = 3)
  | 2 => decide (d.etype = 0)
  | 3 => decide (d.etype = 1) && decide (d.op ∈ [0, 1, 4, 5])
  | _ => false

def topoOk (d : RDesc) : Bool :=
  match d.op with
  | 0 => true
  | 1 | 2 | 5 => decide (d.topo ≠ 2)
  | 3 | 4 => decide (d.topo = 0 ∨ d.topo = 2)
  | _ => false

def usesRoot (d : RDesc) : Bool := decide (d.op = 3 ∨ d.op = 4 ∨ d.topo = 2)

/-- The descriptor's own part of step 1. DEDUCED: assumption 78. -/
def shapeOk (b : List Byte) (d : RDesc) : Bool :=
  zerosOk b d && decide (d.op ≤ 5) && decide (d.topo ≤ 3) && decide (d.wire ≤ 3) && decide (d.etype = 0 ∨ d.etype = 1 ∨ d.etype = 3) &&
    decide (1 ≤ d.nrank ∧ d.nrank ≤ 4096) && decide (d.seglog ≤ 6) && topoOk d && pairOk d &&
    (!usesRoot d || decide (d.root < d.nrank)) && (!d.shv || decide (d.shrank < d.nrank)) &&
    (decide (d.topo ≠ 3) || (decide (2 ≤ d.dimx) && decide (d.nrank % d.dimx = 0) && decide (2 ≤ d.nrank / d.dimx)))

/-- The chains of an update block. -/
def updateChains (u : List Byte) : List ChainDesc := (List.range (wordIn u 0xC0 % 4)).map (fun i => parseChain ((u.drop (64 * i)).take 64))

/-- R485. -/
def updateOk (u : List Byte) (etype : Nat) : Bool :=
  decide (1 ≤ wordIn u 0xC0 ∧ wordIn u 0xC0 ≤ 3) && decide (wordIn u 0xF8 = 0) &&
    (updateChains u).all (fun c => decide (c.vd = 2 ∨ c.vd = 3 ∨ c.vd = 4) && (c.v ++ c.k).all (fun x => decide (x = 0)) && decide (c.itype = 1) &&
      decide (c.wtype = 0 ∨ c.wtype = 1) && decide (c.dtype = (if c.vd = 2 then etype else 1)) && (chainFault c).isNone)

/-! ### Blocks, shards and moves (R468–R473) -/

def blocksOf (d : RDesc) : Nat := (d.elems + 63) / 64
/-- Shard `i` of `n` over blocks [lo, hi). -/
def shardOf (lo hi n i : Nat) : Nat × Nat := (lo + i * (hi - lo) / n, lo + (i + 1) * (hi - lo) / n)

/-- What a hop does: the pre-pass of R479, or the data. -/
inductive RPhase where
  | preReduce | preGather | reduce | gather
  deriving DecidableEq, Repr

/-- Blocks [lo, hi) travel to a rank at a hop. -/
structure RMove where
  hop : Nat
  dst : Nat
  lo : Nat
  hi : Nat
  gather : Bool
  deriving DecidableEq, Repr

def log2Floor (n : Nat) : Nat := Nat.log2 n
def treePos (d : RDesc) (r : Nat) : Nat := (r + d.nrank - d.root) % d.nrank
def treeRank (d : RDesc) (i : Nat) : Nat := (i + d.root) % d.nrank
/-- Levels of the tree (R472), and the depth of a position. -/
def treeDepth (d : RDesc) : Nat := log2Floor d.nrank + 1
def depthOf (i : Nat) : Nat := log2Floor (i + 1)

/-- Ring steps of the member at place `k` of a ring of `n` (R470, mirrored for R471): step `j` carries piece `k − j − 1` in a
reduction and `k − j` in a gathering. -/
def ringSteps (n k hop0 : Nat) (up gather : Bool) (place : Nat → Nat) (piece : Nat → Nat × Nat) : List RMove :=
  (List.range (n - 1)).map (fun j =>
    let sh := if up then (k + 2 * n - j - boolNat (!gather)) % n else (k + j + boolNat (!gather)) % n
    let nx := if up then (k + 1) % n else (k + n - 1) % n
    let p := piece sh
    { hop := hop0 + j, dst := place nx, lo := p.1, hi := p.2, gather := gather })

/-- The first half of a shard under BIRING, and the other (R471). -/
def halfOf (first : Bool) (p : Nat × Nat) : Nat × Nat :=
  let m := p.1 + (p.2 - p.1 + 1) / 2
  if first then (p.1, m) else (m, p.2)

/-- A reduction, a gathering or both, over `b` blocks: what rank `r` sends. DEDUCED: assumption 77. -/
def movesOf (d : RDesc) (op b r : Nat) : List RMove :=
  let n := d.nrank
  let red := decide (op = 0 ∨ op = 1 ∨ op = 4 ∨ op = 5)
  let gat := decide (op = 0 ∨ op = 2 ∨ op = 3 ∨ op = 5)
  match d.topo with
  | 0 =>
    if op = 3 ∨ op = 4 then
      -- whole data as one shard: it starts at ROOT + 1 and ends at ROOT, or starts at ROOT
      let j := (r + 2 * n - d.root - boolNat (decide (op = 4))) % n
      if j < n - 1 then [{ hop := j, dst := (r + 1) % n, lo := 0, hi := b, gather := decide (op = 3) }] else []
    else
      (if red then ringSteps n r 0 true false id (shardOf 0 b n) else []) ++
        (if gat then ringSteps n r (if red then n - 1 else 0) true true id (shardOf 0 b n) else [])
  | 1 =>
    let dir (up gather : Bool) : List RMove := ringSteps n r (if gather && red then n - 1 else 0) up gather id (fun i => halfOf up (shardOf 0 b n i))
    (if red then dir true false ++ dir false false else []) ++ (if gat then dir true true ++ dir false true else [])
  | 2 =>
    let i := treePos d r
    let dp := treeDepth d
    let k := depthOf i
    (if red && decide (0 < i) then [{ hop := dp - 1 - k, dst := treeRank d ((i - 1) / 2), lo := 0, hi := b, gather := false }] else []) ++
      (if gat then ([2 * i + 1, 2 * i + 2].filter (fun c => decide (c < n))).map (fun c =>
        { hop := dp - 1 + k, dst := treeRank d c, lo := 0, hi := b, gather := true }) else [])
  | _ =>
    let dx := d.dimx
    let dy := n / dx
    let x := r % dx
    let y := r / dx
    let row (p : Nat) : Nat := y * dx + p
    let col (p : Nat) : Nat := p * dx + x
    let mine := shardOf 0 b dx x
    let h := if red then dx - 1 + (dy - 1) else 0
    (if red then ringSteps dx x 0 true false row (shardOf 0 b dx) ++ ringSteps dy y (dx - 1) true false col (shardOf mine.1 mine.2 dy) else []) ++
      (if gat then ringSteps dy y h true true col (shardOf mine.1 mine.2 dy) ++ ringSteps dx x (h + (dy - 1)) true true row (shardOf 0 b dx) else [])

/-- The blocks whose final value rank `r` holds after the reduction, or which it contributes to a gathering; on RING2D those of R473.
DEDUCED: assumption 77. -/
def heldOf (d : RDesc) (op b r : Nat) : Nat × Nat :=
  if op = 3 ∨ op = 4 ∨ d.topo = 2 then (if r = d.root then (0, b) else (0, 0))
  else if d.topo = 3 then
    let m := shardOf 0 b d.dimx (r % d.dimx)
    shardOf m.1 m.2 (d.nrank / d.dimx) (r / d.dimx)
  else shardOf 0 b d.nrank r

/-- Ranks whose sends may reach rank `r`. -/
def sendersTo (d : RDesc) (r : Nat) : List Nat :=
  let n := d.nrank
  (match d.topo with
  | 0 => [(r + n - 1) % n]
  | 1 => [(r + n - 1) % n, (r + 1) % n]
  | 2 =>
    let i := treePos d r
    (([2 * i + 1, 2 * i + 2].filter (fun c => decide (c < n))) ++ (if 0 < i then [(i - 1) / 2] else [])).map (treeRank d)
  | _ =>
    let dx := d.dimx
    let x := r % dx
    let y := r / dx
    [y * dx + (x + dx - 1) % dx, (y + n / dx - 1) % (n / dx) * dx + x]).eraseDups

/-- A segment on its way: one Reel message (R468). -/
structure RSeg where
  hop : Nat
  src : Nat
  dst : Nat
  idx : Nat
  lo : Nat
  n : Nat
  ph : RPhase
  deriving DecidableEq, Repr

/-- Blocks [lo, hi) cut into segments of `2 ^ SEGLOG` blocks. -/
def cutSegs (d : RDesc) (lo hi : Nat) : List (Nat × Nat) :=
  let k := 2 ^ d.seglog
  (List.range ((hi - lo + k - 1) / k)).map (fun i => (lo + i * k, min k (hi - (lo + i * k))))

/-- Hops of the pre-pass (R474, R479). DEDUCED: assumption 77. -/
def preHops (d : RDesc) : Nat :=
  if d.wire ≠ 3 then 0
  else match d.topo with
    | 2 => 2 * (treeDepth d - 1)
    | 3 => 2 * (d.dimx - 1) + 2 * (d.nrank / d.dimx - 1)
    | _ => 2 * (d.nrank - 1)

/-- `g` put into a list in hop order, after those of its own hop. -/
def insertHop (g : RSeg) : List RSeg → List RSeg
  | [] => [g]
  | a :: l => if g.hop < a.hop then g :: a :: l else a :: insertHop g l

/-- The segments that rank `r` sends, in hop order; the segments of a hop to one rank are numbered on through its moves. -/
def segsOut (d : RDesc) (r : Nat) : List RSeg :=
  List.foldl (fun l g => insertHop g l) [] <|
  let b := blocksOf d
  let pre := if d.wire = 3 then (movesOf d 0 b r).map (fun m => (m, if m.gather then RPhase.preGather else .preReduce)) else []
  let h := preHops d
  let dat := (movesOf d d.op b r).map (fun m => ({ m with hop := m.hop + h }, if m.gather then RPhase.gather else .reduce))
  (pre ++ dat).foldl (fun out m =>
    let i0 := (out.filter (fun g => decide (g.hop = m.1.hop) && decide (g.dst = m.1.dst))).length
    out ++ (cutSegs d m.1.lo m.1.hi).mapIdx (fun i p => { hop := m.1.hop, src := r, dst := m.1.dst, idx := i0 + i, lo := p.1, n := p.2, ph := m.2 })) []

/-- The segments that rank `r` receives. -/
def segsIn (d : RDesc) (r : Nat) : List RSeg := (sendersTo d r).flatMap (fun p => (segsOut d p).filter (fun g => decide (g.dst = r)))

/-- Ranks that exchange data with rank `r`. -/
def partners (d : RDesc) (r : Nat) : List Nat := ((segsIn d r).map (·.src) ++ (segsOut d r).map (·.dst)).eraseDups

/-- Key of a segment among those that one role receives, or sends. -/
def segKey (hop other idx : Nat) : Nat := (hop * 4096 + other) * 2 ^ 32 + idx

/-- The pieces in which rank `r` reads its own contribution. -/
def ownSegs (d : RDesc) (r : Nat) : List (Nat × Nat) :=
  let b := blocksOf d
  match d.op with
  | 2 | 3 => let h := heldOf d d.op b r; cutSegs d h.1 h.2
  | _ =>
    if d.op = 4 ∨ d.topo = 2 then cutSegs d 0 b
    else if d.topo = 1 then (List.range d.nrank).flatMap (fun i =>
      let p := shardOf 0 b d.nrank i
      cutSegs d (halfOf true p).1 (halfOf true p).2 ++ cutSegs d (halfOf false p).1 (halfOf false p).2)
    else
      let n := if d.topo = 3 then d.dimx else d.nrank
      (List.range n).flatMap (fun i => cutSegs d (shardOf 0 b n i).1 (shardOf 0 b n i).2)

/-- First block of rank `r`'s contribution: ALL_GATHER's SRC holds its own shard alone. DEDUCED: assumption 77. -/
def ownBase (d : RDesc) (r : Nat) : Nat := if d.op = 2 then (heldOf d 2 (blocksOf d) r).1 else 0

/-- Elements of blocks [lo, lo + n), clipped to ELEMS. -/
def elemsIn (d : RDesc) (lo n : Nat) : Nat := min d.elems (64 * (lo + n)) - min d.elems (64 * lo)

/-- Elements of rank `r`'s contribution; its bytes, and those of what it delivers (R469). -/
def ownElems (d : RDesc) (r : Nat) : Nat := ((ownSegs d r).map (fun p => elemsIn d p.1 p.2)).sum
def srcBytes (d : RDesc) (r : Nat) : Nat := ownElems d r * esize d.etype
def delivers (d : RDesc) (r : Nat) : Bool := decide (d.op ≠ 4) || decide (r = d.root)
def dstBase (d : RDesc) (r : Nat) : Nat := if d.op = 1 then (heldOf d 1 (blocksOf d) r).1 else 0
def dstBytes (d : RDesc) (r : Nat) : Nat :=
  if !delivers d r then 0
  else if d.op = 1 then (let h := heldOf d 1 (blocksOf d) r; elemsIn d h.1 (h.2 - h.1)) * esize d.etype
  else d.elems * esize d.etype

/-- The largest form of a block (R492). -/
def blockMax (d : RDesc) : Nat := match d.wire with | 0 => 256 | 1 => 128 | 2 => 512 | _ => 258

/-- The segments a rank retains: a hop's segment stands once, however many ranks it goes to. -/
def retained (d : RDesc) (r : Nat) : List (Nat × Nat × Nat) := ((segsOut d r).map (fun g => (g.hop, g.idx, g.n))).eraseDups
def retainBytes (d : RDesc) (r : Nat) : Nat := ((retained d r).map (fun g => g.2.2)).sum * blockMax d
/-- Offset of a segment in the retention area. -/
def retainAt (d : RDesc) (r hop idx : Nat) : Nat := (((retained d r).takeWhile (fun g => !(decide (g.1 = hop) && decide (g.2.1 = idx)))).map (fun g => g.2.2)).sum * blockMax d

/-! ### Checks at fetch (R465) -/

structure RArea where
  at' : Nat
  n : Nat
  ext : Option Nat
  write : Bool
  deriving DecidableEq, Repr

/-- The areas that rank `r` uses. -/
def areasOf (d : RDesc) (r : Nat) (u : List Byte) : List RArea :=
  (if d.csrc then [] else [⟨d.src, srcBytes d r, some d.sext, false⟩]) ++
    [⟨d.dst, dstBytes d r, some d.dext, true⟩] ++
    (if d.shv then [⟨d.shaddr, srcBytes d d.shrank, none, false⟩] else []) ++
    (if d.retain then [⟨d.raddr, retainBytes d r, some d.rext, true⟩] else []) ++
    [⟨d.staddr, 64, none, true⟩, ⟨d.gaddr, 4 * d.nrank, none, false⟩] ++
    (if d.op = 5 then [⟨d.uaddr, 256, none, false⟩, ⟨wordIn u 0xC8, 4 * d.elems, none, true⟩, ⟨wordIn u 0xD0, 4 * d.elems, none, true⟩] else [])

/-- [a, a + n) lies wholly in HBM or in one pan. -/
def inOneArea (a n : Nat) : Bool :=
  decide (n = 0) || ((match windowOf a with | .hbm | .pan _ => true | _ => false) && decide (windowOf (a + n - 1) = windowOf a))

end Sys2Proof.Machine
end

