-- ==== Sys2Proof/Machine/ReelSum.lean ====
section
/-! DEFINITION. The Reel's arithmetic: sums on the wire (R475–R478), Ply-W16 blocks (R479–R481), poisoned elements (R496) and the
update chains (R486). -/

namespace Sys2Proof.Machine
open Sys2Proof

/-- Bytes with their Deferred marks. -/
abbrev MBytes := List (Byte × Bool)

def mbytes (bs : List Byte) (m : Bool) : MBytes := bs.map (fun b => (b, m))

/-- Bytes cut into elements of `sz`: each value with the mark of any of its bytes. -/
def elemsOf (sz : Nat) : Nat → MBytes → List (Nat × Bool)
  | 0, _ => []
  | n + 1, bs => (ofLe ((bs.take sz).map (·.1)), (bs.take sz).any (·.2)) :: elemsOf sz n (bs.drop sz)

/-- A block's value on its way through a chain, with the mark of each element. -/
inductive RBlk where
  | fp (xs : List Nat)
  | q (xs : List Int)
  | p (xs : List Nat)
  deriving DecidableEq, Repr

structure RVal where
  b : RBlk
  marks : List Bool
  fl : Flags := 0
  prom : Nat := 0
  deriving DecidableEq, Repr

/-! ### Sums (R477) -/

/-- x + c, rounded once to `f`; x has format `f` and c format `g`. Only a NaN contribution sets NV. -/
def reelAdd (f g : FFmt) (own : Bool) (x c : Nat) : FRes :=
  if f.isNan x || g.isNan c then { bits := f.canonNan, fl := if own && g.isNan c then NV else 0 }
  else sumTerms f .rne [termOf (f.unpack x), termOf (g.unpack c)]

/-- A contribution element that begins a chain. -/
def reelFirst (f g : FFmt) (c : Nat) : FRes :=
  if g.isNan c then { bits := f.canonNan, fl := NV } else cvtFF g f .rne .ieee c

def joinFl (rs : List FRes) : Flags := rs.foldl (fun a r => a ||| r.fl) 0
def orMarks (a b : List Bool) : List Bool := List.zipWith (· || ·) a b

/-! ### Ply-W16 (R479, R480) -/

/-- The scale byte of a block's elements. -/
def scaleByte (headroom : Nat) (cs : List Nat) : Nat :=
  let one (c : Nat) : Nat :=
    match fp32.unpack c with
    | .fin _ sig e =>
      if sig = 0 then 0
      else
        let t := e + headroom + bitLen sig - 15
        let t := if sig * 2 ^ 15 ≤ 32767 * 2 ^ bitLen sig then t else t + 1
        (max t (-126) + 127).toNat
    | _ => 0
  (cs.map one).foldl max 0

/-- The exponent that a scale byte stands for; a byte of 0 scales nothing. -/
def scaleExp (e : Nat) : Int := if e = 0 then 0 else (e : Int) - 127

/-- The value q × 2^s in FP32; a zero block's elements are +0 and a NaN block's are NaN, with no flag (R152, R156). -/
def plyVal (e : Nat) (q : Int) : FRes :=
  if e = 0 then { bits := 0 } else if e = 0xFF then { bits := fp32.canonNan } else roundDy fp32 .rne .ieee { m := q, e := scaleExp e } false

/-- The integers that a 16-bit block of scale byte `e` holds: a zero block's are 0, whatever its bits (R152). -/
def plyInts (e : Nat) (xs : List Int) : List Int := if e = 0 then xs.map (fun _ => 0) else xs

/-- A finite element under the scale; a NaN block has none (R152). -/
def quantize (e c : Nat) : Option (Int × Flags) :=
  match fp32.unpack c with
  | .fin n sig x =>
    if e = 0xFF then none else
    let r := roundAt .rne n sig (x - scaleExp e) false 0
    let fl : Flags := (if r.2 then NX else 0) ||| (if sig ≠ 0 ∧ r.1 = 0 then UF ||| NX else 0)
    some (if n then -(r.1 : Int) else r.1, fl)
  | _ => none

def fits16 (i : Int) : Bool := decide (-32768 ≤ i ∧ i ≤ 32767)

/-- p + q × 2^s. -/
def addScaled (e p : Nat) (q : Int) : FRes :=
  if fp32.isNan p || decide (e = 0xFF) then { bits := fp32.canonNan }
  else sumTerms fp32 .rne [termOf (fp32.unpack p), .fin (decide (q < 0)) { m := q, e := scaleExp e }]

/-- A block joined by a contribution: the table of R480. -/
def plyOwn (e : Nat) (x : RBlk) (cs : List Nat) : RBlk × Flags × Nat :=
  let qs := cs.map (quantize e)
  let qf := qs.foldl (fun a r => match r with | some (_, f) => a ||| f | none => a) (0 : Flags)
  let promote (ps : List Nat) (into : Nat → Nat → FRes) (n : Nat) : RBlk × Flags × Nat :=
    let rs := (List.range cs.length).map (fun i => into i (ps.getD i 0))
    (.p (rs.map (·.bits)), qf ||| joinFl rs, n)
  match x with
  | .q xs =>
    let xs := plyInts e xs
    let sums := List.zipWith (fun a (r : Option (Int × Flags)) => match r with | some (q, _) => a + q | none => 0) xs qs
    if qs.all (·.isSome) && sums.all fits16 then (.q sums, qf, 0)
    else promote (xs.map (fun a => (plyVal e a).bits)) (fun i p =>
      match qs.getD i none with
      | some (q, _) => plyVal e (xs.getD i 0 + q)
      | none => reelAdd fp32 fp32 true p (cs.getD i 0)) 1
  | .p ps => promote ps (fun i p =>
      match qs.getD i none with
      | some (q, _) => addScaled e p q
      | none => reelAdd fp32 fp32 true p (cs.getD i 0)) 0
  | .fp _ => (x, qf, 0)

/-- A partial block joined by a received one, as TREE and RING2D need. -/
def plyJoin (e : Nat) (x y : RBlk) : RBlk × Flags × Nat :=
  match x, y with
  | .q xs, .q ys =>
    let sums := List.zipWith (· + ·) (plyInts e xs) (plyInts e ys)
    if e ≠ 0xFF ∧ sums.all fits16 = true then (.q sums, 0, 0)
    else let rs := sums.map (plyVal e); (.p (rs.map (·.bits)), joinFl rs, 1)
  | .p ps, .q ys | .q ys, .p ps => let rs := List.zipWith (addScaled e) ps (plyInts e ys); (.p (rs.map (·.bits)), joinFl rs, 0)
  | .p ps, .p qs => let rs := List.zipWith (reelAdd fp32 fp32 false) ps qs; (.p (rs.map (·.bits)), joinFl rs, 0)
  | _, _ => (x, 0, 0)

/-! ### One block (R477, R480) -/

/-- The contribution elements of a block: a marked one counts as a NaN (R496). -/
def usable (f : FFmt) (cs : List (Nat × Bool)) : List Nat := cs.map (fun c => if c.2 then f.canonNan else c.1)

/-- The own contribution alone, at the head of a chain, or added to the first input. -/
def blockOwn (d : RDesc) (e : Nat) (input : Option RVal) (cs : List (Nat × Bool)) : RVal :=
  let f := efmt d.etype
  let xs := usable f cs
  let ms := cs.map (·.2)
  if d.wire = 3 then
    let xs := xs ++ List.replicate (64 - xs.length) 0
    let ms := ms ++ List.replicate (64 - ms.length) false
    let r := plyOwn e (match input with | some v => v.b | none => .q (List.replicate 64 0)) xs
    { b := r.1, marks := match input with | some v => orMarks v.marks ms | none => ms, fl := r.2.1, prom := r.2.2 }
  else
    match input with
    | some { b := .fp is, marks := im, .. } =>
      let rs := List.zipWith (reelAdd (wfmt d.wire) f true) is xs
      { b := .fp (rs.map (·.bits)), marks := orMarks im ms, fl := joinFl rs }
    | _ =>
      let rs := xs.map (reelFirst (wfmt d.wire) f)
      { b := .fp (rs.map (·.bits)), marks := ms, fl := joinFl rs }

/-- A further input. -/
def blockJoin (d : RDesc) (e : Nat) (v w : RVal) : RVal :=
  match v.b, w.b with
  | .fp xs, .fp ys =>
    let f := wfmt d.wire
    let rs := List.zipWith (reelAdd f f false) xs ys
    { b := .fp (rs.map (·.bits)), marks := orMarks v.marks w.marks, fl := v.fl ||| joinFl rs }
  | x, y =>
    let r := plyJoin e x y
    { b := r.1, marks := orMarks v.marks w.marks, fl := v.fl ||| r.2.1, prom := v.prom + r.2.2 }

/-- The own contribution with the inputs of a block, in order. -/
def blockSum (d : RDesc) (e : Nat) (ins : List RVal) (cs : List (Nat × Bool)) : RVal :=
  match ins with
  | [] => blockOwn d e none cs
  | x :: more => more.foldl (blockJoin d e) (blockOwn d e (some x) cs)

/-! ### Blocks as bytes (R153, R155, R476) -/

def withMarks (sz : Nat) (xs : List Nat) (ms : List Bool) : MBytes :=
  (xs.mapIdx (fun i x => mbytes (leBytes sz x) (ms.getD i false))).flatten

def packBlock (d : RDesc) (e : Nat) (v : RVal) : MBytes :=
  match v.b with
  | .fp xs => withMarks ((wfmt d.wire).width / 8) xs v.marks
  | .q xs => withMarks 2 (xs.map (intBits 16)) v.marks ++ mbytes [BitVec.ofNat 8 e, 0] false
  | .p xs => withMarks 4 xs v.marks ++ mbytes [BitVec.ofNat 8 e, 1] false

def promotedForm (bs : MBytes) : Bool := match bs.getLast? with | some (b, _) => b.getLsbD 0 | none => false

def unpackBlock (d : RDesc) (bs : MBytes) : RVal :=
  if d.wire = 3 then
    if promotedForm bs then (let es := elemsOf 4 64 bs; { b := .p (es.map (·.1)), marks := es.map (·.2) })
    else (let es := elemsOf 2 64 bs; { b := .q (es.map (fun x => sextNat x.1 16)), marks := es.map (·.2) })
  else
    let sz := (wfmt d.wire).width / 8
    let es := elemsOf sz (bs.length / sz) bs
    { b := .fp (es.map (·.1)), marks := es.map (·.2) }

/-- Ply blocks are told apart from the payload's end, where each one's marker stands. -/
def splitPly : Nat → MBytes → List MBytes
  | 0, _ => []
  | n + 1, bs =>
    let sz := if promotedForm bs then 258 else 130
    splitPly n (bs.take (bs.length - sz)) ++ [bs.drop (bs.length - sz)]

def splitAt' (d : RDesc) (sz lo : Nat) : Nat → MBytes → List MBytes
  | 0, _ => []
  | n + 1, bs => let k := sz * elemsIn d lo 1; bs.take k :: splitAt' d sz (lo + 1) n (bs.drop k)

/-- The payload of a segment, block by block. -/
def splitSeg (d : RDesc) (ph : RPhase) (lo n : Nat) (bs : MBytes) : List MBytes :=
  match ph with
  | .preReduce | .preGather => bs.map (fun b => [b])
  | .reduce | .gather =>
    if ph = .gather ∧ d.op = 5 then splitAt' d (esize d.etype) lo n bs
    else if d.wire = 3 then splitPly n bs
    else splitAt' d ((wfmt d.wire).width / 8) lo n bs

/-- A payload has the length its form needs. -/
def payloadOk (d : RDesc) (ph : RPhase) (lo n : Nat) (bs : MBytes) : Bool :=
  match ph with
  | .preReduce | .preGather => decide (bs.length = n)
  | .reduce | .gather =>
    if ph = .gather ∧ d.op = 5 then decide (bs.length = esize d.etype * elemsIn d lo n)
    else if d.wire = 3 then (splitPly n bs).all (fun b => decide (b.length = (if promotedForm b then 258 else 130))) &&
      decide (((splitPly n bs).map List.length).sum = bs.length)
    else decide (bs.length = (wfmt d.wire).width / 8 * elemsIn d lo n)

/-! ### Where a block's inputs stand -/

/-- Block `k` of the piece among `ps` that holds it. -/
def pieceOf (ps : List (Nat × Nat)) (k : Nat) : Option (Nat × Nat) := ps.find? (fun p => decide (p.1 ≤ k ∧ k < p.1 + p.2))

/-- The own contribution's elements of block `k`, once present. -/
def ownBlock (d : RDesc) (x : RRole) (k : Nat) : Option (List (Nat × Bool)) :=
  (pieceOf (ownSegs d x.rank) k).bind (fun p =>
    (SMap.get none x.own p.1).map (fun bs =>
      let sz := esize d.etype
      elemsOf sz (elemsIn d k 1) (bs.drop (64 * (k - p.1) * sz))))

/-- A received segment's block. -/
def gotBlock (d : RDesc) (x : RRole) (g : RSeg) (k : Nat) : Option MBytes :=
  (SMap.get none x.got (segKey g.hop g.src g.idx)).bind (fun i => (splitSeg d g.ph g.lo g.n i.data)[k - g.lo]?)

def covering (d : RDesc) (r : Nat) (ph : RPhase) (hop k : Nat) : List RSeg :=
  (segsIn d r).filter (fun g => decide (g.ph = ph) && decide (g.hop < hop) && decide (g.lo ≤ k ∧ k < g.lo + g.n))

/-- All of a list, or none. -/
def allSome {α : Type} : List (Option α) → Option (List α)
  | [] => some []
  | none :: _ => none
  | some a :: l => (allSome l).map (a :: ·)

def inputsOf (d : RDesc) (x : RRole) (ph : RPhase) (hop k : Nat) : Option (List MBytes) :=
  allSome ((covering d x.rank ph hop k).map (fun g => gotBlock d x g k))

def heldBlock (d : RDesc) (op r k : Nat) : Bool := let h := heldOf d op (blocksOf d) r; decide (h.1 ≤ k ∧ k < h.2)

/-- The whole contribution is present (R479). -/
def ownComplete (d : RDesc) (x : RRole) : Bool := (ownSegs d x.rank).all (fun p => (SMap.get none x.own p.1).isSome)

/-- The pre-pass byte that a role sends at `hop`, or holds. -/
def preByte (d : RDesc) (x : RRole) (hop k : Nat) : Option Nat :=
  if !ownComplete d x then none
  else
    (ownBlock d x k).bind (fun cs => (inputsOf d x .preReduce hop k).map (fun ins =>
      (ins.map (fun b => ofLe (b.map (·.1)))).foldl max (scaleByte d.headroom (usable fp32 cs))))

/-- The agreed byte of a block (R479). DESIGN CHOICE: assumption 82. -/
def agreed (d : RDesc) (x : RRole) (k : Nat) : Option Nat :=
  if d.wire ≠ 3 then some 0
  else if heldBlock d 0 x.rank k then preByte d x (preHops d) k
  else match covering d x.rank .preGather (preHops d) k with
    | g :: _ => (gotBlock d x g k).map (fun b => ofLe (b.map (·.1)))
    | [] => none

/-- The sum of block `k` over the inputs that came before `hop`. -/
def sumBlock (d : RDesc) (x : RRole) (hop k : Nat) : Option (Nat × RVal) :=
  (agreed d x k).bind (fun e => (ownBlock d x k).bind (fun cs => (inputsOf d x .reduce hop k).map (fun ins =>
    (e, blockSum d e (ins.map (unpackBlock d)) cs))))

/-- A final block in the form that the gathering carries (R478). -/
def settleBlock (d : RDesc) (e : Nat) (v : RVal) : MBytes × Flags :=
  match v.b with
  | .fp xs =>
    let w := wfmt d.wire
    let f := efmt d.etype
    let rs := xs.map (fun x => canonRes f (cvtFF w f .rne .ieee x))
    (packBlock d e { v with b := .fp (rs.map (fun r => (cvtFF f w .rne .ieee r.bits).bits)) }, v.fl ||| joinFl rs)
  | _ => (packBlock d e v, v.fl)

/-- A gathered block in ETYPE, with the flags of its decoding (R478, R481). -/
def deliverBlock (d : RDesc) (k : Nat) (bs : MBytes) : MBytes × Flags :=
  if d.op = 5 then (bs, 0)
  else
    let v := unpackBlock d bs
    let n := elemsIn d k 1
    match v.b with
    | .fp xs => let rs := xs.map (fun x => canonRes (efmt d.etype) (cvtFF (wfmt d.wire) (efmt d.etype) .rne .ieee x)); (withMarks (esize d.etype) (rs.map (·.bits)) v.marks, joinFl rs)
    | .p xs => (withMarks 4 (xs.take n) v.marks, 0)
    | .q xs =>
      let e := ofLe ((bs.drop 128).take 1 |>.map (·.1))
      let rs := (xs.take n).map (plyVal e)
      (withMarks 4 (rs.map (·.bits)) v.marks, joinFl rs)

/-- The final block held, formed, or received, that a role forwards at `hop`. -/
def finBlock (d : RDesc) (x : RRole) (hop k : Nat) : Option MBytes :=
  let h := heldOf d d.op (blocksOf d) x.rank
  match pieceOf (cutSegs d h.1 h.2) k with
  | some p => (SMap.get none x.fin p.1).bind (fun i => (splitSeg d .gather p.1 p.2 i.data)[k - p.1]?)
  | none => match covering d x.rank .gather hop k with
    | g :: _ => gotBlock d x g k
    | [] => none

/-! ### Poisoned elements (R496) -/

def lowerBad (a b : Option RBad) : Option RBad :=
  match a, b with
  | some x, some y => if y.elem < x.elem then some y else some x
  | some x, none => some x
  | none, y => y

/-- The lowest poisoned element of the own contribution within blocks [lo, lo + n). -/
def ownBad (d : RDesc) (dev : Nat) (x : RRole) (lo n : Nat) : Option RBad :=
  (List.range n).foldl (fun a i =>
    let k := lo + i
    match a, ownBlock d x k with
    | none, some cs => (cs.findIdx? (fun c => c.2 || (efmt d.etype).isNan c.1)).map (fun j => { elem := 64 * k + j, src := dev, marked := (cs.getD j (0, false)).2 })
    | a, _ => a) none

/-- DESIGN CHOICE: assumption 82. -/
def badIn (lo n : Nat) (b : Option RBad) : Option RBad := b.filter (fun x => decide (64 * lo ≤ x.elem ∧ x.elem < 64 * (lo + n)))

/-- The lowest poisoned element that segments received before `hop` bring to [lo, lo + n). -/
def gotBad (d : RDesc) (x : RRole) (ph : RPhase) (hop lo n : Nat) : Option RBad :=
  ((segsIn d x.rank).filter (fun g => decide (g.ph = ph) && decide (g.hop < hop) && decide (g.lo < lo + n ∧ lo < g.lo + g.n))).foldl (fun a g =>
    lowerBad a (badIn lo n ((SMap.get none x.got (segKey g.hop g.src g.idx)).bind (·.bad)))) none

def finBad (d : RDesc) (x : RRole) (lo n : Nat) : Option RBad :=
  let h := heldOf d d.op (blocksOf d) x.rank
  (cutSegs d h.1 h.2).foldl (fun a p => lowerBad a (badIn lo n ((SMap.get none x.fin p.1).bind (·.bad)))) none

/-! ### A segment to send -/

/-- The payload of a segment, its lowest poisoned element, the flags and the promotions of forming it. -/
structure ROut where
  data : MBytes
  bad : Option RBad
  fl : Flags
  prom : Nat
  deriving DecidableEq, Repr

/-- What role `x` sends as segment `g`, once all it depends on is there. -/
def formSeg (d : RDesc) (dev : Nat) (x : RRole) (g : RSeg) : Option ROut :=
  let ks := (List.range g.n).map (g.lo + ·)
  match g.ph with
  | .preReduce => (allSome (ks.map (preByte d x g.hop))).map (fun bs => { data := mbytes (bs.map (BitVec.ofNat 8)) false, bad := none, fl := 0, prom := 0 })
  | .preGather =>
    (allSome (ks.map (fun k => if heldBlock d 0 x.rank k then preByte d x (preHops d) k
      else match covering d x.rank .preGather g.hop k with
        | i :: _ => (gotBlock d x i k).map (fun b => ofLe (b.map (·.1)))
        | [] => none))).map (fun bs => { data := mbytes (bs.map (BitVec.ofNat 8)) false, bad := none, fl := 0, prom := 0 })
  | .reduce =>
    (allSome (ks.map (sumBlock d x g.hop))).map (fun vs =>
      { data := vs.flatMap (fun v => packBlock d v.1 v.2), bad := lowerBad (gotBad d x .reduce g.hop g.lo g.n) (ownBad d dev x g.lo g.n),
        fl := vs.foldl (fun a v => a ||| v.2.fl) 0, prom := (vs.map (·.2.prom)).sum })
  | .gather =>
    (allSome (ks.map (finBlock d x g.hop))).map (fun bs =>
      { data := bs.flatten, bad := lowerBad (gotBad d x .gather g.hop g.lo g.n) (finBad d x g.lo g.n), fl := 0, prom := 0 })

/-- The final value of a held piece before an update: its blocks in the form of the wire. -/
def formFinal (d : RDesc) (dev : Nat) (x : RRole) (lo n : Nat) : Option ROut :=
  let hop := preHops d + 2 * d.nrank + 64
  (allSome (((List.range n).map (lo + ·)).map (sumBlock d x hop))).map (fun vs =>
    let fs := vs.map (fun v => settleBlock d v.1 v.2)
    -- an update takes the reduced gradient as the wire holds it
    let fs := if d.op = 5 then vs.map (fun v => (packBlock d v.1 v.2, v.2.fl)) else fs
    { data := (fs.map (·.1)).flatten, bad := lowerBad (gotBad d x .reduce hop lo n) (ownBad d dev x lo n),
      fl := fs.foldl (fun a v => a ||| v.2) 0, prom := (vs.map (·.2.prom)).sum })

/-! ### Update chains (R486) -/

/-- The gradient of a block in FP32. -/
def gradOf (d : RDesc) (k : Nat) (bs : MBytes) : List (Nat × Bool) × Flags :=
  let v := unpackBlock d bs
  let n := elemsIn d k 1
  match v.b with
  | .fp xs =>
    let rs := xs.map (fun x => canonRes fp32 (cvtFF (wfmt d.wire) fp32 .rne .ieee x))
    ((rs.map (·.bits)).zip v.marks, joinFl rs)
  | .p xs => ((xs.take n).zip v.marks, 0)
  | .q xs =>
    let e := ofLe ((bs.drop 128).take 1 |>.map (·.1))
    let rs := (xs.take n).map (plyVal e)
    ((rs.map (·.bits)).zip v.marks, joinFl rs)

/-- One element through the chains: p in ETYPE, s1 and s2 in FP32. An input that no stage selects sets no flag; a NaN result is
canonical (R477). DEDUCED: assumption 128. -/
def updateElem (u : List Byte) (etype : Nat) (g p s1 s2 : Nat) : Nat × Nat × Nat × Flags :=
  (updateChains u).foldl (fun (acc : Nat × Nat × Nat × Flags) c =>
    let pw := canonRes fp32 (cvtFF (efmt etype) fp32 .rne .ieee acc.1)
    let vs := [{ bits := g }, pw, { bits := acc.2.1 }, { bits := acc.2.2.1 }].map (fun (x : FRes) =>
      let y := intoW c .rne x.bits
      { y with fl := y.fl ||| x.fl })
    let ks := (List.range 4).map (fun i => convert (.float fp64) (elemTy c.wtype) .rne false (wordIn u (0xD8 + 8 * i)))
    let r := evalChain c .rne false (vs.map (·.bits)) (ks.map (·.bits))
    let r := match elemTy c.dtype with | .float f => canonRes f r | .int _ _ => r
    let fl := acc.2.2.2 ||| r.fl ||| joinFl (((vs ++ ks).mapIdx (fun i y => if selects c (i + 1) then y else { bits := 0 })))
    if c.vd = 2 then (r.bits, acc.2.1, acc.2.2.1, fl)
    else if c.vd = 3 then (acc.1, r.bits, acc.2.2.1, fl)
    else (acc.1, acc.2.1, r.bits, fl)) (p, s1, s2, 0)

end Sys2Proof.Machine
end

