-- ==== Sys2Proof/Machine/Reel.lean ====
section
/-! DEFINITION. The Reel's slots at work (13): fetching a collective, its messages, grants and deadlines, backups and substitutes,
endings and records, hand-offs from drains. -/

namespace Sys2Proof.Machine
open Sys2Proof

def State.rslot (s : State) (i : SlotId) : RSlot := s.reel.slots[i]
def State.setRslot (s : State) (i : SlotId) (x : RSlot) : State := { s with reel := { s.reel with slots := s.reel.slots.set i x } }
def State.updRslot (s : State) (i : SlotId) (f : RSlot → RSlot) : State := s.setRslot i (f (s.rslot i))
def allSlots : List SlotId := List.finRange 64

/-- Status codes (R502). -/
def RS.OK : Nat := 0
def RS.OK_EMPTY : Nat := 1
def RS.BAD_DESC : Nat := 2
def RS.ADDR_RANGE : Nat := 3
def RS.ACCESS : Nat := 4
def RS.LENGTH_RANGE : Nat := 5
def RS.NO_BUFFER : Nat := 6
def RS.NOT_MEMBER : Nat := 7
def RS.BEAT_LATE : Nat := 8
def RS.BEAT_ABORT : Nat := 9
def RS.MISSING : Nat := 10
def RS.REPLACED : Nat := 11
def RS.MISMATCH : Nat := 12
def RS.ABORTED : Nat := 13

def slotState (s : State) (i : SlotId) : Nat := s.fld (R.REEL_SSTAT i) F.REEL_SSTAT_STATE
def slotWorld (s : State) (i : SlotId) : Bool := s.flag (R.REEL_SCTL i) F.REEL_SCTL_WORLD
/-- The slot is in WAIT_TAG or RUNNING. -/
def slotBusy (s : State) (i : SlotId) : Bool := decide (slotState s i = 1 ∨ slotState s i = 2)
def isDevMember (s : State) (d : Nat) : Bool := bit (s.reg (R.GCTL_MEMBER (d / 64))) (d % 64)

/-- REEL.STAT (R506). -/
def reelStat (s : State) : State :=
  let used := (allSlots.map (fun i => match slotBusy s i, (s.rslot i).desc with
    | true, some d => if d.csrc then d.elems * esize d.etype else 0
    | _, _ => 0)).sum
  (s.setFld R.REEL_STAT F.REEL_STAT_ACTIVE (allSlots.filter (slotBusy s)).length).setFld R.REEL_STAT F.REEL_STAT_DBUFUSED ((used + 1023) / 1024)

def reelReserved (s : State) : Nat :=
  (allSlots.map (fun i => match slotBusy s i, (s.rslot i).desc with
    | true, some d => if d.csrc then d.elems * esize d.etype else 0
    | _, _ => 0)).sum

/-- R405 for the Reel, with R500. -/
def reelEdone (s : State) : State :=
  if bit (s.reg R.BEAT_EDONE) 16 || s.reel.hold then s
  else if allSlots.any (fun i => slotBusy s i && (s.rslot i).counts) then s
  else setEdone s 16

/-! ### PHASH and digests (R467, R504) -/

def crc64Poly : Nat := 0x42F0E1EBA9EA3693

def phashOf (b : List Byte) (group : List Byte) : Nat :=
  let clear (x lo hi : Nat) : Nat := x - bitsNat x hi lo * 2 ^ lo
  let w0 := clear (wordIn b 0) 44 45
  let w10 := clear (wordIn b 0x10) 35 47
  crc 64 crc64Poly 0 false false 0
    (leBytes 8 w0 ++ leBytes 8 (wordIn b 8) ++ leBytes 8 w10 ++ leBytes 8 (wordIn b 0x58) ++ leBytes 8 (wordIn b 0x60) ++ group) % 65536

/-- A DATA payload joins the digest of its peer and direction. -/
def digestData (peers : List RPeer) (peer : Nat) (rx : Bool) (bs : List Byte) : List RPeer :=
  let upd (e : RPeer) : RPeer := { e with bytes := e.bytes + bs.length, crc := crcFeed 64 crc64Poly false e.crc bs }
  match peers.findIdx? (fun e => decide (e.peer = peer) && (e.rx == rx)) with
  | some j => peers.mapIdx (fun i e => if i = j then upd e else e)
  | none =>
    if peers.length < 15 then peers ++ [upd { peer := peer, rx := rx, bytes := 0, crc := 0 }]
    else peers.mapIdx (fun i e => if i = 14 then upd { e with peer := 0xFFF } else e)

/-! ### Messages (R505) -/

/-- The sub-header of a Reel message. -/
structure RHdr where
  rtype : Nat
  subst : Bool := false
  promo : Bool := false
  slot : Nat := 0
  phash : Nat := 0
  cid : Nat := 0
  hop : Nat := 0
  role : Nat := 0
  seg : Nat := 0
  badOff : Nat := 0
  badV : Bool := false
  badKind : Bool := false
  badSrc : Nat := 0
  mdev : Nat := 0
  deriving DecidableEq, Repr

def RT.GRANT : Nat := 1
def RT.DATA : Nat := 2
def RT.PREPASS : Nat := 3
def RT.BKREQ : Nat := 4
def RT.TAKEOVER : Nat := 5
def RT.NONE : Nat := 6
def RT.ABORT : Nat := 7
def RT.RETREQ : Nat := 8

def packHdr (h : RHdr) : List Byte :=
  [BitVec.ofNat 8 (h.rtype + 16 * boolNat h.subst + 32 * boolNat h.promo), BitVec.ofNat 8 h.slot] ++ leBytes 2 h.phash ++ leBytes 4 h.cid ++
    leBytes 2 h.hop ++ leBytes 2 h.role ++ leBytes 4 h.seg ++ leBytes 2 h.badOff ++ [BitVec.ofNat 8 (boolNat h.badV + 2 * boolNat h.badKind), 0] ++
    leBytes 2 h.badSrc ++ leBytes 2 h.mdev ++ List.replicate 8 0

def parseHdr (b : List Byte) : RHdr :=
  let n (i k : Nat) : Nat := ofLe ((b.drop i).take k)
  { rtype := n 0 1 % 16, subst := decide (n 0 1 / 16 % 2 = 1), promo := decide (n 0 1 / 32 % 2 = 1), slot := n 1 1, phash := n 2 2, cid := n 4 4, hop := n 8 2,
    role := n 10 2 % 4096, seg := n 12 4, badOff := n 16 2, badV := decide (n 18 1 % 2 = 1), badKind := decide (n 18 1 / 2 % 2 = 1), badSrc := n 20 2 % 4096,
    mdev := n 22 2 % 4096 }

/-- A Reel message of slot `i` leaves for device `dev`. -/
def sendReel (s : State) (i : SlotId) (dev : Nat) (h : RHdr) (payload : MBytes) : State :=
  let x := s.rslot i
  let h := { h with slot := i.val, phash := x.phash, cid := (x.desc.map (·.cid)).getD 0 }
  let body := mbytes (packHdr h) false ++ payload
  let m := { ownMsg s MK.REEL 0 (BitVec.ofNat 12 dev) 0 body.length (body.map (·.1)) with marks := marksOf body }
  let s := s.bump R.REEL_TXBYTES payload.length
  let s := if h.rtype = RT.DATA then s.updRslot i (fun y => { y with peers := digestData y.peers dev false (payload.map (·.1)) }) else s
  let r := if slotWorld s i then sealMsg s m else (s, m)
  sendMsg r.1 r.2 1 false

/-- The device to which data for role `r` goes, and whether it is a substitute. -/
def roleDev (x : RSlot) (r : Nat) : Nat × Bool :=
  match SMap.get 0 x.acts r with
  | 0 => (devOf x.group r, false)
  | n => (n - 1, true)

/-! ### Ending (R494, R499–R504) -/

/-- The status record (R503). Where a delivered element is poisoned, FIRSTBAD is the lowest over the segments received and delivered
(R496). DEDUCED: assumption 82. -/
def statusRecord (s : State) (x : RSlot) (st seq : Nat) : List Byte :=
  let f := x.fl.toNat
  leBytes 8 (st + f * 2 ^ 8 + boolNat x.nan * 2 ^ 13 + boolNat x.deferred * 2 ^ 14 + boolNat x.backup * 2 ^ 15 + boolNat x.dstlost * 2 ^ 16 +
      boolNat x.latehand * 2 ^ 17 + boolNat x.rejected * 2 ^ 18 + seq * 2 ^ 32) ++
    leBytes 8 (match x.nan || x.deferred, x.bad with | true, some b => b.elem + b.src * 2 ^ 40 + boolNat b.marked * 2 ^ 52 + 2 ^ 63 | _, _ => 0) ++
    leBytes 8 (x.promoted % 2 ^ 32 + x.backups % 2 ^ 32 * 2 ^ 32) ++ leBytes 8 x.beat.toNat ++ leBytes 8 x.t0.toNat ++ leBytes 8 s.now.toNat ++
    leBytes 8 (match x.miss with | some (dev, rank, hop) => dev + rank * 2 ^ 16 + hop * 2 ^ 32 | none => 0) ++
    leBytes 8 ((x.desc.map (·.cid)).getD 0)

def digestRecord (x : RSlot) (i : SlotId) (st seq : Nat) : List Byte :=
  let ovr := x.peers.any (fun e => decide (e.peer = 0xFFF))
  leBytes 8 (seq + (x.desc.map (·.cid)).getD 0 * 2 ^ 32) ++
    leBytes 8 (st + x.peers.length * 2 ^ 8 + boolNat ovr * 2 ^ 12 + i.val * 2 ^ 16) ++ List.replicate 16 0 ++
    (List.range 15).flatMap (fun j => match x.peers[j]? with
      | some e => leBytes 8 (e.peer + boolNat e.rx * 2 ^ 12) ++ leBytes 8 e.bytes ++ leBytes 8 e.crc ++ List.replicate 8 0
      | none => List.replicate 32 0)

/-- STADDR passes the checks of R465 for its 64 bytes. -/
def statusOk (s : State) (i : SlotId) (d : RDesc) : Bool :=
  decide (d.staddr % 64 = 0) && inOneArea d.staddr 64 && windowRight s (slotWorld s i) true .store d.staddr 64

/-- DONE and FAIL (R499, R506). -/
def reelEvent (s : State) (reg : Nat) (i : SlotId) (en : Fld) : State :=
  let s := s.setReg reg (setBit (s.reg reg) i.val true)
  if s.flag R.REEL_IRQ en then
    let s := raiseSource s 16
    if s.flag R.REEL_IRQ F.REEL_IRQ_MSI_EN then sendMsix s (s.fld R.REEL_IRQ F.REEL_IRQ_MSIVEC) else s
  else s

/-- A collective ends with status `st` (R499). Its slot is IDLE and waits for a new GO, whatever the tag was: R20's re-arming is
left to software. DESIGN CHOICE: assumption 120. -/
def endColl (s : State) (i : SlotId) (st : Nat) : State :=
  let x := s.rslot i
  let seq := s.fld (R.REEL_SSTAT i) F.REEL_SSTAT_SEQ
  let irq := (x.desc.map (·.irq)).getD false
  let s := match x.desc with
    | some d => if statusOk s i d then memWrite s .reel d.staddr (statusRecord s x st seq) else s
    | none => s
  let s := if s.flag R.REEL_CTRL F.REEL_CTRL_DIGEN then
      memWrite s .reel ((s.reg R.REEL_DIGBASE).toNat / 2 ^ 17 % 2 ^ 31 * 2 ^ 17 + 512 * (seq % 256)) (digestRecord x i st seq)
    else s
  let s := if x.counts && decide (st = RS.MISSING ∨ st = RS.REPLACED ∨ st = RS.MISMATCH) then { s with reel := { s.reel with hold := true } } else s
  let s := (s.setFld (R.REEL_SSTAT i) F.REEL_SSTAT_LAST st).setFld (R.REEL_SSTAT i) F.REEL_SSTAT_STATE 0
  let s := reelStat (s.setRslot i {})
  let s := s.bump R.REEL_COLLS 1
  let s := if irq then reelEvent s R.REEL_DONEMAP i F.REEL_IRQ_DONE_EN else s
  let s := if st = RS.OK ∨ st = RS.OK_EMPTY then s else reelEvent s R.REEL_FAILMAP i F.REEL_IRQ_FAIL_EN
  reelEdone s

/-- ABORT to every other rank of the group table (R494). -/
def sendAborts (s : State) (i : SlotId) (reason : Nat) (miss : Option (Nat × Nat × Nat)) : State :=
  let x := s.rslot i
  let m := miss.getD (0, 0, 0)
  (x.group.filter (fun e => decide (e.dev ≠ s.devId.toNat))).foldl (fun z e =>
    sendReel z i e.dev { rtype := RT.ABORT, hop := m.2.2, role := m.2.1, seg := reason, mdev := m.1 } []) s

def reelReport (s : State) (i : SlotId) (code dev role hop : Nat) : State :=
  let cid := ((s.rslot i).desc.map (·.cid)).getD 0
  reportOn s (BitVec.ofNat 12 dev) UKind.REELC role code false (BitVec.ofNat 64 (cid + hop % 65536 * 2 ^ 32))

def noteMiss (s : State) (i : SlotId) (dev role hop : Nat) : State :=
  s.updRslot i (fun x => if x.miss.isSome then x else { x with miss := some (dev, role, hop) })

/-- A role is missing (R494, R495). DESIGN CHOICE: assumption 81. -/
def endMissing (s : State) (i : SlotId) (role hop : Nat) : State :=
  let dev := devOf (s.rslot i).group role
  let s := s.updRslot i (fun x => { x with miss := some (dev, role, hop) })
  let s := reelReport s i 0x0D dev role hop
  endColl (sendAborts s i RS.MISSING (some (dev, role, hop))) i RS.MISSING

def endMismatch (s : State) (i : SlotId) : State := endColl (sendAborts s i RS.MISMATCH none) i RS.MISMATCH

/-- A substitution is seen (R495). DESIGN CHOICE: assumption 80. -/
def noteSubst (s : State) (i : SlotId) (role hop : Nat) : State :=
  let dev := devOf (s.rslot i).group role
  let s := noteMiss s i dev role hop
  let s := (s.updRslot i (fun x => { x with backup := true, backups := x.backups + 1 })).bump R.REEL_BACKUPS 1
  reelReport s i 0x0C dev role hop

/-! ### Roles -/

def RSlot.role (x : RSlot) (r : Nat) : Option RRole := x.roles.find? (fun y => decide (y.rank = r))
def RSlot.setRole (x : RSlot) (y : RRole) : RSlot := { x with roles := x.roles.map (fun z => if z.rank = y.rank then y else z) }
def RSlot.own (x : RSlot) : RRole := x.roles.headD { rank := 0 }

/-- Some byte of [a, a + n) lies on memory that is not in service or whose access R351 or R583 refuses (R498). -/
def areaOut (s : State) (a n : Nat) : Bool :=
  (piecesOf 64 a n).any (fun p => match windowOf p.1 with
    | .hbm => !inService s (hbmPlace s p.1)
    | .pan m => panOut s m
    | _ => true)

/-- A contribution element is a NaN or marked. -/
def anyPoison (d : RDesc) (bs : MBytes) : Bool :=
  (elemsOf (esize d.etype) (bs.length / esize d.etype) bs).any (fun c => c.2 || (efmt d.etype).isNan c.1)

/-- A segment of the own contribution is asked of the own backup (R497, R498). -/
def askCopy (s : State) (i : SlotId) (lo : Nat) : State :=
  let x := s.rslot i
  let own := x.own.rank
  match bkOf x.group own with
  | none => endMissing s i own 0
  | some b => sendReel (s.updRslot i (fun y => { y with copies := SMap.set none y.copies lo (some s.now) })) i b { rtype := RT.BKREQ, role := own, seg := lo } []

/-- Segment [lo, lo + n) of the own contribution, once read or present. -/
def takeOwn (s : State) (i : SlotId) (d : RDesc) (lo : Nat) (bs : MBytes) : State :=
  if d.rejp && anyPoison d bs then askCopy (s.updRslot i (fun x => { x with rejected := true })) i lo
  else s.updRslot i (fun x => x.setRole { x.own with own := SMap.set none x.own.own lo (some bs) })

/-- The slot still runs the collective it ran. -/
def live (s : State) (i : SlotId) : Bool := decide (slotState s i = 2)

/-- The contribution is read from SRC (R484, R497, R498). DESIGN CHOICE: assumption 79. -/
def readOwn (s : State) (i : SlotId) (d : RDesc) : State :=
  let r := (s.rslot i).own.rank
  (ownSegs d r).foldl (fun z p =>
    let y := z.rslot i
    if !live z i || (SMap.get none y.own.own p.1).isSome || (SMap.get none y.copies p.1).isSome then z
    else
      let a := d.src + (64 * (p.1 - ownBase d r)) * esize d.etype
      let n := elemsIn d p.1 p.2 * esize d.etype
      if areaOut z a n then askCopy z i p.1
      else
        let (z, bs) := memRead z .reel 0 a n
        takeOwn z i d p.1 bs) s

/-- Segments of a drain-fed contribution whose elements are all present (R482); an element's index counts from the contribution's
first (R290). -/
def gatherDrained (s : State) (i : SlotId) (d : RDesc) : State :=
  let x := s.rslot i
  (ownSegs d x.own.rank).foldl (fun z p =>
    let y := z.rslot i
    if !live z i || (SMap.get none y.own.own p.1).isSome || (SMap.get none y.copies p.1).isSome then z
    else
      match allSome ((List.range (elemsIn d p.1 p.2)).map (fun j => SMap.get none y.elems (64 * (p.1 - ownBase d x.own.rank) + j))) with
      | none => z
      | some es => takeOwn z i d p.1 (es.flatMap (fun e => mbytes (leBytes (esize d.etype) e.1.toNat) e.2))) s

/-! ### Delivery (R478, R481, R486, R499) -/

/-- A final segment reaches DST on the rank's own account, and what it says of poisoned elements reaches the status: NV and NAN, or
DEFERRED (R496). -/
def deliver (s : State) (i : SlotId) (d : RDesc) (role lo n : Nat) (v : RIn) : State :=
  let own := (s.rslot i).own.rank
  let mine := decide (role = own) || (decide (d.op = 4) && decide (role = d.root))
  if !mine || !delivers d role then s
  else
    let bs := splitSeg d .gather lo n v.data
    let rs := bs.mapIdx (fun j b => deliverBlock d (lo + j) b)
    let out := (rs.map (·.1)).flatten
    let a := d.dst + (64 * (lo - dstBase d role)) * esize d.etype
    let lost := areaOut s a out.length
    let prom := if d.wire = 3 ∧ d.op ≠ 5 then (bs.filter promotedForm).length else 0
    let s := memWriteMarked s .reel a out
    s.updRslot i (fun x => { x with
      fl := rs.foldl (fun f r => f ||| r.2) (match v.bad with | some b => if b.marked then x.fl else x.fl ||| NV | none => x.fl), dstlost := x.dstlost || lost, promoted := x.promoted + prom,
      nan := x.nan || (match v.bad with | some b => !b.marked | none => false),
      deferred := x.deferred || (match v.bad with | some b => b.marked | none => false) || out.any (·.2), bad := lowerBad x.bad v.bad })

/-- The update unit processes a held piece (R486); a substitute writes nothing (R491). -/
def updatePiece (s : State) (i : SlotId) (d : RDesc) (write : Bool) (lo n : Nat) (v : ROut) : State × ROut :=
  let u := (s.rslot i).update
  let z := esize d.etype
  let e0 := 64 * lo
  let k := elemsIn d lo n
  let (s, pb) := memRead s .reel 0 (d.dst + e0 * z) (k * z)
  let (s, b1) := memRead s .reel 0 (wordIn u 0xC8 + 4 * e0) (4 * k)
  let (s, b2) := memRead s .reel 0 (wordIn u 0xD0 + 4 * e0) (4 * k)
  let gs := (splitSeg { d with op := 0 } .reduce lo n v.data).mapIdx (fun j b => gradOf d (lo + j) b)
  let g := gs.flatMap (·.1)
  let p := elemsOf z k pb
  let q1 := elemsOf 4 k b1
  let q2 := elemsOf 4 k b2
  let rs := (List.range k).map (fun j =>
    let c := g.getD j (0, false)
    let a := p.getD j (0, false)
    let x := q1.getD j (0, false)
    let y := q2.getD j (0, false)
    (updateElem u d.etype c.1 a.1 x.1 y.1, c.2 || a.2 || x.2 || y.2))
  let ms := rs.map (·.2)
  let out := withMarks z (rs.map (·.1.1)) ms
  let s := if write then
      let s := memWriteMarked s .reel (wordIn u 0xC8 + 4 * e0) (withMarks 4 (rs.map (·.1.2.1)) ms)
      memWriteMarked s .reel (wordIn u 0xD0 + 4 * e0) (withMarks 4 (rs.map (·.1.2.2.1)) ms)
    else s
  (s, { v with data := out, fl := rs.foldl (fun f r => f ||| r.1.2.2.2) (gs.foldl (fun f r => f ||| r.2) v.fl) })

/-- Held pieces of a role whose inputs have all come become final. -/
def finishHeld (s : State) (i : SlotId) (d : RDesc) (r : Nat) : State :=
  let h := heldOf d d.op (blocksOf d) r
  (cutSegs d h.1 h.2).foldl (fun z p =>
    match (z.rslot i).role r with
    | none => z
    | some y =>
      if (SMap.get none y.fin p.1).isSome then z
      else match formFinal d (devOf (z.rslot i).group r) y p.1 p.2 with
        | none => z
        | some v =>
          let (z, v) := if d.op = 5 then updatePiece z i d (decide (r = (z.rslot i).own.rank)) p.1 p.2 v else (z, v)
          let f : RIn := { data := v.data, bad := v.bad }
          let z := z.updRslot i (fun x => { x.setRole { y with fin := SMap.set none y.fin p.1 (some f) } with fl := x.fl ||| v.fl })
          deliver (z.bump R.REEL_PROMOTED v.prom) i d r p.1 p.2 f) s

/-! ### Sending (R474, R489, R492) -/

/-- Segments accepted by role `r` from role `p`. -/
def accepted (d : RDesc) (y : RRole) (p : Nat) : Nat :=
  ((segsIn d y.rank).filter (fun g => decide (g.src = p) && (SMap.get none y.got (segKey g.hop g.src g.idx)).isSome)).length

/-- A GRANT of role `r` for the segments of role `p`. DESIGN CHOICE: assumption 80. -/
def grantTo (s : State) (i : SlotId) (d : RDesc) (r p : Nat) : State :=
  match (s.rslot i).role r with
  | none => s
  | some y => sendReel s i (roleDev (s.rslot i) p).1 { rtype := RT.GRANT, role := r, seg := accepted d y p + 16 } []

/-- What a role owes, in order. -/
def owed (d : RDesc) (y : RRole) : List RSeg := (segsOut d y.rank).filter (fun g => decide (y.fromHop ≤ g.hop))

/-- Segment number `j` of those that go to role `g.dst` lies within its grant. -/
def inGrant (x : RSlot) (d : RDesc) (y : RRole) (g : RSeg) : Bool :=
  let j := ((segsOut d y.rank).filter (fun e => decide (e.dst = g.dst))).findIdx (fun e => decide (e = g))
  (roleDev x g.dst).2 || decide (j < SMap.get 0 x.grants (y.rank * 4096 + g.dst))

/-- A ready segment leaves. -/
def sendSeg (s : State) (i : SlotId) (d : RDesc) (r : Nat) (g : RSeg) : State :=
  let x := s.rslot i
  match x.role r with
  | none => s
  | some y =>
    if (SMap.get none y.sent (segKey g.hop g.dst g.idx)).isSome || !inGrant x d y g then s
    else match formSeg d (devOf x.group r) y g with
      | none => s
      | some o =>
        let first := !(y.sent.any (fun e => decide (e.1 / 2 ^ 32 / 4096 = g.hop) && decide (e.1 % 2 ^ 32 = g.idx)))
        let s := s.updRslot i (fun z => { z.setRole { y with sent := SMap.set none y.sent (segKey g.hop g.dst g.idx) (some (o.data.length, o.bad)) } with
                                          fl := if first then z.fl ||| o.fl else z.fl })
        let s := if first then s.bump R.REEL_PROMOTED o.prom else s
        let s := if d.retain && decide (r = x.own.rank) then memWriteMarked s .reel (d.raddr + retainAt d r g.hop g.idx) o.data else s
        let promo := decide (d.wire = 3) && decide (g.ph = .reduce ∨ (g.ph = .gather ∧ d.op ≠ 5)) && (splitPly g.n o.data).any promotedForm
        let b := o.bad.getD { elem := 64 * g.lo, src := 0, marked := false }
        sendReel s i (roleDev x g.dst).1
          { rtype := if g.ph = .preReduce ∨ g.ph = .preGather then RT.PREPASS else RT.DATA, subst := (roleDev x g.dst).2, promo := promo, hop := g.hop, role := r,
            seg := g.idx, badOff := b.elem - 64 * g.lo, badV := o.bad.isSome, badKind := b.marked, badSrc := b.src } o.data

/-- Gathered segments that role `r` has received reach DST, each once. -/
def deliverGot (s : State) (i : SlotId) (d : RDesc) (r : Nat) : State :=
  ((segsIn d r).filter (fun g => decide (g.ph = .gather))).foldl (fun z g =>
    let k := segKey g.hop g.src g.idx
    match (z.rslot i).role r with
    | none => z
    | some y =>
      match SMap.get none y.got k, SMap.get false y.put k with
      | some v, false => deliver (z.updRslot i (fun x => x.setRole { y with put := SMap.set false y.put k true })) i d r g.lo g.n v
      | _, _ => z) s

/-- Everything that is ready happens: the own contribution, what has come, final pieces, then segments. -/
def reelTurn (s : State) (i : SlotId) (d : RDesc) : State :=
  let s := if d.csrc then gatherDrained s i d else readOwn s i d
  ((s.rslot i).roles.map (fun y => (y.rank, y))).foldl (fun z e =>
    if !live z i then z
    else (owed d e.2).foldl (fun w g => sendSeg w i d e.1 g) (finishHeld (deliverGot z i d e.1) i d e.1)) s

/-- SSTAT.HOP: the lowest hop of which a segment has not come or not gone. -/
def lowHop (d : RDesc) (y : RRole) : Nat :=
  let open' := ((segsIn d y.rank).filter (fun g => (SMap.get none y.got (segKey g.hop g.src g.idx)).isNone)).map (·.hop) ++
    ((segsOut d y.rank).filter (fun g => (SMap.get none y.sent (segKey g.hop g.dst g.idx)).isNone)).map (·.hop)
  match open' with
  | [] => (segsOut d y.rank).foldl (fun a g => max a (g.hop + 1)) 0
  | h :: t => t.foldl min h

/-- Every result is delivered and every segment owed has gone (R499). -/
def collDone (x : RSlot) (d : RDesc) : Bool :=
  let y := x.own
  let h := heldOf d d.op (blocksOf d) y.rank
  (segsIn d y.rank).all (fun g => (SMap.get none y.got (segKey g.hop g.src g.idx)).isSome && (decide (g.ph ≠ .gather) || SMap.get false y.put (segKey g.hop g.src g.idx))) &&
    (cutSegs d h.1 h.2).all (fun p => (SMap.get none y.fin p.1).isSome) &&
    x.roles.all (fun z => (owed d z).all (fun g => (SMap.get none z.sent (segKey g.hop g.dst g.idx)).isSome)) &&
    x.roles.all (fun z => !(decide (d.op = 4) && decide (z.rank = d.root)) ||
      (cutSegs d 0 (blocksOf d)).all (fun p => (SMap.get none z.fin p.1).isSome))

/-- Some copy of a retirement or a sparing runs. -/
def storesCopy (s : State) : Bool := allStacks.any (fun k => (s.stack k).copying.isSome || (s.stack k).sparing.isSome)

/-- An area of the collective lies in a row or granule that is being copied (R342, R345). -/
def reelBusy (s : State) (x : RSlot) (d : RDesc) : Bool :=
  storesCopy s && (areasOf d x.own.rank x.update).any (fun a => anyWriteBusy s a.at' a.n)

/-- The slot goes on as far as it can; while its memory is being copied it waits. DESIGN CHOICE: assumption 18. -/
def reelPump (s : State) (i : SlotId) : State :=
  if !live s i then s
  else match (s.rslot i).desc with
    | none => s
    | some d =>
      if reelBusy s (s.rslot i) d then s.updRslot i (fun x => { x with stalled := true }) else
      let s := s.updRslot i (fun x => { x with stalled := false })
      -- a turn may ready segments of the second role
      let s := reelTurn (reelTurn s i d) i d
      if !live s i then s
      else
        let x := s.rslot i
        let s := s.setFld (R.REEL_SSTAT i) F.REEL_SSTAT_HOP (lowHop d x.own)
        let s := s.setReg (R.REEL_SFLAGS i) (BitVec.ofNat 64 (x.fl.toNat + x.promoted % 2 ^ 32 * 2 ^ 32))
        if collDone x d then endColl s i RS.OK else s

/-! ### Start (R462, R465, R466, R487, R488) -/

/-- Data for role `q` goes to its backup from now on (R489). -/
def addressBackup (s : State) (i : SlotId) (q hop : Nat) : State :=
  match bkOf (s.rslot i).group q with
  | none => endMissing s i q hop
  | some b => s.updRslot i (fun x => { x with acts := SMap.set 0 x.acts q (b + 1) })

/-- A BKREQ for role `p` from hop `h` (R490). -/
def askBackup (s : State) (i : SlotId) (p h : Nat) : State :=
  let x := s.rslot i
  let key := p * 65536 + h
  if SMap.get false x.asked key then s
  else match (if SMap.get 0 x.acts p ≠ 0 then some (SMap.get 0 x.acts p - 1) else bkOf x.group p) with
    | none => endMissing s i p h
    | some b => sendReel (s.updRslot i (fun y => { y with asked := SMap.set false y.asked key true })) i b { rtype := RT.BKREQ, hop := h, role := p } []

/-- The slots that waited for a copy go on. -/
def reelResume (s : State) : State :=
  if s.reel.slots.toList.any (·.stalled) then allSlots.foldl (fun z i => if (z.rslot i).stalled then reelPump z i else z) s else s

/-- T0 (R487): the edge that began the beat for a tagged collective, which is eligible from it on. DEDUCED: assumption 79. -/
def startTime (s : State) (d : RDesc) : Word := if d.tag ≠ 0 ∧ s.beat.begun = true then s.reg R.BEAT_EDGE else s.now

/-- T0: the collective becomes eligible. A rank missing from the start that is to send is asked of its backup at once (R488).
DESIGN CHOICE: assumption 79. -/
def startColl (s : State) (i : SlotId) (counts : Bool) : State :=
  match (s.rslot i).desc with
  | none => s
  | some d =>
    let s := s.updRslot i (fun x => { x with counts := counts, t0 := startTime s d, beat := s.beatNo, fl := 0 })
    let s := (s.setFld (R.REEL_SSTAT i) F.REEL_SSTAT_STATE 2).setReg (R.REEL_SFLAGS i) 0
    let own := (s.rslot i).own.rank
    let ps := partners d own
    let gone := ps.filter (fun p => !isDevMember s (devOf (s.rslot i).group p))
    let s := gone.foldl (fun z p =>
      let sends := (segsOut d own).any (fun g => decide (g.dst = p))
      let z := if live z i && sends then addressBackup z i p 0 else z
      match (segsIn d own).find? (fun g => decide (g.src = p)) with
      | some g => if live z i then askBackup z i p g.hop else z
      | none => z) s
    let s := ((segsIn d own).map (·.src)).eraseDups.foldl (fun z p => if live z i then grantTo z i d own p else z) s
    reelPump s i

/-- The areas fit their declared extents, as rank `r` uses them (R465, step 4). -/
def extentsFit (d : RDesc) (r : Nat) (u : List Byte) : Bool :=
  (areasOf d r u).all (fun a => match a.ext with | some e => decide (a.n ≤ e) | none => true)

/-- The status with which a descriptor ends at fetch, if it does (R465). Where the group table cannot be read, no rank's areas may
fit their extents for step 4 to fail. DEDUCED: assumption 78. -/
def reelCheck (s : State) (i : SlotId) (b : List Byte) (d : RDesc) : Option Nat × List GEntry × List Byte × List Byte :=
  let w := slotWorld s i
  let gOk := d.gaddr % 4 = 0 ∧ d.gaddr < 2 ^ 48 ∧ inOneArea d.gaddr (4 * d.nrank)
  let uOk := d.op ≠ 5 ∨ (d.uaddr % 64 = 0 ∧ d.uaddr < 2 ^ 48 ∧ inOneArea d.uaddr 256)
  let gb := if gOk ∧ shapeOk b d then peekBytes s d.gaddr (4 * d.nrank) else []
  let ub := if uOk ∧ d.op = 5 then peekBytes s d.uaddr 256 else []
  let g := parseGroup gb d.nrank
  let own := rankOf g s.devId.toNat
  let st := if !shapeOk b d || (decide gOk && !(groupZeros gb d.nrank && groupOk g s.devId.toNat)) || (decide uOk && decide (d.op = 5) && !updateOk ub d.etype) then
      some RS.BAD_DESC
    else if d.elems = 0 then some RS.OK_EMPTY
    else if !isDevMember s s.devId.toNat then some RS.NOT_MEMBER
    else if !(match decide gOk, own with
        | true, some r => extentsFit d r ub
        | _, _ => (List.range d.nrank).any (fun r => extentsFit d r ub)) then some RS.LENGTH_RANGE
    else
      match decide gOk, own with
      | true, some r =>
        let as := areasOf d r ub
        if !decide uOk || !as.all (fun a => inOneArea a.at' a.n) then some RS.ADDR_RANGE
        else if !as.all (fun a => decide (a.n = 0) || windowRight s w true (if a.write then .store else .load) a.at' a.n) then some RS.ACCESS
        else if d.csrc && decide (2 ^ 24 < reelReserved s + d.elems * esize d.etype) then some RS.NO_BUFFER
        else none
      | _, _ => some RS.ADDR_RANGE
  (st, g, gb, ub)

/-- The tag of a fetched collective (R466, R404). -/
def reelTag (s : State) (i : SlotId) (d : RDesc) : State :=
  let done := bit (s.reg R.BEAT_EDONE) 16
  let wait (z : State) : State := reelStat (z.setFld (R.REEL_SSTAT i) F.REEL_SSTAT_STATE 1)
  let run (z : State) (counts : Bool) : State := startColl (reelStat (z.setFld (R.REEL_SSTAT i) F.REEL_SSTAT_STATE 2)) i counts
  if d.tag = 0 then run s false
  else if d.tag = 0xFFFF then (if done then wait s else run s true)
  else
    let k := tagDist s d.tag
    if 0 < k then wait s
    else if k = 0 ∧ !done then run s true
    else endColl s i RS.BEAT_LATE

/-- GO. DESIGN CHOICE: assumption 79. -/
def reelFetch (s : State) (i : SlotId) : State :=
  if slotState s i ≠ 0 then s.setFlag (R.REEL_SSTAT i) F.REEL_SSTAT_BUSYERR true
  else
    let seq := s.fld R.REEL_DIGSEQ F.REEL_DIGSEQ_NEXT
    let s := s.setFld R.REEL_DIGSEQ F.REEL_DIGSEQ_NEXT (seq + 1)
    let s := (s.setFld (R.REEL_SSTAT i) F.REEL_SSTAT_SEQ seq).setFld (R.REEL_SSTAT i) F.REEL_SSTAT_HOP 0
    let a := (s.reg (R.REEL_SDESC i)).toNat
    let s := s.setRslot i { t0 := s.now, beat := s.beatNo }
    if !inOneArea a 128 then endColl s i RS.ADDR_RANGE
    else if !windowRight s (slotWorld s i) true .load a 128 then endColl s i RS.ACCESS
    else
      let (s, mb) := memRead s .reel 0 a 128
      let b := mb.map (·.1)
      let d := parseReel b
      let c := reelCheck s i b d
      let s := s.updRslot i (fun x => { x with desc := some d })
      match c.1 with
      | some st => endColl s i st
      | none =>
        let own := (rankOf c.2.1 s.devId.toNat).getD 0
        let s := s.updRslot i (fun x => { x with group := c.2.1, update := c.2.2.2, phash := phashOf b c.2.2.1, roles := [{ rank := own }] })
        reelTag s i d

/-- SCTL.ABORT (R501). -/
def reelStop (s : State) (i : SlotId) : State := if slotBusy s i then endColl (sendAborts s i RS.ABORTED none) i RS.ABORTED else s

/-! ### Messages received (R467, R474, R489–R494, R497) -/

/-- The slot that a message matches (R493). DESIGN CHOICE: assumption 82. -/
def slotFor (s : State) (m : Msg) (h : RHdr) : Option SlotId :=
  allSlots.find? (fun i => slotBusy s i && (slotWorld s i == m.sealed) && (match (s.rslot i).desc with | some d => decide (d.cid = h.cid) | none => false))

def stray (s : State) : State := s.bump R.REEL_STRAY 1

/-- The shadow copy of role `p`, read (R491, R498). -/
def readShadow (s : State) (d : RDesc) (p lo n : Nat) : Option (State × MBytes) :=
  let a := d.shaddr + (64 * (lo - ownBase d p)) * esize d.etype
  let k := elemsIn d lo n * esize d.etype
  if areaOut s a k then none else some (memRead s .reel 0 a k)

/-- This device takes role `p` from hop `h` (R491); false when it has no usable shadow. -/
def takeRole (s : State) (i : SlotId) (d : RDesc) (p h : Nat) : State × Bool :=
  let x := s.rslot i
  match x.role p with
  | some y => (s.updRslot i (fun z => z.setRole { y with fromHop := min y.fromHop h }), true)
  | none =>
    if !(d.shv && decide (d.shrank = p)) then (s, false)
    else
      match (ownSegs d p).foldl (fun (acc : Option (State × SMap (Option MBytes))) q =>
          acc.bind (fun a => (readShadow a.1 d p q.1 q.2).map (fun r => (r.1, SMap.set none a.2 q.1 (some r.2))))) (some (s, [])) with
      | none => (s, false)
      | some (s, own) =>
        let s := s.updRslot i (fun z => { z with roles := z.roles ++ [{ rank := p, fromHop := h, own := own }], acts := SMap.set 0 z.acts p (s.devId.toNat + 1) })
        let s := noteSubst s i p h
        let g := (s.rslot i).group
        let to' := ((partners d p).map (fun q => (roleDev (s.rslot i) q).1) ++ [devOf g p]).eraseDups.filter (fun v => decide (v ≠ s.devId.toNat))
        let s := to'.foldl (fun z v => sendReel z i v { rtype := RT.TAKEOVER, hop := h, role := p } []) s
        -- inputs already sent to p come from their senders' retention
        let s := (segsIn d p).foldl (fun z e => sendReel z i (roleDev (z.rslot i) e.src).1 { rtype := RT.RETREQ, hop := e.hop, role := e.src, seg := e.idx } []) s
        (s, true)

/-- NONE for role `p` goes back. -/
def answerNone (s : State) (i : SlotId) (dev p h : Nat) : State := sendReel s i dev { rtype := RT.NONE, hop := h, role := p } []

/-- DESIGN CHOICE: assumption 80. -/
def onGrantMsg (s : State) (i : SlotId) (d : RDesc) (h : RHdr) : State :=
  let s := s.updRslot i (fun x =>
    let mine := x.roles.filter (fun y => (segsOut d y.rank).any (fun g => decide (g.dst = h.role)))
    { x with grants := mine.foldl (fun m y => let k := y.rank * 4096 + h.role; SMap.set 0 m k (max (SMap.get 0 m k) h.seg)) x.grants })
  reelPump s i

/-- A copy of the own contribution's segment from the own backup (R497). A segment replaced for R498 alone sets BACKUP and not REJECTED,
and its copy may be poisoned unless REJP is set. DESIGN CHOICE: assumption 81. -/
def onCopy (s : State) (i : SlotId) (d : RDesc) (h : RHdr) (bs : MBytes) : State :=
  let x := s.rslot i
  match (ownSegs d x.own.rank).find? (fun p => decide (p.1 = h.seg)) with
  | none => stray s
  | some p =>
    if (SMap.get none x.copies p.1).isNone || decide (bs.length ≠ elemsIn d p.1 p.2 * esize d.etype) then stray s
    else if d.rejp && anyPoison d bs then endMissing s i x.own.rank 0
    else
      let s := s.updRslot i (fun y => { y.setRole { y.own with own := SMap.set none y.own.own p.1 (some bs) } with
                                        copies := SMap.set none y.copies p.1 none, backup := true, backups := y.backups + 1 })
      reelPump (s.bump R.REEL_BACKUPS 1) i

/-- A segment arrives for role `r` of this device. -/
def acceptSeg (s : State) (i : SlotId) (d : RDesc) (r src : Nat) (h : RHdr) (bs : MBytes) (g : RSeg) : State :=
  match (s.rslot i).role r with
  | none => stray s
  | some y =>
    if (SMap.get none y.got (segKey g.hop g.src g.idx)).isSome || !payloadOk d g.ph g.lo g.n bs then stray s
    else
      let bad := if h.badV then some { elem := 64 * g.lo + h.badOff, src := h.badSrc, marked := h.badKind } else none
      let v : RIn := { data := bs, bad := bad }
      let s := s.updRslot i (fun x => { x.setRole { y with got := SMap.set none y.got (segKey g.hop g.src g.idx) (some v) } with
        heard := if src = devOf x.group g.src then x.heard else SMap.set false x.heard g.src true,
        bad := if r = x.own.rank then lowerBad x.bad bad else x.bad })
      -- the grant moves on for a sender that is the role itself
      let s := if live s i && !h.subst then grantTo s i d r g.src else s
      reelPump s i

/-- DATA and PREPASS. -/
def onSegment (s : State) (i : SlotId) (d : RDesc) (m : Msg) (h : RHdr) (bs : MBytes) : State :=
  let x := s.rslot i
  let s := s.bump R.REEL_RXBYTES bs.length
  let s := if h.rtype = RT.DATA then s.updRslot i (fun y => { y with peers := digestData y.peers m.src.toNat true (bs.map (·.1)) }) else s
  if h.role = x.own.rank && h.rtype = RT.DATA && h.subst && !(x.roles.any (fun y => (segsIn d y.rank).any (fun g =>
      decide (g.src = h.role) && decide (g.hop = h.hop) && decide (g.idx = h.seg)))) then onCopy s i d h bs
  else
    let pre := decide (h.rtype = RT.PREPASS)
    let segs := (segsOut d h.role).filter (fun g => decide (g.hop = h.hop) && decide (g.idx = h.seg) && (pre == decide (g.ph = .preReduce ∨ g.ph = .preGather)))
    if h.subst then
      match segs.find? (fun g => (x.role g.dst).isSome && decide (g.dst ≠ x.own.rank) || (d.shv && decide (g.dst = d.shrank))) with
      | some g =>
        let r := if live s i then takeRole s i d g.dst 0 else (s, false)
        if r.2 then acceptSeg r.1 i d g.dst m.src.toNat h bs g else answerNone r.1 i m.src.toNat g.dst g.hop
      | none => match segs with
        | g :: _ => answerNone s i m.src.toNat g.dst g.hop
        | [] => stray s
    else match segs.find? (fun g => decide (g.dst = x.own.rank)) with
      | some g => acceptSeg s i d g.dst m.src.toNat h bs g
      | none => stray s

/-- BKREQ: a rank asks for a copy of its own contribution, or for a substitute of another. -/
def onBkreq (s : State) (i : SlotId) (d : RDesc) (m : Msg) (h : RHdr) : State :=
  let x := s.rslot i
  if devOf x.group h.role = m.src.toNat then
    match d.shv && decide (d.shrank = h.role), (ownSegs d h.role).find? (fun p => decide (p.1 = h.seg)) with
    | true, some p =>
      match readShadow s d h.role p.1 p.2 with
      | some (s, bs) => sendReel s i m.src.toNat { rtype := RT.DATA, subst := true, hop := h.hop, role := h.role, seg := p.1 } bs
      | none => answerNone s i m.src.toNat h.role h.hop
    | _, _ => answerNone s i m.src.toNat h.role h.hop
  else
    match SMap.get 0 x.acts h.role with
    | 0 =>
      let r := if live s i then takeRole s i d h.role h.hop else (s, false)
      if r.2 then reelPump r.1 i else answerNone r.1 i m.src.toNat h.role h.hop
    | _ =>
      match x.role h.role with
      | some _ => reelPump (takeRole s i d h.role h.hop).1 i
      | none => answerNone s i m.src.toNat h.role h.hop

def onTakeover (s : State) (i : SlotId) (d : RDesc) (m : Msg) (h : RHdr) : State :=
  let x := s.rslot i
  if h.role = x.own.rank then
    endColl (noteMiss s i s.devId.toNat h.role h.hop) i RS.REPLACED
  else if SMap.get 0 x.acts h.role = m.src.toNat + 1 && SMap.get false x.heard h.role then s
  else
    let s := s.updRslot i (fun y => { y with acts := SMap.set 0 y.acts h.role (m.src.toNat + 1) })
    let s := noteSubst s i h.role h.hop
    let recv := (s.rslot i).roles.filter (fun y => (segsIn d y.rank).any (fun g => decide (g.src = h.role)))
    let s := recv.foldl (fun z y => if live z i then grantTo z i d y.rank h.role else z) s
    reelPump s i

/-- A RETREQ asks for an input sent earlier (R491, R492). One that names a segment not yet sent has no answer, since the segment goes to
the substitute when it is sent; a role that this device plays for another retains nothing. DESIGN CHOICE: assumption 80. -/
def onRetreq (s : State) (i : SlotId) (d : RDesc) (m : Msg) (h : RHdr) : State :=
  let x := s.rslot i
  let y := x.own
  if h.role ≠ y.rank then answerNone s i m.src.toNat h.role h.hop
  else
    let sent := y.sent.find? (fun e => decide (e.1 / 2 ^ 32 / 4096 = h.hop) && decide (e.1 % 2 ^ 32 = h.seg))
    match sent with
    | some (k, some (len, bad)) =>
      let g := (segsOut d y.rank).find? (fun g => decide (g.hop = h.hop) && decide (g.idx = h.seg) && decide (segKey g.hop g.dst g.idx = k))
      let a := d.raddr + retainAt d y.rank h.hop h.seg
      if !d.retain || areaOut s a len then answerNone s i m.src.toNat h.role h.hop
      else
        let (s, bs) := memRead s .reel 0 a len
        let pre := match g with | some g => decide (g.ph = .preReduce ∨ g.ph = .preGather) | none => false
        let lo := match g with | some g => g.lo | none => 0
        let n := match g with | some g => g.n | none => 0
        let gat := match g with | some g => decide (g.ph = .gather) | none => false
        let promo := decide (d.wire = 3) && !pre && !(gat && decide (d.op = 5)) && (splitPly n bs).any promotedForm
        let b := bad.getD { elem := 64 * lo, src := 0, marked := false }
        sendReel s i m.src.toNat { rtype := if pre then RT.PREPASS else RT.DATA, subst := true, promo := promo, hop := h.hop, role := h.role, seg := h.seg,
                                   badOff := b.elem - 64 * lo, badV := bad.isSome, badKind := b.marked, badSrc := b.src } bs
    | _ => s

def onAbort (s : State) (i : SlotId) (h : RHdr) : State :=
  if h.seg = RS.MISMATCH then endColl s i RS.MISMATCH
  else if h.seg = RS.MISSING then
    let s := s.updRslot i (fun x => { x with miss := some (h.mdev, h.role, h.hop) })
    endColl (reelReport s i 0x0D h.mdev h.role h.hop) i RS.MISSING
  else endColl s i RS.MISSING

/-- NONE: the role that was asked for is missing. -/
def onNone (s : State) (i : SlotId) (h : RHdr) : State := endMissing s i h.role h.hop

/-- A Reel message whose protection and epoch are in order. -/
def reelMessage (s : State) (m : Msg) : State :=
  let h := parseHdr m.data
  if m.data.length < 32 then stray s
  else match slotFor s m h with
    | none => stray s
    | some i =>
      match (s.rslot i).desc with
      | none => stray s
      | some d =>
        if h.phash ≠ (s.rslot i).phash then endMismatch s i
        else
          let bs := (markedData m).drop 32
          match h.rtype with
          | 7 => onAbort s i h
          | 1 => onGrantMsg s i d h
          | 2 | 3 => onSegment s i d m h bs
          | 4 => onBkreq s i d m h
          | 5 => onTakeover s i d m h
          | 6 => onNone s i h
          | 8 => onRetreq s i d m h
          | _ => stray s

/-! ### Deadlines (R487, R489, R490, R494, R497) -/

def hopTime (x : RSlot) (d : RDesc) (h : Nat) : Nat := x.t0.toNat + d.dlbase + (h + 1) * d.dlhop

/-- No GRANT by T0 + DLBASE: role `q`'s data goes to its backup, with DLHOP = 0 too (R487, R489). -/
def onGrantDeadline (s : State) (i : SlotId) (q : Nat) : State :=
  match live s i, (s.rslot i).desc with
  | true, some d =>
    let x := s.rslot i
    let sends := x.roles.any (fun y => (owed d y).any (fun g => decide (g.dst = q)) && decide (SMap.get 0 x.grants (y.rank * 4096 + q) = 0))
    if !sends ∨ SMap.get 0 x.acts q ≠ 0 then s
    else
      let s := elapseTo s (BitVec.ofNat 64 (x.t0.toNat + d.dlbase))
      reelPump (addressBackup s i q 0) i
  | _, _ => s

/-- The role `p` has not sent every segment of hop `h`. -/
def lacks (d : RDesc) (y : RRole) (p h : Nat) : Bool :=
  (segsIn d y.rank).any (fun g => decide (g.src = p) && decide (g.hop = h) && (SMap.get none y.got (segKey g.hop g.src g.idx)).isNone)

/-- DESIGN CHOICE: assumption 81. -/
def onHopDeadline (s : State) (i : SlotId) (h : Nat) : State :=
  match live s i, (s.rslot i).desc with
  | true, some d =>
    if d.dlhop = 0 then s
    else
      let x := s.rslot i
      let s := elapseTo s (BitVec.ofNat 64 (hopTime x d h))
      let late := (x.roles.flatMap (fun y => (sendersTo d y.rank).filter (fun p => lacks d y p h))).eraseDups
      let s := late.foldl (fun z p => if live z i && decide (SMap.get 0 (z.rslot i).acts p ≠ z.devId.toNat + 1) then askBackup z i p h else z) s
      reelPump s i
  | _, _ => s

def onBkwait (s : State) (i : SlotId) (h : Nat) : State :=
  match live s i, (s.rslot i).desc with
  | true, some d =>
    let x := s.rslot i
    match (if h = 0 then x.copies else []).head? with
    | some (_, some t) => endMissing (elapseTo s (t + BitVec.ofNat 64 d.bkwait)) i x.own.rank 0
    | _ =>
      let gone := (x.roles.flatMap (fun y => (sendersTo d y.rank).filter (fun p =>
        lacks d y p h && SMap.get false x.asked (p * 65536 + h) && !SMap.get false x.heard p))).eraseDups
      match gone with
      | p :: _ => if d.dlhop = 0 then s else endMissing (elapseTo s (BitVec.ofNat 64 (hopTime x d h + d.bkwait))) i p h
      | [] => s
  | _, _ => s

/-! ### Drains and edges (R28, R290, R293, R466, R482) -/

/-- A drain may hand elements `first` to `last` of type code `ty` to the slot (R290): they lie within what the rank contributes. -/
def reelTakes (s : State) (i : SlotId) (ty first last : Nat) : Bool :=
  slotBusy s i && (match (s.rslot i).desc with
    | some d => d.csrc && decide (d.etype = ty) && decide (first ≤ last ∧ last < ownElems d (s.rslot i).own.rank)
    | none => false)

/-- One element is handed off. -/
def reelHandOff (s : State) (i : SlotId) (idx : Nat) (bits : Word) (deferred : Bool) : State :=
  match slotBusy s i, (s.rslot i).desc with
  | true, some d =>
    if d.csrc && decide (idx < ownElems d (s.rslot i).own.rank) then
      if (SMap.get none (s.rslot i).elems idx).isSome then (s.updRslot i (fun x => { x with latehand := true })).bump R.REEL_LATEHAND 1
      else s.updRslot i (fun x => { x with elems := SMap.set none x.elems idx (some (bits, deferred)) })
    else s
  | _, _ => s

/-- A failed edge ends the counting collectives of the beat. -/
def reelAbortBeat (s : State) : State :=
  allSlots.foldl (fun z i => if slotBusy z i && (z.rslot i).counts then endColl z i RS.BEAT_ABORT else z) s

/-- At an edge, waiting collectives whose tag is due become eligible; the edge has cleared EDONE bit 16. -/
def reelEdge (s : State) : State :=
  let s := { s with reel := { s.reel with hold := false } }
  let due := allSlots.filter (fun i => decide (slotState s i = 1) && (match (s.rslot i).desc with
    | some d => decide (d.tag = 0xFFFF) || decide (d.tag = s.beatNo.toNat % 65536)
    | none => false))
  let s := due.foldl (fun z i => z.updRslot i (fun x => { x with counts := true })) s
  reelEdone (due.foldl (fun z i => startColl z i true) s)

end Sys2Proof.Machine
end

