-- ==== Sys2Proof/Machine/Session.lean ====
section
/-! DEFINITION. The session unit (14): the schedule ring, the lanes of a beat, the output counter, and moves between slots and
records. -/

namespace Sys2Proof.Machine
open Sys2Proof

def sessEn (s : State) : Bool := s.flag R.SESS_CFG F.SESS_CFG_EN
def schSize (s : State) : Nat := s.fld R.SESS_SCHCFG F.SESS_SCHCFG_SIZE
def schHead (s : State) : Nat := s.fld R.SESS_SCHHEAD F.SESS_SCHHEAD_INDEX
def schTail (s : State) : Nat := s.fld R.SESS_SCHTAIL F.SESS_SCHTAIL_INDEX
/-- Address of ring entry `i`: the base is aligned to the ring's size. -/
def schAddr (s : State) (i : Nat) : Nat :=
  let n := 64 * 2 ^ schSize s
  (s.reg R.SESS_SCHBASE).toNat % 2 ^ 48 / n * n + 64 * (i % 2 ^ schSize s)

/-- The read of R512: up to 8 entries from SCHHEAD, up to SCHTAIL. It replaces an earlier one. -/
def readSchedule (s : State) : State :=
  let avail := (schTail s + 2 ^ 32 - schHead s) % 2 ^ 32
  let n := if s.flag R.SESS_SCHCFG F.SESS_SCHCFG_EN then min 8 avail else 0
  let r := (List.range n).foldl (fun (acc : State × List (List (Byte × Bool))) j =>
    let a := schAddr s (schHead s + j)
    if inOneArea a 64 then (let q := memRead acc.1 .mc 0 a 64; (q.1, acc.2 ++ [q.2])) else acc) (s, [])
  { r.1 with sess := { r.1.sess with entries := r.2, more := decide (n < avail), fresh := true } }

/-- The read at E − 1,000 ns, or at once where the edge was moved later than that (R512). -/
def scheduleTurn (s : State) : State :=
  if !s.running || !s.beat.scheduled then s else readSchedule (elapseTo s (s.reg R.BEAT_NEXT - 1000))

/-- SCHTAIL under the rules of R389 and R390. -/
def writeSchTail (s : State) (v : Nat) : State :=
  let adv := sextNat (v + 2 ^ 32 - schTail s) 32
  if adv < 0 ∨ 2 ^ schSize s < (v + 2 ^ 32 - schHead s) % 2 ^ 32 then s.setFlag R.SESS_STAT F.SESS_STAT_TAILERR true
  else s.setFld R.SESS_SCHTAIL F.SESS_SCHTAIL_INDEX v

/-! ### The assignment at an edge (R511–R513) -/

def laneWord (b : List Byte) (l : Nat) : Nat := ofLe ((b.drop (8 + 2 * l)).take 2)

/-- A well-formed entry (R511, R512). -/
def entryOk (e : List (Byte × Bool)) : Bool :=
  let b := e.map (·.1)
  let ws := (List.range 24).map (laneWord b)
  let used := (ws.filter (fun w => decide (w / 2 ^ 15 = 1))).map (· % 4096)
  !e.any (·.2) && decide (bitsNat (wordIn b 0) 63 16 = 0) && decide (wordIn b 56 = 0) && ws.all (fun w => decide (w / 2 ^ 12 % 8 = 0)) &&
    used.all (fun i => decide (i < 3072)) && decide used.Nodup

/-- Lanes take their slots. DESIGN CHOICE: assumption 83. -/
def assignLanes (s : State) (b : List Byte) : State :=
  (List.range 24).foldl (fun z l =>
    let w := laneWord b l
    (z.setFld (R.SESS_LANE l) F.SESS_LANE_SLOT (w % 4096)).setFld (R.SESS_LANE l) F.SESS_LANE_EN (w / 2 ^ 15)) s

def nextHead (s : State) : State := s.setFld R.SESS_SCHHEAD F.SESS_SCHHEAD_INDEX (schHead s + 1)
def schMiss (s : State) : State := s.setFlag R.SESS_STAT F.SESS_STAT_SCHMISS true

/-- The entries are taken in order (the table of R512). DESIGN CHOICE: assumption 83. -/
def takeEntries (s : State) : List (List (Byte × Bool)) → State
  | [] => schMiss s
  | e :: rest =>
    let b := e.map (·.1)
    let tag := ofLe (b.take 2)
    let d := tagDist s tag
    let due := decide (tag = 0xFFFF) || decide (d = 0)
    if due then
      if !entryOk e then schMiss ((nextHead s).setFlag R.SESS_STAT F.SESS_STAT_SCHERR true)
      else if tag = 0xFFFF ∧ rest = [] ∧ !s.sess.more then assignLanes s b
      else nextHead (assignLanes s b)
    else if d < 0 then takeEntries ((nextHead s).bump R.SESS_SCHLATE 1) rest
    else schMiss s

/-- One lane is served, or skipped, from row `rows` on (R509, R513). -/
def serveLane (acc : State × Nat) (l : Nat) : State × Nat :=
  let (s, rows) := acc
  let r := R.SESS_LANE l
  let show' (z : State) (vw base skip : Nat) : State :=
    let z := ((z.setFld r F.SESS_LANE_VW vw).setFld r F.SESS_LANE_ROWBASE base).setFld r F.SESS_LANE_SKIP skip
    z.setReg R.SESS_LSTAT (setBit (z.reg R.SESS_LSTAT) (24 + l) (decide (skip ≠ 0)))
  if !s.flag r F.SESS_LANE_EN then (show' s 0 0 0, rows)
  else
    let (s, bs) := memRead s .mc 0 (Config.sessBase + 128 * s.fld r F.SESS_LANE_SLOT) 8
    let w := ofLe (bs.map (·.1))
    let vw := bitsNat w 25 20
    if !bs.any (·.2) && decide (bitsNat w 18 16 = 1) && decide (1 ≤ vw ∧ vw ≤ 32) && decide (rows + vw ≤ s.fld R.SESS_CFG F.SESS_CFG_MAXROWS) then
      (show' (s.bump R.SESS_LANESRV 1) vw rows 0, rows + vw)
    else (show' (s.bump R.SESS_LSKIPS 1) 0 0 1, rows)

def servedLanes (s : State) : List Nat := (List.range 24).filter (fun l => s.flag (R.SESS_LANE l) F.SESS_LANE_EN && !s.flag (R.SESS_LANE l) F.SESS_LANE_SKIP)
def outCounter (s : State) : Nat := s.fld R.SESS_CFG F.SESS_CFG_OUTCTR
def sessOut (s : State) : Bool := s.flag R.SESS_CFG F.SESS_CFG_OUTEN

/-- The output counter steps once every served lane is done (R519). -/
def stepOutput (s : State) : State :=
  if sessOut s && !s.flag R.SESS_LSTAT F.SESS_LSTAT_STEPPED && (servedLanes s).all (fun l => bit (s.reg R.SESS_LSTAT) l) then
    addCounter ((s.setFlag R.SESS_LSTAT F.SESS_LSTAT_STEPPED true).bump R.SESS_STEPS 1) (outCounter s) 1
  else s

/-- The session unit at E + 8 ns. An edge for which no read came before reads then. DESIGN CHOICE: assumptions 75, 83. -/
def sessEdge (s : State) : State :=
  let s := s.setFlag R.SESS_LSTAT F.SESS_LSTAT_STEPPED false
  let s := if !sessEn s then s
    else
      let s := if s.sess.fresh then s else readSchedule s
      let s := takeEntries s s.sess.entries
      let r := (List.range 24).foldl serveLane (s, 0)
      r.1.setFld R.SESS_STAT F.SESS_STAT_ROWS r.2
  let s := { s with sess := { s.sess with entries := [], more := false, fresh := false } }
  if sessOut s then
    let s := endWaits (s.setReg (counterReg (outCounter s)) (setField (s.reg (counterReg (outCounter s))) 31 0 0))
    stepOutput (s.setFld R.SESS_LSTAT F.SESS_LSTAT_DONE 0)
  else s

/-- A write of LDONE. DESIGN CHOICE: assumption 84. -/
def writeLdone (s : State) (v : Nat) : State :=
  let set := ((servedLanes s).filter (fun l => v.testBit l)).foldl (fun a l => a ||| 2 ^ l) 0
  stepOutput (s.setFld R.SESS_LSTAT F.SESS_LSTAT_DONE (s.fld R.SESS_LSTAT F.SESS_LSTAT_DONE ||| set))

/-! ### Spill and activation (R510) -/

def sessRecord (s : State) (sid : Nat) : Nat := (s.reg R.SESS_OVBASE).toNat % 2 ^ 48 / 128 * 128 + 128 * sid
def slotAddr' (slot : Nat) : Nat := Config.sessBase + 128 * slot
/-- The record lies in HBM or a pan and Open supervisor may use it. -/
def recordOk (s : State) (a : Nat) (k : AccKind) : Bool := inOneArea a 128 && windowRight s false true k a 128

/-- A word 0 with STATE replaced. -/
def withState (w st : Nat) : Nat := w - bitsNat w 18 16 * 2 ^ 16 + st * 2 ^ 16

def sessResult (s : State) (n : Nat) : State := s.setFld R.SESS_CMD F.SESS_CMD_RESULT n
/-- The bytes have moved: RESULT is OK, and BUSY is set for the 200 ns of the move (R510). DESIGN CHOICE: assumption 84. -/
def sessMoved (s : State) : State :=
  { (sessResult s 0).setFlag R.SESS_CMD F.SESS_CMD_BUSY true with sess := { s.sess with busyUntil := some (s.now + 200) } }
def sessBusy (s : State) : Bool := s.flag R.SESS_CMD F.SESS_CMD_BUSY

/-- DESIGN CHOICE: assumption 84. -/
def doActivate (s : State) (slot sid : Nat) : State :=
  if 3071 < slot then sessResult s 5
  else
    let w := ofLe (peekBytes s (slotAddr' slot) 8)
    let a := sessRecord s sid
    if bitsNat w 18 16 ≠ 0 then sessResult s 1
    else if !recordOk s a .store then sessResult s 4
    else
      let (s, bs) := memRead s .mc 0 a 128
      let r := ofLe ((bs.take 8).map (·.1))
      if bs.any (·.2) then sessResult s 4
      else if bitsNat r 15 0 ≠ sid ∨ bitsNat r 18 16 ≠ 4 then sessResult s 3
      else
        let b := leBytes 8 (withState r 1)
        let s := memWrite s .mc (slotAddr' slot) (b ++ (bs.drop 8).map (·.1))
        sessMoved (memWrite s .mc a b)

def doSpill (s : State) (slot : Nat) : State :=
  if 3071 < slot then sessResult s 5
  else
    let (s, bs) := memRead s .mc 0 (slotAddr' slot) 128
    let w := ofLe ((bs.take 8).map (·.1))
    let a := sessRecord s (bitsNat w 15 0)
    if bitsNat w 18 16 = 0 then sessResult s 1
    else if (List.range 24).any (fun l => s.flag (R.SESS_LANE l) F.SESS_LANE_EN && decide (s.fld (R.SESS_LANE l) F.SESS_LANE_SLOT = slot)) then sessResult s 2
    else if !recordOk s a .store then sessResult s 4
    else
      let b := leBytes 8 (withState w 4)
      let s := memWriteMarked s .mc a (b.map (fun x => (x, (bs.take 8).any (·.2))) ++ bs.drop 8)
      sessMoved (memWrite s .mc (slotAddr' slot) (leBytes 8 (withState w 0)))

/-- A write of SESS.CMD with GO, while it is not busy: the operation that OP names. DESIGN CHOICE: assumption 84. -/
def sessCommand (s : State) : State :=
  match s.fld R.SESS_CMD F.SESS_CMD_OP with
  | 1 => doActivate s (s.fld R.SESS_CMD F.SESS_CMD_SLOT) (s.fld R.SESS_CMD F.SESS_CMD_SID)
  | 2 => doSpill s (s.fld R.SESS_CMD F.SESS_CMD_SLOT)
  | _ => s

end Sys2Proof.Machine
end

