-- ==== Sys2Proof/Machine/Encode.lean ====
section
/-! DEFINITION. The words of Veruk instructions (R88–R98), as the device writes them to TSB.INSN (R119): the word in [31:0], and
for a prefixed form the EXT word in [31:0] and the base word in [63:32]. -/

namespace Sys2Proof

def Imm14.len : Imm14 → Nat | .short _ => 4 | .long _ _ => 8
def Imm20.len : Imm20 → Nat | .short _ => 4 | .long _ _ => 8

/-- The immediate, sign-extended: 14 or 40 bits (R89, R90). -/
def Imm14.sext : Imm14 → Int
  | .short v => v.toInt
  | .long e v => (e ++ v).toInt
/-- The immediate, zero-extended. -/
def Imm14.zext : Imm14 → Nat
  | .short v => v.toNat
  | .long e v => (e ++ v).toNat
/-- The immediate of a J format, sign-extended: 20 or 46 bits. -/
def Imm20.sext : Imm20 → Int
  | .short v => v.toInt
  | .long e v => (e ++ v).toInt
/-- The value that lui and auipc add: sext(IMM20) << 14, or with the EXT word {EXT26, IMM20} << 18 (R89, R90). -/
def Imm20.upper : Imm20 → Word
  | .short v => BitVec.ofInt 64 (v.toInt * 2 ^ 14)
  | .long e v => BitVec.ofNat 64 ((e ++ v).toNat * 2 ^ 18)

/-- FUNC [6:0] of the OP group (R91). -/
def AluOp.func : AluOp → Nat
  | .add => 0x00 | .sub => 0x01 | .and => 0x02 | .or => 0x03 | .xor => 0x04 | .andn => 0x05 | .sll => 0x06 | .srl => 0x07
  | .sra => 0x08 | .rol => 0x09 | .ror => 0x0A | .slt => 0x0B | .sltu => 0x0C | .min => 0x0D | .max => 0x0E | .minu => 0x0F
  | .maxu => 0x10 | .clz => 0x19 | .ctz => 0x1A | .popc => 0x1B | .rev8 => 0x1C
def MulOp.func : MulOp → Nat | .mul => 0x11 | .mulh => 0x12 | .mulhu => 0x13 | .mulhsu => 0x14
def DivOp.func : DivOp → Nat | .div => 0x15 | .divu => 0x16 | .rem => 0x17 | .remu => 0x18
/-- The operations whose .w form the table of R91 allows. -/
def AluOp.allowsW : AluOp → Bool
  | .add | .sub | .sll | .srl | .sra | .rol | .ror => true
  | .and | .or | .xor | .andn | .slt | .sltu | .min | .max | .minu | .maxu | .clz | .ctz | .popc | .rev8 => false
def AluOp.unary : AluOp → Bool
  | .clz | .ctz | .popc | .rev8 => true
  | _ => false
def MulOp.allowsW : MulOp → Bool | .mul => true | .mulh | .mulhu | .mulhsu => false
def ImmOp.major : ImmOp → Nat | .addi => 3 | .andi => 4 | .ori => 5 | .xori => 6 | .slti => 7 | .sltiu => 8
def ShiftOp.kind : ShiftOp → Nat | .slli => 0 | .srli => 1 | .srai => 2 | .rori => 3
def ShiftOp.alu : ShiftOp → AluOp | .slli => .sll | .srli => .srl | .srai => .sra | .rori => .ror
def LdKind.major : LdKind → Nat | .b => 0x0C | .h => 0x0D | .w => 0x0E | .d => 0x0F | .bu => 0x10 | .hu => 0x11 | .wu => 0x12
def LdKind.bytes : LdKind → Nat | .b | .bu => 1 | .h | .hu => 2 | .w | .wu => 4 | .d => 8
def LdKind.signed : LdKind → Bool | .b | .h | .w | .d => true | .bu | .hu | .wu => false
def StKind.major : StKind → Nat | .b => 0x13 | .h => 0x14 | .w => 0x15 | .d => 0x16
def StKind.bytes : StKind → Nat | .b => 1 | .h => 2 | .w => 4 | .d => 8
def AtomOp.func : AtomOp → Nat
  | .swap => 0 | .add => 1 | .and => 2 | .or => 3 | .xor => 4 | .min => 5 | .max => 6 | .minu => 7 | .maxu => 8 | .cas => 9
def BrCond.major : BrCond → Nat | .eq => 0x18 | .ne => 0x19 | .lt => 0x1A | .ge => 0x1B | .ltu => 0x1C | .geu => 0x1D
def FpOp.func : FpOp → Nat
  | .fadd => 0 | .fsub => 1 | .fmul => 2 | .fmin => 5 | .fmax => 6 | .fsgnj => 7 | .fsgnjn => 8 | .fsgnjx => 9 | .feq => 10
  | .flt => 11 | .fle => 12 | .fclass => 13
def FmaOp.op : FmaOp → Nat | .fmadd => 0 | .fmsub => 1 | .fnmsub => 2 | .fnmadd => 3


end Sys2Proof

namespace Sys2Proof.Machine
open Sys2Proof

def fmtR (func rb ra rd major : Nat) : Nat := func % 256 * 2 ^ 24 + rb % 64 * 2 ^ 18 + ra % 64 * 2 ^ 12 + rd % 64 * 2 ^ 6 + major
def fmtR4 (op rc rb ra rd major : Nat) : Nat :=
  op % 4 * 2 ^ 30 + rc % 64 * 2 ^ 24 + rb % 64 * 2 ^ 18 + ra % 64 * 2 ^ 12 + rd % 64 * 2 ^ 6 + major
def fmtI (imm14 ra rd major : Nat) : Nat := imm14 % 2 ^ 14 * 2 ^ 18 + ra % 64 * 2 ^ 12 + rd % 64 * 2 ^ 6 + major
def fmtJ (imm20 rd major : Nat) : Nat := imm20 % 2 ^ 20 * 2 ^ 12 + rd % 64 * 2 ^ 6 + major

def word1 (w : Nat) : Word := BitVec.ofNat 64 w
/-- A prefixed form: EXT26 in its first word, the base word second. -/
def word2 (ext w : Nat) : Word := BitVec.ofNat 64 (ext % 2 ^ 26 * 2 ^ 6 + 0x3F + w * 2 ^ 32)

/-- An I-, S- or B-format word with its EXT word, if it has one. -/
def immWord (i : Imm14) (ra rd major : Nat) : Word :=
  match i with
  | .short v => word1 (fmtI v.toNat ra rd major)
  | .long e v => word2 e.toNat (fmtI v.toNat ra rd major)
def immWordJ (i : Imm20) (rd major : Nat) : Word :=
  match i with
  | .short v => word1 (fmtJ v.toNat rd major)
  | .long e v => word2 e.toNat (fmtJ v.toNat rd major)

def SYS (func f : Nat) : Word := word1 (func * 2 ^ 24 + f * 2 ^ 12 + 0x27)

/-! Instructions for issue. -/

/-- An OP-group instruction. -/
def opInsn (cls : Cls) (func : Nat) (w : Bool) (rd ra rb : Reg6) : Insn :=
  { word := word1 (fmtR (func + boolNat w * 128) rb.toNat ra.toNat rd.toNat 1), cls := cls, reads := [ra.toNat, rb.toNat],
    writes := [rd.toNat], inTx := true }
def immInsn (op : ImmOp) (rd ra : Reg6) (imm : Imm14) : Insn :=
  { word := immWord imm ra.toNat rd.toNat op.major, len := imm.len, cls := .int, reads := [ra.toNat], writes := [rd.toNat],
    inTx := true }
def soloInsn (func f : Nat) (inTx : Bool := false) : Insn := { word := SYS func f, cls := .solo, inTx := inTx }

end Sys2Proof.Machine
end

