-- ==== Sys2Proof/Machine/Scalar.lean ====
section
/-! DEFINITION. The meanings of the integer, branch and loop instructions of the control core (R70–R74, R89–R93). -/

namespace Sys2Proof.Machine
open Sys2Proof

/-- An encoding that the spec reserves raises ILLEGAL (R89). -/
def illegal (s : State) : Res := .trap s ⟨Cause.ILLEGAL, 0, 0⟩

/-- CR.TCR of the thread's world: overflow and divide-by-zero traps enabled (R93). -/
def ovt (x : Thread) : Bool := bit (x.bcr x.world CR.TCR) 0
def dzt (x : Thread) : Bool := bit (x.bcr x.world CR.TCR) 1

/-- An integer result with its two events: signed overflow and division by zero (R93). -/
structure IntRes where
  v : Word
  ovf : Bool := false
  dz : Bool := false
  deriving DecidableEq, Repr

/-- `rd` takes the result; an enabled event takes its trap after completion, with the instruction's PC as TVAL (R93, R111). -/
def intDone (s : State) (t : Thr) (rd : Reg6) (r : IntRes) : Res :=
  let x := s.thr t
  let pc := BitVec.ofNat 64 x.pc.toNat
  let after := if r.ovf && ovt x then some (Cause.OVERFLOW, pc) else if r.dz && dzt x then some (Cause.DIVZERO, pc) else none
  .done (s.setThr t (x.wg rd r.v)) after

def fitsInt (i : Int) (bits : Nat) : Bool := decide (-(2 ^ (bits - 1) : Nat) ≤ i) && decide (i < (2 ^ (bits - 1) : Nat))

/-- An exact result, wrapped to 64 bits, or to 32 and sign-extended (R92, R93). -/
def wrapRes (w : Bool) (i : Int) : IntRes :=
  if w then { v := sextWord (wordOfInt i) 32, ovf := !fitsInt i 32 } else { v := wordOfInt i, ovf := !fitsInt i 64 }

def lowBits (w : Bool) (a : Word) : Nat := if w then a.toNat % 2 ^ 32 else a.toNat
def sval (w : Bool) (a : Word) : Int := if w then sextNat a.toNat 32 else a.toInt
def ext (w : Bool) (n : Nat) : Word := if w then sextWord (BitVec.ofNat 64 n) 32 else BitVec.ofNat 64 n

/-- Shifts and rotates of the low 32 or all 64 bits (R91, R92). -/
def shiftRes (w : Bool) (op : AluOp) (a : Word) (n : Nat) : Word :=
  let bits := if w then 32 else 64
  let x := lowBits w a
  let n := n % bits
  match op with
  | .sll => ext w (x * 2 ^ n % 2 ^ bits)
  | .srl => ext w (x / 2 ^ n)
  | .sra => wordOfInt (sval w a >>> n)
  | .rol => ext w ((x * 2 ^ n + x / 2 ^ (bits - n)) % 2 ^ bits)
  | .ror => ext w ((x / 2 ^ n + x * 2 ^ (bits - n)) % 2 ^ bits)
  | _ => 0

def boolWord (b : Bool) : Word := BitVec.ofNat 64 (boolNat b)

/-- The one-cycle operations (R91–R93). -/
def aluRes (op : AluOp) (w : Bool) (a b : Word) : IntRes :=
  match op with
  | .add => wrapRes w (sval w a + sval w b)
  | .sub => wrapRes w (sval w a - sval w b)
  | .and => { v := a &&& b }
  | .or => { v := a ||| b }
  | .xor => { v := a ^^^ b }
  | .andn => { v := a &&& ~~~b }
  | .sll => { v := shiftRes w .sll a b.toNat }
  | .srl => { v := shiftRes w .srl a b.toNat }
  | .sra => { v := shiftRes w .sra a b.toNat }
  | .rol => { v := shiftRes w .rol a b.toNat }
  | .ror => { v := shiftRes w .ror a b.toNat }
  | .slt => { v := boolWord (a.slt b) }
  | .sltu => { v := boolWord (a.ult b) }
  | .min => { v := if a.sle b then a else b }
  | .max => { v := if a.sle b then b else a }
  | .minu => { v := if a.ule b then a else b }
  | .maxu => { v := if a.ule b then b else a }
  | .clz => { v := BitVec.ofNat 64 (leadingZeros 64 a.toNat) }
  | .ctz => { v := BitVec.ofNat 64 (trailingZerosAux 64 a.toNat) }
  | .popc => { v := BitVec.ofNat 64 (popCountAux 64 a.toNat) }
  | .rev8 => { v := BitVec.ofNat 64 (ofLe (leBytes 8 a.toNat).reverse) }

def aluOpBody (is : Issue) (op : AluOp) (w : Bool) (rd ra rb : Reg6) (s : State) : Res :=
  let x := s.thr is.thr
  if (w && !op.allowsW) || (op.unary && decide (rb ≠ 0)) then illegal s
  else intDone s is.thr rd (aluRes op w (x.rg ra) (x.rg rb))

def execAluOp (is : Issue) (op : AluOp) (w : Bool) (rd ra rb : Reg6) (s : State) : Host.Outcome State Fault Refusal :=
  .next (issue s is (opInsn .int op.func w rd ra rb) (aluOpBody is op w rd ra rb))

/-- Products: the low half with overflow, or a high half (R91). -/
def mulRes (op : MulOp) (w : Bool) (a b : Word) : IntRes :=
  match op with
  | .mul => wrapRes w (sval w a * sval w b)
  | .mulh => { v := wordOfInt ((a.toInt * b.toInt) >>> 64) }
  | .mulhu => { v := BitVec.ofNat 64 (a.toNat * b.toNat / 2 ^ 64) }
  | .mulhsu => { v := wordOfInt ((a.toInt * (b.toNat : Int)) >>> 64) }

def execMul (is : Issue) (op : MulOp) (w : Bool) (rd ra rb : Reg6) (s : State) : Host.Outcome State Fault Refusal :=
  .next (issue s is (opInsn .int op.func w rd ra rb) (fun s =>
    let x := s.thr is.thr
    if w && !op.allowsW then illegal s else intDone s is.thr rd (mulRes op w (x.rg ra) (x.rg rb))))

/-- Quotients and remainders, rounded toward zero, so that a remainder has its dividend's sign, with the results of R93 for a zero
divisor and for the overflow case. DESIGN CHOICE: assumption 127. -/
def divRes (op : DivOp) (w : Bool) (a b : Word) : IntRes :=
  let bits := if w then 32 else 64
  let sa := sval w a
  let sb := sval w b
  let ua := lowBits w a
  let ub := lowBits w b
  let isOver := decide (sa = -(2 ^ (bits - 1) : Nat)) && decide (sb = -1)
  match op with
  | .div => if sb = 0 then { v := BitVec.allOnes 64, dz := true } else if isOver then { v := wordOfInt sa, ovf := true }
      else { v := wordOfInt (sa.tdiv sb) }
  | .divu => if ub = 0 then { v := BitVec.allOnes 64, dz := true } else { v := ext w (ua / ub) }
  | .rem => if sb = 0 then { v := wordOfInt sa, dz := true } else if isOver then { v := 0, ovf := true }
      else { v := wordOfInt (sa.tmod sb) }
  | .remu => if ub = 0 then { v := ext w ua, dz := true } else { v := ext w (ua % ub) }

def execDiv (is : Issue) (op : DivOp) (w : Bool) (rd ra rb : Reg6) (s : State) : Host.Outcome State Fault Refusal :=
  .next (issue s is (opInsn .div op.func w rd ra rb) (fun s =>
    let x := s.thr is.thr
    intDone s is.thr rd (divRes op w (x.rg ra) (x.rg rb))))

/-- R89, R90. -/
def immRes (op : ImmOp) (a : Word) (i : Imm14) : IntRes :=
  match op with
  | .addi => wrapRes false (a.toInt + i.sext)
  | .andi => { v := a &&& BitVec.ofNat 64 i.zext }
  | .ori => { v := a ||| BitVec.ofNat 64 i.zext }
  | .xori => { v := a ^^^ BitVec.ofNat 64 i.zext }
  | .slti => { v := boolWord (decide (a.toInt < i.sext)) }
  | .sltiu => { v := boolWord (a.ult (wordOfInt i.sext)) }

def execAluImmediate (is : Issue) (op : ImmOp) (rd ra : Reg6) (imm : Imm14) (s : State) : Host.Outcome State Fault Refusal :=
  .next (issue s is (immInsn op rd ra imm) (fun s => intDone s is.thr rd (immRes op ((s.thr is.thr).rg ra) imm)))

/-- A 32-bit form needs bit [5] of the amount zero (R89). -/
def execShiftImmediate (is : Issue) (op : ShiftOp) (w : Bool) (rd ra : Reg6) (amt : BitVec 6) (s : State) :
    Host.Outcome State Fault Refusal :=
  let i : Insn := { word := word1 (fmtI (amt.toNat + op.kind * 64 + boolNat w * 512) ra.toNat rd.toNat 9), cls := .int,
                    reads := [ra.toNat], writes := [rd.toNat], inTx := true }
  .next (issue s is i (fun s =>
    if w && amt.getLsbD 5 then illegal s
    else intDone s is.thr rd { v := shiftRes w op.alu ((s.thr is.thr).rg ra) amt.toNat }))

def upperInsn (rd : Reg6) (imm : Imm20) (major : Nat) : Insn :=
  { word := immWordJ imm rd.toNat major, len := imm.len, cls := .int, writes := [rd.toNat], inTx := true }

def execLui (is : Issue) (rd : Reg6) (imm : Imm20) (s : State) : Host.Outcome State Fault Refusal :=
  .next (issue s is (upperInsn rd imm 0x0A) (fun s => intDone s is.thr rd { v := imm.upper }))

def execAuipc (is : Issue) (rd : Reg6) (imm : Imm20) (s : State) : Host.Outcome State Fault Refusal :=
  .next (issue s is (upperInsn rd imm 0x0B) (fun s =>
    intDone s is.thr rd { v := BitVec.ofNat 64 (s.thr is.thr).pc.toNat + imm.upper }))

/-! ### Branches and jumps (R64, R73, R89) -/

/-- Control goes to a 64-bit target; one beyond 48 bits raises DEV_ADDR with the full target as TVAL (R64). -/
def goTo (s : State) (target : Word) (link : State → State) : Res :=
  if target.toNat < 2 ^ 48 then .jump (link s) (BitVec.ofNat 48 target.toNat) else .trap s ⟨Cause.DEV_ADDR, 0, target⟩

def pcPlus (x : Thread) (off : Int) : Word := BitVec.ofNat 64 x.pc.toNat + wordOfInt (4 * off)

def brTaken (c : BrCond) (a b : Word) : Bool :=
  match c with
  | .eq => decide (a = b)
  | .ne => decide (a ≠ b)
  | .lt => a.slt b
  | .ge => !a.slt b
  | .ltu => a.ult b
  | .geu => !a.ult b

def execBranch (is : Issue) (c : BrCond) (ra rb : Reg6) (off : Imm14) (s : State) : Host.Outcome State Fault Refusal :=
  let i : Insn := { word := immWord off rb.toNat ra.toNat c.major, len := off.len, cls := .br, reads := [ra.toNat, rb.toNat],
                    inTx := true }
  .next (issue s is i (fun s =>
    let x := s.thr is.thr
    if brTaken c (x.rg ra) (x.rg rb) then goTo s (pcPlus x off.sext) id else .done s none))

/-- `rd` takes the address after the jump. -/
def linkTo (t : Thr) (rd : Reg6) (v : Word) (s : State) : State := s.setThr t ((s.thr t).wg rd v)

def execJal (is : Issue) (rd : Reg6) (off : Imm20) (s : State) : Host.Outcome State Fault Refusal :=
  let i : Insn := { word := immWordJ off rd.toNat 0x1E, len := off.len, cls := .br, writes := [rd.toNat], inTx := true }
  .next (issue s is i (fun s =>
    let x := s.thr is.thr
    goTo s (pcPlus x off.sext) (linkTo is.thr rd (BitVec.ofNat 64 (x.pc.toNat + off.len)))))

def execJalr (is : Issue) (rd ra : Reg6) (imm : Imm14) (s : State) : Host.Outcome State Fault Refusal :=
  let i : Insn := { word := immWord imm ra.toNat rd.toNat 0x1F, len := imm.len, cls := .br, reads := [ra.toNat],
                    writes := [rd.toNat], inTx := true }
  .next (issue s is i (fun s =>
    let x := s.thr is.thr
    let target := (x.rg ra + wordOfInt imm.sext) &&& ~~~3
    goTo s target (linkTo is.thr rd (BitVec.ofNat 64 (x.pc.toNat + imm.len)))))

/-! ### Hardware loops (R70, R72) -/

/-- The address after a body whose last instruction is at `le`: 4 or, after a prefixed instruction, 8 bytes on (R70). DESIGN CHOICE: assumption 22. -/
def afterBody (s : State) (le : Addr) : Addr :=
  if ((peekBytes s le.toNat 1).headD 0).toNat % 64 = 0x3F then le + 8 else le + 4

/-- loop and loopi (R70), with the illegal placements of R72. -/
def loopBody (s : State) (t : Thr) (lvl : Fin 2) (len body count : Nat) : Res :=
  let x := s.thr t
  let start : Addr := x.pc + BitVec.ofNat 48 len
  let last : Addr := start + BitVec.ofNat 48 (4 * body)
  if atEnd x 0 x.pc || atEnd x 1 x.pc then illegal s
  else if lvl.val = 1 ∧ lcOf x 0 ≠ 0 ∧ (leOf x 0).toNat < last.toNat then illegal s
  else
    let y := ((x.setUcr (CR.LS lvl.val) (BitVec.ofNat 64 start.toNat)).setUcr (CR.LE lvl.val) (BitVec.ofNat 64 last.toNat)).setUcr
      (CR.LC lvl.val) (BitVec.ofNat 64 count)
    if count = 0 then .jump (s.setThr t y) (afterBody s last) else .jump (s.setThr t y) start

def execLoop (is : Issue) (lvl : Fin 2) (ra : Reg6) (body : BitVec 14) (s : State) : Host.Outcome State Fault Refusal :=
  let i : Insn := { word := word1 (body.toNat * 2 ^ 18 + lvl.val * 2 ^ 12 + ra.toNat * 2 ^ 6 + 0x20), cls := .solo,
                    reads := [ra.toNat] }
  .next (issue s is i (fun s =>
    loopBody s is.thr lvl 4 body.toNat (((s.thr is.thr).rg ra).toNat % 2 ^ 32)))

def execLoopi (is : Issue) (lvl : Fin 2) (body : BitVec 13) (count : BitVec 12) (ext : Option (BitVec 20)) (s : State) :
    Host.Outcome State Fault Refusal :=
  let base := body.toNat * 2 ^ 19 + lvl.val * 2 ^ 18 + count.toNat * 2 ^ 6 + 0x21
  let i : Insn := match ext with
    | none => { word := word1 base, cls := .solo }
    | some e => { word := word2 e.toNat base, len := 8, cls := .solo }
  let n := match ext with | none => count.toNat | some e => (e ++ count).toNat
  .next (issue s is i (fun s => loopBody s is.thr lvl i.len body.toNat n))

end Sys2Proof.Machine
end

