-- ==== Sys2Proof/Machine/Tiles.lean ====
section
/-! DEFINITION. Tiles: who owns them, their status word, and what happens when they return to IDLE (R254–R261, R267). -/

namespace Sys2Proof.Machine
open Sys2Proof

def State.mx (s : State) (n : SpindleId) : Matrix := (s.spin n).mx
def State.setMx (s : State) (n : SpindleId) (x : Matrix) : State := s.updSpin n (fun p => { p with mx := x })
def State.updMx (s : State) (n : SpindleId) (f : Matrix → Matrix) : State := s.setMx n (f (s.mx n))
def State.tile (s : State) (n : SpindleId) (j : TileId) : Tile := (s.mx n).tiles[j]
def State.updTile (s : State) (n : SpindleId) (j : TileId) (f : Tile → Tile) : State :=
  s.updMx n (fun x => { x with tiles := x.tiles.set j (f x.tiles[j]) })

/-- T0 and T1 belong to array 0, T2 and T3 to array 1 (R232). -/
def arrayOf (j : TileId) : Fin 2 := ⟨j.val / 2, by have := j.isLt; omega⟩
/-- The other tile of the array (R259). -/
def shadowOf (j : TileId) : TileId := ⟨if j.val % 2 = 0 then j.val + 1 else j.val - 1, by have := j.isLt; split <;> omega⟩
def tileNo (j : Nat) : TileId := ⟨j % 4, Nat.mod_lt _ (by decide)⟩

/-- The tiles that a mop fills: the named one, and T + 2 when paired (R235). -/
def filledTiles (j : TileId) (pair : Bool) : List TileId := if pair then [j, tileNo (j.val + 2)] else [j]
def Mop.tiles (m : Mop) : List TileId := filledTiles m.tile m.pair
def Mop.usesArray (m : Mop) (a : Fin 2) : Bool := m.tiles.any (fun j => decide (arrayOf j = a))
/-- The queue of array `a`, in issue order (R251). -/
def Matrix.queue (x : Matrix) (a : Fin 2) : List Mop := x.mops.filter (·.usesArray a)
/-- Mops queued or running on tile `j`. -/
def Matrix.queuedOn (x : Matrix) (j : TileId) : List Mop := x.mops.filter (fun m => decide (j ∈ m.tiles))

/-- The context in which thread `t` runs owns the tile (R254). -/
def owns (s : State) (t : Thr) (j : TileId) : Bool :=
  decide ((s.tile (spindleOf t) j).owner = some (threadIn t, (s.thr t).world))

/-- The status word of a tile in the layout of SPINDLE.MTILE [24:0]. -/
def tileWord (s : State) (n : SpindleId) (j : TileId) : Word :=
  let x := s.tile n j
  let own := match x.owner with | none => 0 | some (k, w) => 4 + k.val * 8 + boolNat w * 32
  let st := match x.state with | .idle => 0 | .filling => 1 | .full => 2 | .draining => 3
  BitVec.ofNat 64 (st + own + boolNat x.drain.isSome * 2 ^ 6 + boolNat (!x.poison.isEmpty) * 2 ^ 7 +
    boolNat x.boundTo.isSome * 2 ^ 8 + x.shape.toNat * 2 ^ 9 + boolNat x.pair * 2 ^ 11 + boolNat x.wide * 2 ^ 12 +
    x.afmt.toNat * 2 ^ 13 + x.wfmt.toNat * 2 ^ 17 + ((s.mx n).queuedOn j).length % 8 * 2 ^ 21 + boolNat x.releasing * 2 ^ 24)

/-- SPINDLE.MTILE as it reads: of a Sealed-owned tile only OWNED and OWNWORLD (R267). -/
def mtileRead (s : State) (n : SpindleId) (j : TileId) : Word :=
  match (s.tile n j).owner with
  | some (_, true) => 0x24
  | _ => tileWord s n j

/-- An IDLE tile holds no contents, and the fields that describe contents read zero (R256, R267). -/
def emptyTile (x : Tile) : Tile :=
  { x with state := .idle, cells := [], poison := [], boundTo := none, shape := 0, pair := false, wide := false, afmt := 0, wfmt := 0 }

/-- Tile `j` returns to IDLE with its contents discarded, and so does each shadow bound to it (R256, R259). -/
def idleTile (s : State) (n : SpindleId) (j : TileId) : State :=
  s.updMx n (fun x => { x with tiles := x.tiles.mapFinIdx (fun i t _ =>
    if i = j.val ∨ t.boundTo = some j then emptyTile t else t) })

/-- A releasing tile that stands IDLE or FULL with no work left becomes unowned and IDLE (R255). -/
def settleRelease (s : State) (n : SpindleId) (j : TileId) : State :=
  let x := s.tile n j
  if x.releasing && decide (x.state = .idle ∨ x.state = .full) && x.drain.isNone && ((s.mx n).queuedOn j).isEmpty then
    (idleTile s n j).updTile n j (fun y => { y with owner := none, releasing := false })
  else s

/-- The same for a tile and the shadow that its release may have freed (R255, R259). -/
def settleTiles (s : State) (n : SpindleId) (j : TileId) : State := settleRelease (settleRelease s n j) n (shadowOf j)

/-- A tile changes state, and the shadow bound to it follows (R259). -/
def setTileState (s : State) (n : SpindleId) (j : TileId) (st : TileState) : State :=
  s.updMx n (fun x => { x with tiles := x.tiles.mapFinIdx (fun i t _ =>
    if i = j.val ∨ t.boundTo = some j then { t with state := st } else t) })

/-- The flags of tile `j` in its owner's CR.TFLAGS gain some (R177). -/
def addTFlags (s : State) (n : SpindleId) (k : Fin 4) (j : TileId) (m d : BitVec 5) : State :=
  s.updThr (thrOf n k) (fun x =>
    x.setUcr (CR.TFLAGS j.val) (x.ucr (CR.TFLAGS j.val) ||| m.zeroExtend 64 ||| (d.zeroExtend 64 <<< 8)))

end Sys2Proof.Machine
end

