-- ==== Sys2Proof/Machine/System.lean ====
section
/-! DEFINITION. The meanings of the system instructions of the control core: control registers (R75–R81, R96, R99, R143, R185,
R186), synchronisation (R77, R78), transactions (R82–R86), returns (R121–R126), wfi, brk, fences (R323), cache instructions
(R69), bdone (R18, R27), and the events at a thread's boundary (R113, R134). -/

namespace Sys2Proof.Machine
open Sys2Proof

/-! ### Control registers -/

/-- CR.CYCLE of the thread's quadrant (R99). -/
def coreCycle (s : State) (t : Thr) : Word := s.cycles.toList.getD ((spindleOf t).val / 3) 0

/-- Class-S registers (R143). -/
def isClassS (n : Nat) : Bool :=
  decide (n = CR.TSBR) || decide (n = CR.STATUS) || decide (n = CR.GTB) || inRange n (CR.CRB 0) 8 || decide (n = CR.SVSA)

/-- Banked registers other than IPEND and FCSR whose whole value a bank holds. -/
def isBanked (n : Nat) : Bool :=
  isClassS n || decide (n = CR.TCR) || decide (n = CR.IEN) || decide (n = CR.SSP) || decide (n = CR.USP) || decide (n = CR.TCMP)

/-- Registers with one copy per thread. -/
def isSingle (n : Nat) : Bool :=
  inRange n (CR.LC 0) 6 || decide (n = CR.TXSTAT) || decide (n = CR.VCFG) || decide (n = CR.VRES)

def isTFlags (n : Nat) : Bool := inRange n (CR.TFLAGS 0) 4
def isTdstat (n : Nat) : Bool := inRange n (CR.TDSTAT 0) 4

/-- A number that some register has (R81). DEDUCED: assumption 25. -/
def crAssigned (n : Nat) : Bool :=
  decide (n ≤ 3) || isBanked n || isSingle n || isTFlags n || isTdstat n || decide (n = CR.FCSR) || decide (n = CR.IPEND) ||
    decide (n = CR.SWAKE)

/-- R108. -/
def crPermitted (x : Thread) (n : Nat) : Bool :=
  if n < 0x100 then true else if n < 0x180 then x.level else x.level && x.world

/-- The world whose bank a register's access reaches; CR.SVSA has a Sealed copy alone. -/
def crBank (x : Thread) (n : Nat) : Bool := if n = CR.SVSA then true else x.world

/-- The value that crr returns and that crw, crs and crc take as the old value (R76). -/
def crRead (s : State) (t : Thr) (n : Nat) : Word :=
  let x := s.thr t
  let sp := spindleOf t
  if n = CR.THID then BitVec.ofNat 64 ((threadIn t).val + sp.val * 4 + sp.val / 3 * 64)
  else if n = CR.CYCLE then coreCycle s t
  else if n = CR.INSTRET then x.instret
  else if n = CR.TIME then s.now
  else if n = CR.IPEND then BitVec.ofNat 64 (pendingLines s x x.world)
  else if n = CR.FCSR then (if s.level1 then setBit (x.bcr x.world n) 20 false else x.bcr x.world n)
  else if isTFlags n then (if owns s t (tileNo (n - CR.TFLAGS 0)) then x.ucr n else 0)
  else if isTdstat n then (if owns s t (tileNo (n - CR.TDSTAT 0)) then x.ucr n else 0)
  else if isSingle n then x.ucr n
  else if isBanked n then
    match SMap.get none (x.pend (crBank x n)) n with
    | some v => v
    | none => x.bcr (crBank x n) n
  else 0

/-- The bits of a register that a write reaches (R99, R143, R185). -/
def crMask (s : State) (x : Thread) (n : Nat) (v : Word) : Word :=
  if n = CR.TCR then 0x3
  else if n = CR.TSBR then 0x0000FFFFFFFFFE00
  else if n = CR.STATUS then (if x.world then 0xF else 0x7)
  else if n = CR.IEN then 0xFFFFFFFF
  else if n = CR.GTB then 0x0000FFFFFFFFC1FF
  else if inRange n (CR.CRB 0) 4 then 0xFFFFFFFFFFFFFFCF
  else if inRange n (CR.CRL 0) 4 then 0xFFFFFFFFFFFFFFC0
  else if n = CR.SVSA then 0x0000FFFFFFFFF001
  else if n = CR.LC 0 ∨ n = CR.LC 1 then 0xFFFFFFFF
  else if inRange n (CR.LC 0) 6 then 0x0000FFFFFFFFFFFC
  else if n = CR.FCSR then
    0x1F1F ||| (if 5 ≤ field v 18 16 then 0 else 0x70000) ||| (if s.level1 then 0 else 0x100000)
  else if isTFlags n then 0x1F1F
  else if n = CR.SSP ∨ n = CR.USP ∨ n = CR.TCMP then BitVec.allOnes 64
  else 0

/-- Bits of `ga` clear the event lines of CR.IPEND; timer lines ignore them (R143). -/
def clearLines (x : Thread) (ga : Word) : Thread := x.setBcr x.world CR.IPEND (x.bcr x.world CR.IPEND &&& ~~~ga)

/-- A thread halted in Sealed is resumed from its Sealed block and save area (R129); one whose block cannot be read stays halted. -/
def wakeSealed (vcfgOk : Word → Word) (s : State) (t : Thr) : State :=
  let x := s.thr t
  if x.run = .halted ∧ x.world then
    match sealedRestore s t vcfgOk with
    | (s1, .error _) => s1
    | (s1, .ok _) => s1.updThr t (fun y => { y with run := .running, suspended := none })
  else s

/-- The largest VL that a span and a type allow (R190). -/
def vlLimit (span etype : Nat) : Nat := min 4096 (2 ^ span * 32768 / (elemTy etype).width)

/-- CR.VCFG as tret restores it: its assigned bits, with VL under the limits of R190. -/
def vcfgClamp (w : Word) : Word :=
  let v := w &&& 0x3F7FFF
  setField v 12 0 (min (field v 12 0) (vlLimit (field v 14 13) (field v 19 16)))

/-- The value `v` goes to register `n`; `ga` is the operand that clears pending lines. -/
def crWrite (s : State) (t : Thr) (n : Nat) (v ga : Word) : State :=
  let x := s.thr t
  if n = CR.IPEND then s.setThr t (clearLines x ga)
  else if n = CR.SWAKE then
    (List.finRange 4).foldl (fun z k => if bit v k.val then wakeSealed vcfgClamp z (thrOf (spindleOf t) k) else z) s
  else if isClassS n then
    let w := crBank x n
    s.setThr t (x.setPend w (SMap.set none (x.pend w) n (some (v &&& crMask s x n v))))
  else if n = CR.FCSR then s.setThr t (x.setBcr x.world n (maskMerge (x.bcr x.world n) v (crMask s x n v)))
  else if isTFlags n then
    if owns s t (tileNo (n - CR.TFLAGS 0)) then s.setThr t (x.setUcr n (v &&& crMask s x n v)) else s
  else if inRange n (CR.LC 0) 6 then s.setThr t (x.setUcr n (v &&& crMask s x n v))
  else if isBanked n then s.setThr t (x.setBcr x.world n (v &&& crMask s x n v))
  else s

inductive CrOp where
  | r | w | s | c
  deriving DecidableEq, Repr

def crValue (op : CrOp) (old ga : Word) : Word :=
  match op with
  | .r => old
  | .w => ga
  | .s => old ||| ga
  | .c => old &&& ~~~ga

def crCode : CrOp → Nat
  | .r => 0 | .w => 1 | .s => 2 | .c => 3

/-- The CR group (R96): the register's old value to gd, and the new value to the register. DEDUCED: assumption 25. -/
def crBody (is : Issue) (op : CrOp) (rd ra : Reg6) (num : BitVec 12) (s : State) : Res :=
  let n := num.toNat
  let x := s.thr is.thr
  if !crAssigned n then illegal s
  else if !crPermitted x n then .trap s ⟨Cause.PRIVILEGE, 0, BitVec.ofNat 64 n⟩
  else
    let old := crRead s is.thr n
    let ga := x.rg ra
    let s1 := if op = .r then s else crWrite s is.thr n (crValue op old ga) ga
    .done (s1.updThr is.thr (fun y => y.wg rd old)) none

def crInsn (op : CrOp) (rd ra : Reg6) (num : BitVec 12) : Insn :=
  { word := word1 (fmtI (crCode op * 4096 + num.toNat) ra.toNat rd.toNat 0x26),
    cls := if op ≠ .r ∧ isClassS num.toNat then .solo else .cr,
    reads := if op = .r then [] else [ra.toNat], writes := [rd.toNat], inTx := decide (op = .r) }

def execCrr (is : Issue) (rd : Reg6) (num : BitVec 12) (s : State) : Host.Outcome State Fault Refusal :=
  .next (issue s is (crInsn .r rd 0 num) (crBody is .r rd 0 num))
def execCrw (is : Issue) (rd ra : Reg6) (num : BitVec 12) (s : State) : Host.Outcome State Fault Refusal :=
  .next (issue s is (crInsn .w rd ra num) (crBody is .w rd ra num))
def execCrs (is : Issue) (rd ra : Reg6) (num : BitVec 12) (s : State) : Host.Outcome State Fault Refusal :=
  .next (issue s is (crInsn .s rd ra num) (crBody is .s rd ra num))
def execCrc (is : Issue) (rd ra : Reg6) (num : BitVec 12) (s : State) : Host.Outcome State Fault Refusal :=
  .next (issue s is (crInsn .c rd ra num) (crBody is .c rd ra num))
/-- A write of CR.SWAKE (R129). -/
def execSwake (is : Issue) (rd ra : Reg6) (s : State) : Host.Outcome State Fault Refusal :=
  .next (issue s is (crInsn .w rd ra 0x181) (crBody is .w rd ra 0x181))

/-! ### Synchronisation (R77, R78) -/

/-- DESIGN CHOICE: assumption 27. -/
def syncBody (is : Issue) (s : State) : Res := .done (s.updThr is.thr applyPending) none

def execCsync (is : Issue) (s : State) : Host.Outcome State Fault Refusal := .next (issue s is (soloInsn 1 0) (syncBody is))
/-- isync also waits until every earlier store of the thread has passed the L1 (R78). -/
def execIsync (is : Issue) (s : State) : Host.Outcome State Fault Refusal :=
  .next (issue s is (soloInsn 2 0) (fun s => if (s.thr is.thr).storeQ.isEmpty then syncBody is s else .wait s))

/-! ### bdone and beat entries (R18, R19, R27) -/

/-- The entry of a beat: the thread resumes at TENTRY.PC in the world and level of its last bdone (R18). -/
def takeEntry (s : State) (t : Thr) : State :=
  s.updThr t (fun x => { x with
    run := .running, entry := false, world := x.bdWorld, level := x.bdLevel, group := none, wait := .none, misses := [], parkBlock := none,
    pc := BitVec.ofNat 48 (s.fld (R.BEAT_TENTRY t) F.BEAT_TENTRY_PC * 4) })

def setTdone (s : State) (t : Thr) (b : Bool) : State := s.setReg R.BEAT_TDONE (setBit (s.reg R.BEAT_TDONE) t.val b)

def bdoneBody (is : Issue) (s : State) : Res :=
  let t := is.thr
  let x := s.thr t
  if x.entry then
    let s1 := takeEntry (s.setThr t { x with bdWorld := x.world, bdLevel := x.level }) t
    .jump s1 (s1.thr t).pc
  else
    let s1 := setTdone (s.setThr t { x with run := .parked, bdWorld := x.world, bdLevel := x.level }) t true
    .done (checkDone s1) none

def execBdone (is : Issue) (s : State) : Host.Outcome State Fault Refusal := .next (issue s is (soloInsn 4 0) (bdoneBody is))

/-! ### Transactions (R82–R86) -/

/-- A fail address beyond 48 bits keeps its low 48. DESIGN CHOICE: assumption 122. -/
def tbeginBody (is : Issue) (rd : Reg6) (off : Imm20) (s : State) : Res :=
  let t := is.thr
  let x := s.thr t
  if x.tx.isSome then .left (txAbort s t 9 0 false)
  else
    let fail : Addr := BitVec.ofNat 48 (pcPlus x off.sext).toNat
    .done (s.setThr t ({ x with tx := some { rd := rd, fail := fail, wset := [], rset := [], began := coreCycle s t } }.wg rd 0)) none

def execTbegin (is : Issue) (rd : Reg6) (off : Imm20) (s : State) : Host.Outcome State Fault Refusal :=
  let i : Insn := { word := immWordJ off rd.toNat 0x28, len := off.len, cls := .solo, writes := [rd.toNat], inTx := true }
  .next (issue s is i (tbeginBody is rd off))

/-- The bytes of a write-set line as runs of consecutive bytes: their offsets and data. -/
def lineRuns (l : TxLine) : List (Nat × List Byte) :=
  let bytes := lineBytes l.data
  (List.range 64).foldr (fun i acc =>
    if l.mask.getLsbD i then
      match acc with
      | (o, bs) :: rest => if o = i + 1 then (i, bytes.getD i 0 :: bs) :: rest else (i, [bytes.getD i 0]) :: acc
      | [] => [(i, [bytes.getD i 0])]
    else acc) []

/-- The whole write set becomes visible at once, after every earlier store of the thread (R84). DEDUCED: assumption 23. -/
def commitLine (t : Thr) (s : State) (l : TxLine) : State :=
  (lineRuns l).foldl (fun z r =>
    memWrite (storePasses z (spindleOf t) (l.line * 64 + r.1) r.2) (.thread t) (l.line * 64 + r.1) r.2) s

def tcommitBody (is : Issue) (s : State) : Res :=
  let t := is.thr
  let x := s.thr t
  match x.tx with
  | none => illegal s
  | some tx => if !x.storeQ.isEmpty then .wait s else
    let s1 := s.setThr t ({ x with tx := none }.setUcr CR.TXSTAT 0)
    .done (tx.wset.foldl (commitLine t) s1) none

def execTcommit (is : Issue) (s : State) : Host.Outcome State Fault Refusal :=
  .next (issue s is (soloInsn 5 0 true) (tcommitBody is))

def execTabort (is : Issue) (code : Byte) (s : State) : Host.Outcome State Fault Refusal :=
  .next (issue s is (soloInsn 6 code.toNat true) (fun s =>
    if (s.thr is.thr).tx.isSome then .left (txAbort s is.thr 10 code.toNat false) else illegal s))

/-- The ns of the timebase clock after which the core clock of thread `t` has made `n` more cycles (R1); none when it stands. -/
def clocksForCycles (s : State) (t : Thr) (n : Nat) : Option Nat :=
  let q := (spindleOf t).val / 3
  let f := s.fld (R.PWR_QFREQ q) F.PWR_QFREQ_FCUR
  if f = 0 then none else some ((n * 40 - s.cycleFrac.toList.getD q 0 + f - 1) / f)

/-- Time passes until 16,384 core cycles have gone by since tbegin, and the transaction aborts (R86). DESIGN CHOICE: assumption 12. -/
def txTimeout (s : State) (t : Thr) (tx : Tx) : State :=
  let gone := (coreCycle s t - tx.began).toNat
  if 16384 ≤ gone then txAbort s t 8 0 true
  else match clocksForCycles s t (16384 - gone) with
    | some n => txAbort (elapse s n) t 8 0 true
    | none => s

def execTxTimeAbort (t : Thr) (s : State) : Host.Outcome State Fault Refusal :=
  .next (match (s.thr t).tx with | some tx => txTimeout s t tx | none => s)

/-! ### tret (R121–R126) -/

/-- Chaining writes the fields CAUSE, TVAL, INSN, TICK and CHAIN of the block and nothing else (R122). -/
def chainBlock (s : State) (t : Thr) (a : Nat) (b : Tsb) (cause : Nat) : State :=
  let b' : Tsb := { b with cause := cause, chain := min 255 (b.chain + 1) }
  let put (z : State) (o : Nat) (v : Nat) := entryWrite z t (a + o) (leBytes 8 v)
  let s := entryWrite s t (a + 9) (leBytes 1 b'.chain)
  put (put (put (put s 0x10 b'.causeWord) 0x18 0) 0x20 0) 0x68 s.now.toNat

/-- tret ends outside `issue`'s own retirement, because VRES is valid for the instruction that follows it (R222). -/
def tretRetire (s : State) (t : Thr) : State :=
  s.updThr t (fun x => { abandonHost x with instret := x.instret + 1, group := none, wait := .none, misses := [] })

/-- A thread that was parked when the handler of its block was entered parks again, or takes an entry that an edge left (R19). -/
def repark (s : State) (t : Thr) (w : Bool) (a : Nat) : State :=
  let x := s.thr t
  if reparks x w a then
    let s := s.setThr t { x with run := .parked, parkBlock := none }
    if x.entry then takeEntry s t else s
  else s

def tretBody (is : Issue) (s : State) : Res :=
  let t := is.thr
  if !(s.thr t).level then .trap s ⟨Cause.PRIVILEGE, 0, 0⟩
  else
    let s := s.updThr t applyPending
    let x := s.thr t
    let w := x.world
    let a := tsbAddr x w
    match readTsb s t w a with
    | (s, .error e) => .trap s e
    | (s, .ok b) =>
      let x := s.thr t
      let resume := !w && decide (x.suspended = some a)
      let lines := pendingLines s x w &&& (x.bcr w CR.IEN).toNat
      match (if !x.nochain w && b.pie && !resume then lowestLine lines else none) with
      | some i =>
        let s := chainBlock s t a b (Cause.INT i)
        let closed (y : Thread) : Thread := y.setBcr w CR.STATUS (setBit (setBit (y.bcr w CR.STATUS) 0 false) 1 true)
        .left (tretRetire (s.updThr t (fun y => { closed y with pc := handlerAddr w (Cause.INT i) })) t)
      | none =>
        let back (y : Thread) : Thread := y.setBcr w CR.STATUS (setBit (setBit (y.bcr w CR.STATUS) 0 b.pie) 1 false)
        if resume then
          match sealedRestore s t vcfgClamp with
          | (s, .error e) => .trap s e
          | (s, .ok _) =>
            let s := s.updThr t (fun y => { back y with suspended := none })
            .left (repark (tretRetire s t) t w a)
        else
          let s := s.updThr t (fun y => restoreFrom (back y) b (w && b.pworld) vcfgClamp)
          .left (repark (tretRetire s t) t w a)

def execTret (is : Issue) (s : State) : Host.Outcome State Fault Refusal := .next (issue s is (soloInsn 9 0) (tretBody is))

/-! ### wfi and brk -/

def execWfi (is : Issue) (s : State) : Host.Outcome State Fault Refusal :=
  .next (issue s is (soloInsn 0x0A 0) (fun s =>
    .done (wakeWfi (s.updThr is.thr (fun x => { x with run := .waiting })) is.thr) none))

def execBrk (is : Issue) (code : Byte) (s : State) : Host.Outcome State Fault Refusal :=
  .next (issue s is (soloInsn 0x0B code.toNat) (fun s => .trap s ⟨Cause.BREAK, code.toNat, 0⟩))

/-! ### Fences and cache instructions (R69, R313, R323) -/

/-- Every line of an L1 that is not locked and that `keep` does not spare goes, and outstanding fills of such lines are not
allocated. -/
def invalLines (s : State) (n : SpindleId) (d : Bool) (keep : Nat → Bool) : State :=
  let c := s.cache n d
  let gone (k : Nat) (l : Option Line) : Bool :=
    !locked s n d ⟨k % 4, Nat.mod_lt _ (by decide)⟩ &&
      (match l with | some x => !keep (x.tag * 256 + k / 4) | none => false)
  let ks := (c.lines.map (·.1)).filter (fun k => gone k (SMap.get none c.lines k))
  let c := ks.foldl (fun z k => z.drop k) c
  s.setCache n d { c with fills := c.fills.map (fun f => if keep f.line then f else { f with drop := true }) }

/-- The line lies in the Spindle's own pan. -/
def inOwnPan (n : SpindleId) (line : Nat) : Bool := decide (windowOf (line * 64) = .pan n)

/-- Every earlier mop of the thread has read its activations, and every mfill its source (R323 M). -/
def matrixReadsDone (s : State) (t : Thr) : Bool :=
  let x := s.mx (spindleOf t)
  x.mops.all (fun m => decide (m.thr ≠ threadIn t) || m.started) && x.fills.all (fun f => decide (f.thr ≠ threadIn t))

/-- DESIGN CHOICE: assumption 27. -/
def fenceBody (is : Issue) (set : BitVec 6) (s : State) : Res :=
  let t := is.thr
  let n := spindleOf t
  if set.getLsbD 4 || set.getLsbD 5 then illegal s
  else if (set.getLsbD 0 && decide (missCount s t ≠ 0)) || (set.getLsbD 1 && !(s.thr t).storeQ.isEmpty) ||
      (set.getLsbD 3 && !matrixReadsDone s t) then .wait s
  else .done (if set.getLsbD 2 then invalLines s n true (inOwnPan n) else s) none

def execFence (is : Issue) (set : BitVec 6) (s : State) : Host.Outcome State Fault Refusal :=
  .next (issue s is (soloInsn 0x10 set.toNat) (fenceBody is set))

def cacheInsn (op : Nat) (ra : Reg6) (imm : BitVec 14) : Insn :=
  { word := word1 (fmtI imm.toNat ra.toNat op 0x29), cls := .mem, reads := [ra.toNat] }

def cacheEa (s : State) (t : Thr) (ra : Reg6) (imm : BitVec 14) : Word := (s.thr t).rg ra + BitVec.ofInt 64 imm.toInt

/-- icinv.l and dcinv.l: the address is checked as an address alone (R63, R106). -/
def invalBody (is : Issue) (d : Bool) (ra : Reg6) (imm : BitVec 14) (s : State) : Res :=
  let ea := cacheEa s is.thr ra imm
  if badAddr .load ⟨ea.toNat, 1⟩ then .trap s ⟨Cause.DEV_ADDR, 0, ea⟩
  else
    let n := spindleOf is.thr
    .done (invalLine s n d (ea.toNat / 64)) none

def invalAllBody (is : Issue) (d : Bool) (s : State) : Res := .done (invalLines s (spindleOf is.thr) d (fun _ => false)) none

def execIcinvL (is : Issue) (ra : Reg6) (imm : BitVec 14) (s : State) : Host.Outcome State Fault Refusal :=
  .next (issue s is (cacheInsn 0 ra imm) (invalBody is false ra imm))
def execIcinvAll (is : Issue) (s : State) : Host.Outcome State Fault Refusal :=
  .next (issue s is (cacheInsn 1 0 0) (invalAllBody is false))
def execDcinvL (is : Issue) (ra : Reg6) (imm : BitVec 14) (s : State) : Host.Outcome State Fault Refusal :=
  .next (issue s is (cacheInsn 2 ra imm) (invalBody is true ra imm))
def execDcinvAll (is : Issue) (s : State) : Host.Outcome State Fault Refusal :=
  .next (issue s is (cacheInsn 3 0 0) (invalAllBody is true))

/-- The windows that an L1 caches (R307). -/
def cacheable (a : Nat) : Bool :=
  match windowOf a with
  | .hbm | .pan _ | .openHandler | .sealedHandler => true
  | .control | .tstore | .session | .unmapped => false

/-- A prefetch of a line the thread may read, or fetch: a miss requests it (R69, R310, R314); under FILL_EN a line found in an
unlocked way other than FILLWAY moves there. -/
def pfBody (is : Issue) (d : Bool) (ra : Reg6) (imm : BitVec 14) (s : State) : Res :=
  let t := is.thr
  let x := s.thr t
  let n := spindleOf t
  let ea := cacheEa s t ra imm
  let line := ea.toNat / 64
  match checkAccess s x (if d then .load else .exec) (BitVec.ofNat 64 (line * 64)) 64 with
  | .error _ => .done s none
  | .ok _ =>
    if !isDevice ea.toNat || !cacheable ea.toNat then .done s none
    else
      let (s, found, way) := l1Find s n d line false
      let fw := fillWay s n d
      let fill (way : Option Nat) : Fill := { line := line, thr := none, prefetch := true, way := way, drop := false }
      match found with
      | some w =>
        if fillEn s n d && decide (w.val ≠ fw) && !locked s n d w then
          .done (addFill (invalLine s n d line) n d (fill (some fw))) none
        else .done s none
      | none =>
        if fillEn s n d then .done (l1Request s n d (fill (some fw))) none
        else .done (l1Request s n d (fill way)) none

def execPfD (is : Issue) (ra : Reg6) (imm : BitVec 14) (s : State) : Host.Outcome State Fault Refusal :=
  .next (issue s is (cacheInsn 4 ra imm) (pfBody is true ra imm))
def execPfI (is : Issue) (ra : Reg6) (imm : BitVec 14) (s : State) : Host.Outcome State Fault Refusal :=
  .next (issue s is (cacheInsn 5 ra imm) (pfBody is false ra imm))

/-! ### Illegal words and fetch faults (R58, R64, R89) -/

/-- A word that no instruction has raises ILLEGAL at its own address, in a group of its own (R58, R89, R90, R229). A word that spells an
instruction is not this command's: nothing happens. -/
def execIllegalInstruction (is : Issue) (w : BitVec 32) (w2 : Option (BitVec 32)) (s : State) : Host.Outcome State Fault Refusal :=
  let word : Word := match w2 with | some b => BitVec.ofNat 64 (w.toNat + b.toNat * 2 ^ 32) | none => BitVec.ofNat 64 w.toNat
  if (decodeInsn is w w2).isSome then .next s else .next (issue s is { word := word, cls := .solo, inTx := true } illegal)

/-- An address from which instructions are fetched (R64). -/
def fetchable (a : Nat) : Bool :=
  match windowOf a with
  | .hbm | .pan _ | .openHandler | .sealedHandler => true
  | .control | .tstore | .session | .unmapped => false

/-- The fault that a fetch at the PC raises, if one does: DEV_ADDR outside the fetchable windows, else ACCESS (R64, R106), else
POISON for an instruction word that memory holds marked Deferred; TVAL is the target. DESIGN CHOICE: assumption 30. -/
def fetchFault (s : State) (t : Thr) : State × Option TrapInfo :=
  let x := s.thr t
  let a := x.pc.toNat
  let tv := BitVec.ofNat 64 a
  if !fetchable a then (s, some ⟨Cause.DEV_ADDR, 0, tv⟩)
  else if !partRight s x .exec ⟨a, 4⟩ then (s, some ⟨Cause.ACCESS, 0, tv⟩)
  else
    let (s, bs) := memRead s (.fill (spindleOf t)) 1 a 4
    (s, if bs.any (·.2) then some ⟨Cause.POISON, 0, tv⟩ else none)

def execInstructionFetchFault (is : Issue) (s : State) : Host.Outcome State Fault Refusal :=
  let t := is.thr
  if (s.thr t).run ≠ .running then .next s
  else
    let s1 := endGroup s t
    if (firstAfter (s.thr t)).isSome then .next s1
    else match fetchFault s1 t with
      | (s2, some i) => .next (takeTrap s2 t (s2.thr t).pc .fault i 0)
      | (s2, none) => .next s2

/-! ### Events at a boundary (R112, R113, R134, R264) -/

/-- The boundary comes: an open group ends; a trap after completion that it held is taken first (R113). -/
def atBoundary (s : State) (t : Thr) (f : State → State) : State :=
  match (s.thr t).group with
  | some g => if g.after.isSome then endGroup s t else f (endGroup s t)
  | none => f s

/-- A running thread whose instruction awaits host data is at no boundary (R113). -/
def atEvent (x : Thread) : Bool := (decide (x.run = .running) && !hostBusy x) || decide (x.run = .stalled)

def overrunReady (x : Thread) : Bool := x.overrun.isSome && !x.inh x.world && atEvent x
def matrixReady (x : Thread) : Bool := x.matErr.any (fun e => decide (e.1 = x.world)) && !x.inh x.world && atEvent x

/-- The takeable line of highest priority: Sealed first, the lowest line first (R113). -/
def topLine (s : State) (x : Thread) : Option (Bool × Nat) :=
  match lowestLine (takeable s x true) with
  | some i => some (true, i)
  | none => (lowestLine (takeable s x false)).map (fun i => (false, i))

/-- The thread enters the handler of the takeable line of highest priority, unless an event of higher priority is ready. -/
def execTakeInterrupt (t : Thr) (s : State) : Host.Outcome State Fault Refusal :=
  if !takesEvents (s.thr t) || (decide ((s.thr t).run = .running) && hostBusy (s.thr t)) then .next s
  else .next (atBoundary s t (fun s =>
    let s := wakeWfi s t
    let x := s.thr t
    if overrunReady x || matrixReady x then s
    else match topLine s x with
      | some (w, i) => asyncEntry s t w (Cause.INT i) 0
      | none => s))

def execTakeBeatOverrun (t : Thr) (s : State) : Host.Outcome State Fault Refusal :=
  if !overrunReady (s.thr t) then .next s
  else .next (atBoundary s t (fun s =>
    let x := s.thr t
    match x.overrun with
    | some n => asyncEntry (s.setThr t { x with overrun := none }) t x.world Cause.BEAT_OVERRUN n
    | none => s))

/-- The pending MATRIX_ERROR of the thread's context: TVAL names its lowest tile (R264). -/
def execTakeMatrixError (t : Thr) (s : State) : Host.Outcome State Fault Refusal :=
  if !matrixReady (s.thr t) || overrunReady (s.thr t) then .next s
  else .next (atBoundary s t (fun s =>
    let x := s.thr t
    let mine := (x.matErr.filter (fun e => decide (e.1 = x.world))).map (·.2)
    let tile := mine.foldl min 3
    let x' := { x with matErr := x.matErr.filter (fun e => decide (e.1 ≠ x.world)) }
    asyncEntry (s.setThr t x') t x.world Cause.MATRIX_ERROR (BitVec.ofNat 64 tile)))

/-- CR.TIME reaches CR.TCMP of a bank: its timer line is pending, and a wfi may complete (R132, R134). -/
def execTimerInterrupt (t : Thr) (sealed : Bool) (s : State) : Host.Outcome State Fault Refusal :=
  let c := (s.thr t).bcr sealed CR.TCMP
  if c = 0 then .next s else .next (wakeWfi (elapseTo s c) t)

/-! ### Start and halt (R100, R101, R128) -/

/-- A GEMM of the resident service runs (R542). -/
def gemmBusy (s : State) : Bool := s.box.active && decide (s.box.cmd.getD 0 0 = 6)

def spindleFenced (s : State) (n : SpindleId) : Bool := bit (s.reg R.MC_FENCED) n.val

/-- A write of 1 to SPINDLE.TCTL.START. -/
def startThread (s : State) (t : Thr) : State :=
  let x := s.thr t
  if x.run ≠ .halted then s
  else if x.world then s.setThr t { x with refused := true }
  else if spindleFenced s (spindleOf t) || gemmBusy s then s
  else
    let pc := s.fld (R.SPINDLE_TPC (spindleOf t) (threadIn t)) F.SPINDLE_TPC_PC
    s.setThr t { x with run := .running, pc := BitVec.ofNat 48 (pc * 4), world := false, level := true, group := none }

/-- A write of 1 to SPINDLE.TCTL.HALT: the thread stops at once, or once its outstanding host accesses have returned (R101). -/
def haltThread (s : State) (t : Thr) : State :=
  if hostBusy (s.thr t) then s.updThr t (fun x => { x with haltReq := true }) else haltNow s t

/-- DESIGN CHOICE: assumption 112. -/
def execStart (t : Thr) (s : State) : Host.Outcome State Fault Refusal := .next (startThread s t)
def execHalt (t : Thr) (s : State) : Host.Outcome State Fault Refusal := .next (haltThread s t)

end Sys2Proof.Machine
end

