-- ==== Sys2Proof/Machine/Repair.lean ====
section
/-! DEFINITION. Signed images (R550, R551), repair commands and the repair log (R581–R587), the watchdog and firmware swaps (R580,
R588, R589), the ends of the merge window and of records (R577–R579), and the stop of the device on a Fatal error (R571). -/

namespace Sys2Proof.Machine
open Sys2Proof

/-- The MC and its registers are without power or in a trip. DESIGN CHOICE: assumption 13. -/
def State.dead (s : State) : Bool := s.power.tripped || !s.power.powered

/-- The MC carries out commands. -/
def mcUp (s : State) : Bool := s.mc.running && !s.dead

/-! ### Images (R550, R551) -/

def bytesAt (b : List Byte) (o n : Nat) : Nat := ofLe ((b.drop o).take n)
def zeroAt (b : List Byte) (o n : Nat) : Bool := ((b.drop o).take n).all (fun x => decide (x = 0))

/-- The bytes of the header that no field uses are zero. -/
def imageReserved (h : List Byte) : Bool :=
  zeroAt h 0x006 2 && zeroAt h 0x00B 5 && zeroAt h 0x105 11 && zeroAt h 0x194 108

inductive Verified where
  | ok (i : Image)
  | auth
  | rollback
  deriving DecidableEq, Repr

/-- Verification of an image of type `ty`, whose bytes are a header and a body (R551). DEDUCED: assumption 94. -/
def verifyImage (s : State) (ty : Nat) (b : List Byte) : Verified :=
  let h := b.take 512
  let len := bytesAt h 0x018 8
  let region := bytesAt h 0x028 8
  let body := (b.drop 512).take len
  let ctr := bytesAt h 0x005 1
  let svn := bytesAt h 0x00A 1
  let pub := (h.drop 0x080).take 133
  let key := (List.finRange 4).find? (fun i => decide (Config.sha512 pub = Config.fuseFwKey i) && !s.flash.revoked.getLsbD i.val)
  let shape := decide (h.length = 512) && decide (bytesAt h 0 4 = 0x4B414D49) && decide (bytesAt h 4 1 = ty) && decide (ctr = ty - 1) && imageReserved h &&
    decide (svn ≤ 64) && decide (body.length = len) &&
    (if ty = 1 then decide (bytesAt h 0x010 8 = 0) && decide (len ≤ 0x400000) else decide (len ≤ region) && decide (region % 0x200000 = 0))
  match key with
  | none => .auth
  | some i =>
    if !shape then .auth
    else if !Config.ecdsaVerify pub (Config.sha512 (h.take 0x110)) ((h.drop 0x110).take 66) ((h.drop 0x152).take 66) then .auth
    else if BitVec.ofNat 512 (bytesAt h 0x040 64) ≠ Config.sha512 body then .auth
    else if svn < s.flash.arctr.toList.getD ctr 0 then .rollback
    else .ok { version := bytesAt h 0x008 2, svn := svn, key := i.val, digest := Config.sha512 (h ++ body) }

/-- The image of flash slot `k`. DESIGN CHOICE: assumption 90. -/
def slotImage (s : State) (k : Nat) : Verified := verifyImage s 1 (s.flash.img.toList.getD (k % 2) [])

/-- SLOTOK and the version of slot `k`. -/
def noteSlot (s : State) (k : Nat) (v : Verified) : State :=
  let r := s.reg R.MC_FWSTAT
  let ok := match v with | .ok _ => true | _ => false
  let ver := match v with | .ok i => i.version | _ => 0
  s.setReg R.MC_FWSTAT (setField (setBit r (1 + k % 2) ok) (31 + 16 * (k % 2)) (16 + 16 * (k % 2)) ver)

/-! ### The mailbox's state (R533, R547) -/

/-- MBOX.STATE shows a state as it is entered; a change is an event. -/
def boxState (s : State) (v : Nat) : State :=
  if s.fld R.MBOX_STATE F.MBOX_STATE_STATE = v then s
  else mboxEvent (s.setFld R.MBOX_STATE F.MBOX_STATE_STATE v) 1

/-- The mailbox registers take their reset values at a start of the MC (R547); BOOTSRC and STRAPERR are the boot ROM's. DESIGN CHOICE: assumption 93. -/
def boxReset (s : State) : State :=
  let src := s.fld R.MBOX_STATE F.MBOX_STATE_BOOTSRC
  let err := s.fld R.MBOX_STATE F.MBOX_STATE_STRAPERR
  let s := { s with regs := SMap.clear s.regs (fun k => decide (0x3C00000 ≤ k ∧ k < 0x4000000)), box := {} }
  (s.setFld R.MBOX_STATE F.MBOX_STATE_BOOTSRC src).setFld R.MBOX_STATE F.MBOX_STATE_STRAPERR err

/-! ### Repair commands (R581–R584, R587) -/

def repairBusy (s : State) : Bool := s.flag R.MC_REPCMD F.MC_REPCMD_BUSY

/-- The command ends with a result and the REPAIR event. -/
def repairEnd (s : State) (r : Nat) : State := mcEvent ((s.setFld R.MC_REPCMD F.MC_REPCMD_RESULT r).setFlag R.MC_REPCMD F.MC_REPCMD_BUSY false) 3

/-- The checks of FENCE_SPINDLE: the failing result, if one fails. -/
def fenceFails (s : State) (n : Nat) : Option Nat :=
  if 11 < n then some 4
  else
    let sp := spindleNo n
    let ks : List (Fin 4) := List.finRange 4
    if ks.any (fun k => (s.thr (thrOf sp k)).world) ||
        ks.any (fun j => match (s.tile sp j).owner with | some (_, w) => w | none => false) || bit (s.reg R.SEC_SPAN) n then some 3
    else if ks.all (fun k => decide ((s.thr (thrOf sp k)).run = .halted) && !takesPart s (thrOf sp k)) &&
        ks.all (fun j => decide ((s.tile sp j).state = .idle) && (s.tile sp j).owner.isNone) && decide ((s.mx sp).fills = []) && !spindleFenced s sp then none
    else some 2

def fenceGo (s : State) (n : Nat) (scope persist : Bool) : State :=
  match fenceFails s n with
  | some r => repairEnd s r
  | none =>
    if persist && decide (1024 ≤ s.flash.log.length) then repairEnd s 7
    else
      let s := s.setReg R.MC_FENCED (setBit (s.reg R.MC_FENCED) n true)
      let s := if scope then s.setReg R.MC_FENCED (setBit (s.reg R.MC_FENCED) (16 + n) true) else s
      let s := if persist then s.setLog (s.flash.log ++ [.spindle n scope]) else s
      repairEnd s 0

/-- Every byte of pan `n` becomes zero, with valid check bits; L1 copies of its lines go. -/
def zeroPan (s : State) (n : SpindleId) : State :=
  let inside (k : Nat) : Bool := decide (panAddr n 0 ≤ k ∧ k < panAddr n 0 + Config.panBytes)
  let s := { s with mem := SMap.clear s.mem inside, marks := SMap.clear s.marks inside, errs := SMap.clear s.errs inside }
  let mine (line : Nat) : Bool := inside (64 * line)
  allSpindles.foldl (fun z m => z.updSpin m (fun x =>
    let drop (c : Cache) : Cache := c.lines.foldl (fun a e => match e.2 with
      | some l => if mine (l.tag * 256 + e.1 / 4) then a.drop e.1 else a
      | none => a) c
    { x with l1d := drop x.l1d, l1i := drop x.l1i })) s

/-- UNFENCE_SPINDLE begins its self-test. -/
def unfenceGo (s : State) (n : Nat) : State :=
  if 11 < n then repairEnd s 4
  else if !spindleFenced s (spindleNo n) then repairEnd s 2
  else s.setFlag R.MC_REPCMD F.MC_REPCMD_BUSY true

/-- STAGE_FW: the image at REPADDR is verified, and its write to the slot begins. DESIGN CHOICE: assumption 96. -/
def stageGo (s : State) (slot : Nat) : State :=
  if 1 < slot then repairEnd s 4
  else if s.fld R.MC_FWSTAT F.MC_FWSTAT_RUNSLOT = slot then repairEnd s 2
  else
    let a := s.fld R.MC_REPADDR F.MC_REPADDR_ADDR
    let room := Config.hbmBytes - a
    let (s, hd) := memRead s .mc 0 a (min 512 room)
    let len := min (bytesAt (hd.map (·.1)) 0x018 8) 0x400000
    let (s, bs) := memRead s .mc 0 (a + 512) (min len (room - 512))
    let img := (hd ++ bs).map (·.1)
    if a + 512 > Config.hbmBytes ∨ (hd ++ bs).any (·.2) ∨ anySealed s a (512 + len) then repairEnd s 5
    else match verifyImage s 1 img with
      | .auth => repairEnd s 5
      | .rollback => repairEnd s 6
      | .ok _ =>
        let s := noteSlot s slot .auth
        let s := { s with flash := { s.flash with img := s.flash.img.set! slot img } }
        s.setFlag R.MC_REPCMD F.MC_REPCMD_BUSY true

/-- CLEARLOG. -/
def clearGo (s : State) : State :=
  if allStacks.all (fun k => decide (s.fld (R.MEM_STAT k) F.MEM_STAT_STATE = 0)) then repairEnd (s.setLog []) 0 else repairEnd s 2

/-- A write of REPCMD with GO, whose other fields have been written; a reserved OP does nothing. DESIGN CHOICE: assumption 95. -/
def repairGo (s : State) : State :=
  if !mcUp s then s
  else
    let arg := s.fld R.MC_REPCMD F.MC_REPCMD_ARG
    match s.fld R.MC_REPCMD F.MC_REPCMD_OP with
    | 1 => fenceGo s arg (s.flag R.MC_REPCMD F.MC_REPCMD_SCOPE) (s.flag R.MC_REPCMD F.MC_REPCMD_PERSIST)
    | 2 => unfenceGo s arg
    | 3 => stageGo s arg
    | 4 => clearGo s
    | _ => s

/-- The command of a write that names operation, argument and options. -/
def repairCommand (s : State) (op arg : Nat) (scope persist : Bool) : State :=
  if repairBusy s then s
  else
    let s := ((s.setFld R.MC_REPCMD F.MC_REPCMD_OP op).setFld R.MC_REPCMD F.MC_REPCMD_ARG arg).setFlag R.MC_REPCMD F.MC_REPCMD_SCOPE scope
    repairGo (s.setFlag R.MC_REPCMD F.MC_REPCMD_PERSIST persist)

/-- The log entry of a Spindle fence goes. -/
def dropFenceLog (l : List LogEntry) (n : Nat) : List LogEntry :=
  l.filter (fun e => match e with | .spindle m _ => decide (m ≠ n) | _ => true)

/-- The self-test of UNFENCE_SPINDLE, or the flash write of STAGE_FW, is over. -/
def repairDone (s : State) (ok : Bool) : State :=
  if !repairBusy s || !mcUp s then s
  else
    let arg := s.fld R.MC_REPCMD F.MC_REPCMD_ARG
    if s.fld R.MC_REPCMD F.MC_REPCMD_OP = 2 then
      if !ok then repairEnd s 8
      else
        let s := if panOut s (spindleNo arg) then zeroPan s (spindleNo arg) else s
        let s := s.setReg R.MC_FENCED (setBit (setBit (s.reg R.MC_FENCED) arg false) (16 + arg) false)
        repairEnd (s.setLog (dropFenceLog s.flash.log arg)) 0
    else if s.fld R.MC_REPCMD F.MC_REPCMD_OP = 3 then repairEnd (noteSlot s arg (slotImage s arg)) 0
    else repairEnd s 0

/-! ### Records (R577–R579) -/

/-- WINDOW µs after entry `e` opened. DEDUCED: assumption 99. -/
def windowExpires (s : State) (e : Nat) : State :=
  match mergeAt s e with
  | none => s
  | some m =>
    if m.delivered then s
    else
      let s := elapseTo s (m.opened + BitVec.ofNat 64 (s.fld R.MC_FMCFG F.MC_FMCFG_WINDOW * 1000))
      if m.cls = 0 ∧ s.fld R.MC_ERRCFG F.MC_ERRCFG_CETHRESH = 0 then s else deliverEntry s e

/-- The record of entry `e` has been written, not merely formed. -/
def recordOut (s : State) (e : Nat) : Bool := !s.mc.waiting.any (fun r => decide (r.entry = e) && !r.unmerged)

/-- A write of MC.FMFREE; one that names an entry that holds no fault is ignored like one whose record is pending. DESIGN CHOICE:
assumption 130. -/
def freeMerge (s : State) (e : Nat) : State :=
  match mergeAt s e with
  | some m => if m.delivered && recordOut s e then setMerge s e none else s.setFlag R.MC_FMSTAT F.MC_FMSTAT_FREEERR true
  | none => s.setFlag R.MC_FMSTAT F.MC_FMSTAT_FREEERR true

/-- A write of MC.ERRHEAD (R383, R579); the MC writes what waits once it runs. -/
def writeErrHead (s : State) (v : Nat) : State :=
  let adv := (v + 2 ^ 32 - s.fld R.MC_ERRHEAD F.MC_ERRHEAD_INDEX) % 2 ^ 32
  if errUsed s < adv then s.setFlag R.MC_FMSTAT F.MC_FMSTAT_HEADERR true
  else
    let s := s.setFld R.MC_ERRHEAD F.MC_ERRHEAD_INDEX v
    if mcUp s then drainRecords s else s

/-! ### MC restarts and firmware swaps (R580, R588, R589) -/

/-- A mailbox command in progress ends with ABORTED. -/
def boxAbort (s : State) : State :=
  if s.box.active then
    let s := (s.setFld R.MBOX_DONE F.MBOX_DONE_SEQ s.box.seq.toNat).setFld R.MBOX_DONE F.MBOX_DONE_STATUS 9
    mboxEvent { s with box := {} } 0
  else s

/-- The MC stops; its firmware is to start again. -/
def mcStops (s : State) : State := boxReset ((boxAbort s).updMc (fun m => { m with running := false }))

/-- 100 ms without a kick. -/
def watchdogFires (s : State) : State :=
  if !mcUp s then s
  else
    let s := elapseTo s (s.mc.kickAt + 100000000)
    (mcStops s).updMc (fun m => { m with watchdog := true, kickAt := s.now })

/-- The swap of an applied commit group begins (R588). -/
def beginSwap (s : State) : State :=
  if s.flag R.MC_FWSWAP F.MC_FWSWAP_REQ then
    (mcStops s).updMc (fun m => { m with swapTo := some (s.fld R.MC_FWSWAP F.MC_FWSWAP_SLOT), kickAt := s.now })
  else s

/-- The MC runs again: in READY, or where the device had not come so far, in SELFTEST or WAIT_IMAGE. Its registers keep their values.
DESIGN CHOICE: assumption 130. -/
def mcRuns (s : State) : State :=
  drainRecords (boxState (s.updMc (fun m => { m with running := true, swapTo := none, watchdog := false, kickAt := s.now }))
    (if s.sec.fw.isNone then 1 else if s.selfTested then 3 else 2))

/-- The boot ROM starts the running image again: a flash slot's must pass verification once more (R580). DESIGN CHOICE: assumption 130. -/
def restartOk (s : State) : Bool :=
  decide (2 ≤ s.fld R.MBOX_STATE F.MBOX_STATE_BOOTSRC) ||
    (match slotImage s (s.fld R.MC_FWSTAT F.MC_FWSTAT_RUNSLOT) with | .ok _ => true | _ => false)

/-- The previous slot starts with the handover block. DESIGN CHOICE: assumption 97. -/
def swapFails (s : State) : State :=
  if s.mc.swapTo.isNone then s
  else
    mcRuns ((s.setFlag R.MC_FWSTAT F.MC_FWSTAT_FALLBACK true).setFlag R.MC_FWSWAP F.MC_FWSWAP_REQ false)

/-- The started firmware is ready. -/
def firmwareReady (s : State) : State :=
  if s.dead then s
  else match s.mc.swapTo with
    | some k =>
      match slotImage s k with
      | .ok i =>
        let s := (s.setFld R.MC_FWSTAT F.MC_FWSTAT_RUNSLOT k).setFlag R.MC_FWSWAP F.MC_FWSWAP_REQ false
        let s := { s.bump R.MC_SWAPS 1 with sec := { s.sec with fw := some i } }
        mcRuns (s.setFld R.SEC_STAT F.SEC_STAT_BOOTKEY i.key)
      | _ => swapFails s
    | none =>
      if !s.mc.watchdog || !restartOk s then s
      else
        let slot := s.fld R.MC_FWSTAT F.MC_FWSTAT_RUNSLOT
        report (mcRuns s) UKind.MC 0 0x13 (BitVec.ofNat 64 slot)

/-! ### The stop of the device (R570, R571) -/

/-- Every Sluice descriptor that `p` names ends with ABORTED. -/
def abortSluice (s : State) (p : State → EngineId → QueueId → Bool) : State :=
  allSlq.foldl (fun z (e, q) =>
    match (z.slq e q).desc with
    | some d =>
      if !p z e q then z
      else if qState z e q = QS.WAIT_TAG then edoneAfter (setActive (queueIdle (leaveDesc z e q) e q) e q false) e
      else endDesc z e q ST.ABORTED (if d.op = 1 then some ((z.slq e q).off, (z.slq e q).run) else none)
    | none => z) s

/-- A Fatal error of kind WEFT or MC (R571): `src` is FSRC. The report of the error is handed to the MC last. DESIGN CHOICE: assumption 100. -/
def deviceStop (s : State) (src kind code : Nat) (detail : Word) : State :=
  if s.fatal then s
  else
    let old := s
    let s := (s.setFlag R.MC_ERRSTAT F.MC_ERRSTAT_FATAL true).setFld R.MC_ERRSTAT F.MC_ERRSTAT_FSRC src
    let s := alertAfter old (mcEvent s 1)
    let s := runOff s
    let s := allThr.foldl haltThread s
    let s := abortSluice s (fun _ _ _ => true)
    let s := flushLinks (allSlots.foldl reelStop s)
    let s := (List.finRange 16).foldl disablePort s
    report (s.emit (.aer true)) kind 0 code detail

/-- A weft packet fails `retries` times in a row before it is delivered, or for good after 16. -/
def weftFails (s : State) (link retries : Nat) : State :=
  if s.stopped || decide (retries = 0) then s
  else if retries < 16 then report s UKind.WEFT 0 0x10 (BitVec.ofNat 64 link)
  else deviceStop s 1 UKind.WEFT 0x11 (BitVec.ofNat 64 link)

end Sys2Proof.Machine
end

