-- ==== Sys2Proof/Machine/Seal.lean ====
section
/-! DEFINITION. The Sealed world (R553–R559, R566, R567): its regions and pans, loading, teardown, keys, counters; attestation
(R562–R564) and debug unlocking (R565). -/

namespace Sys2Proof.Machine
open Sys2Proof

def sealedState (s : State) : Nat := s.fld R.SEC_STAT F.SEC_STAT_SEALED
def setSealed (s : State) (v : Nat) : State := s.setFld R.SEC_STAT F.SEC_STAT_SEALED v

/-- The agent may write control space at all (R105): a thread needs supervisor level. DESIGN CHOICE: assumption 101. -/
def mayCtl (s : State) (a : Agent) : Bool := match a with | .thread t => (s.thr t).level | .host | .mc => true

/-- SEC.CMD ends with a result (R567). -/
def secEnd (s : State) (r : Nat) : State := (s.setFld R.SEC_CMD F.SEC_CMD_RESULT r).setFlag R.SEC_CMD F.SEC_CMD_BUSY false

/-- The fields of a write of SEC.CMD. -/
def secFields (s : State) (op arg : Nat) : State := (s.setFld R.SEC_CMD F.SEC_CMD_OP op).setFld R.SEC_CMD F.SEC_CMD_ARG arg

/-! ### Regions and pans (R555) -/

def regionBase (w : Word) : Nat := getF w F.SEC_SREGION_BASE * 0x200000
def regionLimit (w : Word) : Nat := getF w F.SEC_SREGION_LIMIT * 0x200000

/-- Entry `i` as staged obeys the rules of R555 beside the other applied regions. -/
def regionOk (s : State) (i : Nat) : Bool :=
  let w := s.reg (R.SEC_SREGION i)
  decide (regionBase w < regionLimit w) && decide (regionLimit w ≤ Config.hbmBytes) &&
    (List.range 8).all (fun j => decide (j = i) || decide (getF (s.sregion j) F.SEC_SREGION_EN = 0) ||
      decide (regionLimit w ≤ regionBase (s.sregion j)) || decide (regionLimit (s.sregion j) ≤ regionBase w))

def setRegions (s : State) (i : Nat) (w : Word) (key : Nat) : State :=
  { s with sec := { s.sec with regions := s.sec.regions.set! i w, regKey := s.sec.regKey.set! i key } }

/-- Entry `i` is applied; an encrypted region draws a new key (R556). -/
def applyRegion (s : State) (i : Nat) : State :=
  let w := putF (s.reg (R.SEC_SREGION i)) F.SEC_SREGION_EN 1
  let s := s.setReg (R.SEC_SREGION i) w
  if getF w F.SEC_SREGION_ENC ≠ 0 then
    let n := s.sec.draws + 1
    { setRegions s i w n with sec := { (setRegions s i w n).sec with draws := n } }
  else setRegions s i w 0

/-- Zero over [a, a + n), a multiple of 64 bytes. DESIGN CHOICE: assumption 105. -/
def zeroArea (s : State) (a n : Nat) : State :=
  (List.range (n / 64)).foldl (fun z i => memWrite z .mc (a + 64 * i) (List.replicate 64 0)) s

/-- Region `i` leaves the Sealed world, its key is destroyed, and its memory holds zero. DESIGN CHOICE: assumption 105. -/
def dropRegion (s : State) (i : Nat) : State :=
  let w := s.sregion i
  let s := s.setReg (R.SEC_SREGION i) (putF (s.reg (R.SEC_SREGION i)) F.SEC_SREGION_EN 0)
  zeroArea (setRegions s i 0 0) (regionBase w) (regionLimit w - regionBase w)

def doAddRegion (s : State) (a : Agent) (i : Nat) : State :=
  if !mcUp s || !mayCtl s a then s
  else
    let s := secFields s 3 i
    if !sealedSup s a then secEnd s 6
    else if 7 < i ∨ !regionOk s i then secEnd s 5
    else secEnd (applyRegion s i) 0

/-- DEDUCED: assumption 103. -/
def doRemoveRegion (s : State) (a : Agent) (i : Nat) : State :=
  if !mcUp s || !mayCtl s a then s
  else
    let s := secFields s 4 i
    if !sealedSup s a then secEnd s 6
    else if 7 < i ∨ getF (s.sregion i) F.SEC_SREGION_EN = 0 then secEnd s 5
    else secEnd (dropRegion s i) 0

def setPan (s : State) (n : Nat) (b : Bool) : State := s.setReg R.SEC_SPAN (setBit (s.reg R.SEC_SPAN) n b)

def doAddPan (s : State) (a : Agent) (n : Nat) : State :=
  if !mcUp s || !mayCtl s a then s
  else
    let s := secFields s 6 n
    if !sealedSup s a then secEnd s 6
    else if 11 < n then secEnd s 5
    else secEnd (setPan s n true) 0

/-- DEDUCED: assumption 103. -/
def doRemovePan (s : State) (a : Agent) (n : Nat) : State :=
  if !mcUp s || !mayCtl s a then s
  else
    let s := secFields s 7 n
    if !sealedSup s a then secEnd s 6
    else if 11 < n ∨ !bit (s.reg R.SEC_SPAN) n then secEnd s 5
    else secEnd (setPan (zeroPan s (spindleNo n)) n false) 0

/-! ### Counters (R549, R552, R567) -/

def setCtr (s : State) (i v : Nat) : State :=
  ({ s with flash := { s.flash with arctr := s.flash.arctr.set! i v } }).setFld (R.SEC_ARCTR i) F.SEC_ARCTR_VALUE v

/-- DEDUCED: assumption 102. -/
def doAdvance (s : State) (a : Agent) (i : Nat) : State :=
  if !mcUp s || !mayCtl s a then s
  else
    let s := secFields s 5 i
    if 1 < i ∧ !sealedSup s a then secEnd s 6
    else if 63 < i then secEnd s 5
    else
      let v := if i = 0 then s.sec.fw.map (·.svn) else if i = 1 then s.sec.sealedImg.map (·.svn) else some ((s.reg R.SEC_CMDADDR).toNat % 128)
      match v with
      | none => secEnd s 4
      | some n => if n < s.flash.arctr.toList.getD i 0 ∨ 64 < n then secEnd s 5 else secEnd (setCtr s i n) 0

/-! ### Teardown (R566) -/

/-- A Sealed-owned tile is released, at once or when its queued work has completed. -/
def releaseSealed (s : State) (n : SpindleId) : State :=
  (List.finRange 4).foldl (fun z j =>
    match (z.tile n j).owner with
    | some (_, true) => settleRelease (z.updTile n j (fun t => { t with releasing := true })) n j
    | _ => z) s

/-- Transfer and fabric keys with their VALID bits and sequences go (R554, R566). -/
def dropKeys (s : State) : State :=
  let s := (List.range 16).foldl (fun z k =>
    let z := (List.range 4).foldl (fun y j => y.setReg (R.SEC_TKEY_KEY k j) 0) z
    ((z.setReg (R.SEC_TKEY_CTL k) 0).setReg (R.SEC_TKEY_TXSEQ k) 0).setReg (R.SEC_TKEY_RXSEQ k) 0) s
  (List.range 2).foldl (fun z k => ((List.range 4).foldl (fun y j => y.setReg (R.SEC_FKEY_KEY k j) 0) z).setReg (R.SEC_FKEY_CTL k) 0) s

/-- The Sealed bank of a thread at its reset values. DESIGN CHOICE: assumption 104. -/
def resetBankS (x : Thread) : Thread :=
  { x with bankS := [(CR.FCSR, 0x100000)], pendS := [], suspended := none, matErr := x.matErr.filter (fun e => !e.1), refused := x.refused }

def doTeardown (s : State) : State :=
  let s := setSealed s 3
  let s := allThr.foldl (fun z t => if (z.thr t).world then haltThread z t else z) s
  let s := abortSluice s (fun z e q => qWorld z e q)
  let s := allSlots.foldl (fun z i => if slotWorld z i then reelStop z i else z) s
  let s := allSpindles.foldl releaseSealed s
  let s := allSpindles.foldl (fun z n => if bit (z.reg R.SEC_SPAN) n.val then setPan (zeroPan z n) n.val false else z) s
  let s := (List.range 8).foldl (fun z i => if getF (z.sregion i) F.SEC_SREGION_EN ≠ 0 then dropRegion z i else z) s
  let s := dropKeys s
  let s := allThr.foldl (fun z t => z.updThr t (fun x =>
    let y := resetBankS x
    if y.run = .halted then { y with world := false } else y)) s
  setSealed { s with sec := { s.sec with sealedImg := none } } 0

/-- DESIGN CHOICE: assumption 104. -/
def secTeardown (s : State) (a : Agent) : State :=
  if !mcUp s || !mayCtl s a then s
  else
    let s := s.setFld R.SEC_CMD F.SEC_CMD_OP 2
    if sealedState s ≠ 2 then secEnd s 4 else secEnd (doTeardown s) 0

/-! ### LOAD_SEALED (R553) -/

def debugOpen (s : State) : Bool := s.flag R.SEC_STAT F.SEC_STAT_DEBUG || decide (s.flash.lifecycle ≠ 1)

/-- Steps 3 to 7, for a verified image with header `h` and body. -/
def startSealed (s : State) (h body : List Byte) (i : Image) (t : Thr) : State :=
  let load := bytesAt h 0x010 8
  let region := bytesAt h 0x028 8
  let s := s.setReg (R.SEC_SREGION 0) (BitVec.ofNat 64 (2 + load / 0x200000 * 2 ^ 2 + (load + region) / 0x200000 * 2 ^ 22))
  if load % 0x200000 ≠ 0 ∨ Config.hbmBytes < load + region ∨ !regionOk s 0 then secEnd (s.setReg (R.SEC_SREGION 0) 0) 5
  else
    let s := applyRegion (setSealed s 1) 0
    let s := memWrite (zeroArea s load region) .mc load body
    let gtb := BitVec.ofNat 64 (bytesAt h 0x030 8)
    let tsb := bytesAt h 0x038 8
    let s := allThr.foldl (fun z u => z.updThr u (fun x =>
      let word (n : Nat) (v : Word) : Word := v &&& crMask s x n v
      (resetBankS x).setBank true (SMap.setAll 0 []
        [(CR.FCSR, 0x100000), (CR.GTB, word CR.GTB gtb), (CR.TSBR, word CR.TSBR (BitVec.ofNat 64 (tsb + 512 * u.val)))]))) s
    let s := setSealed { s with sec := { s.sec with sealedImg := some i } } 2
    let s := s.updThr t (fun x =>
      let x := (x.wg 1 (BitVec.ofNat 64 load)).wg 2 (BitVec.ofNat 64 region)
      { x with run := .running, pc := BitVec.ofNat 48 (bytesAt h 0x020 8 / 4 * 4), world := true, level := true, group := none })
    secEnd s 0

/-- LOAD_SEALED (R553). A thread number above 47 or an image outside HBM ends with RANGE or AUTH, a Deferred byte with AUTH. DESIGN CHOICE:
assumption 129. -/
def doLoadSealed (s : State) (a : Agent) (arg : Nat) : State :=
  if !mcUp s || !mayCtl s a then s
  else
    let s := secFields s 1 arg
    if sealedState s ≠ 0 then secEnd s 4
    else if debugOpen s then secEnd s 7
    else if 47 < arg then secEnd s 5
    else
      let t := thrNo arg
      if (s.thr t).run ≠ .halted ∨ (s.thr t).world then secEnd s 1
      else
        let p := (s.reg R.SEC_CMDADDR).toNat
        if Config.hbmBytes < p + 512 then secEnd s 5
        else
          let (s, hd) := memRead s .mc 0 p 512
          let h := hd.map (·.1)
          let len := bytesAt h 0x018 8
          if Config.hbmBytes < p + 512 + len then secEnd s 2
          else
            let (s, bs) := memRead s .mc 0 (p + 512) len
            if (hd ++ bs).any (·.2) then secEnd s 2
            else match verifyImage s 2 (h ++ bs.map (·.1)) with
              | .auth => secEnd s 2
              | .rollback => secEnd s 3
              | .ok i => startSealed s h (bs.map (·.1)) i t

/-- A write of SEC.CMD with GO by agent `a`: the operation that OP names. DESIGN CHOICE: assumption 95. -/
def secGo (s : State) (a : Agent) : State :=
  let arg := s.fld R.SEC_CMD F.SEC_CMD_ARG
  match s.fld R.SEC_CMD F.SEC_CMD_OP with
  | 1 => doLoadSealed s a arg
  | 2 => secTeardown s a
  | 3 => doAddRegion s a arg
  | 4 => doRemoveRegion s a arg
  | 5 => doAdvance s a arg
  | 6 => doAddPan s a arg
  | 7 => doRemovePan s a arg
  | _ => s

/-! ### Keys (R559, R564) -/

/-- A word of a transfer key: both sequences clear. -/
def setTkeyWord (s : State) (k i : Nat) (v : Word) : State :=
  ((s.setReg (R.SEC_TKEY_KEY k i) v).setReg (R.SEC_TKEY_TXSEQ k) 0).setReg (R.SEC_TKEY_RXSEQ k) 0

def writeTkey (s : State) (a : Agent) (k i : Nat) (v : Word) : State := if !sealedSup s a then s else setTkeyWord s k i v

def keyWord (key : BitVec 256) (i : Nat) : Word := (key >>> (64 * i)).truncate 64

/-- A key arrives in an SPDM secure session. DESIGN CHOICE: assumption 106. -/
def keysOpen (s : State) (session : Option (BitVec 32)) : Bool :=
  session.isSome && decide (sealedState s = 2) && s.flag R.SEC_FCTL F.SEC_FCTL_EXTKEY && mcUp s

/-- The measurements (R563). -/
def measurements (s : State) : List (BitVec 512) :=
  [Config.romDigest, (s.sec.fw.map (·.digest)).getD 0, Config.measure 3 s.flash.arctr.toList, (s.sec.sealedImg.map (·.digest)).getD 0,
   Config.measure 5 [s.flash.lifecycle.toNat, s.flash.revoked.toNat, s.fld R.GCTL_STRAPS F.GCTL_STRAPS_COMPAT, s.fld R.GCTL_STRAPS F.GCTL_STRAPS_BOOT_SEL],
   Config.measure 6 [s.fld R.SEC_STAT F.SEC_STAT_DEBUG]]

/-- The responder answers a request. DESIGN CHOICE: assumption 106. -/
def answerSpdm (s : State) (session : Option (BitVec 32)) (req : List Byte) : State :=
  let s := s.emit (.spdm session (Config.spdmAnswer s.sec.answers (measurements s) req))
  { s with sec := { s.sec with answers := s.sec.answers + 1 } }

/-- The payload of R564. -/
def keyPayload (op : Nat) (slot : Byte) (fixed : BitVec 32) (key : BitVec 256) : List Byte :=
  [BitVec.ofNat 8 op, slot] ++ leBytes 4 fixed.toNat ++ leBytes 32 key.toNat

def doSetTkey (s : State) (session : Option (BitVec 32)) (slot : Byte) (fixed : BitVec 32) (key : BitVec 256) : State :=
  let s := if keysOpen s session && decide (slot.toNat < 16) then
      let k := slot.toNat
      let s := (List.range 4).foldl (fun z i => setTkeyWord z k i (keyWord key i)) s
      (s.setFld (R.SEC_TKEY_CTL k) F.SEC_TKEY_CTL_FIXED fixed.toNat).setFlag (R.SEC_TKEY_CTL k) F.SEC_TKEY_CTL_VALID true
    else s
  if mcUp s then answerSpdm s session (keyPayload 1 slot fixed key) else s

def doSetFkey (s : State) (session : Option (BitVec 32)) (slot : Byte) (fixed : BitVec 32) (key : BitVec 256) : State :=
  let s := if keysOpen s session && decide (slot.toNat < 2) then
      let k := slot.toNat
      ((List.range 4).foldl (fun z i => z.setReg (R.SEC_FKEY_KEY k i) (keyWord key i)) s).setFlag (R.SEC_FKEY_CTL k) F.SEC_FKEY_CTL_VALID true
    else s
  if mcUp s then answerSpdm s session (keyPayload 2 slot fixed key) else s

/-! ### Debug (R565) -/

/-- SEC.IDHASH: word 0 holds the first 8 bytes of the digest (R567). -/
def idhashBytes : List Byte := leBytes 64 Config.fuseIdHash.toNat

/-- The debugger answers the challenge. Where debug is open without a signature, SEC.STAT.DEBUG does not show it. DESIGN CHOICE:
assumption 129. -/
def doDebugUnlock (s : State) (pub r sg : List Byte) : State :=
  if !mcUp s then s
  else
    let c := Config.challenge s.sec.challenges
    let s := { s with sec := { s.sec with challenges := s.sec.challenges + 1 } }
    if s.flash.lifecycle ≠ 1 then s
    else if Config.sha512 pub = Config.fuseDbgKey && Config.ecdsaVerify pub (Config.sha512 (c ++ idhashBytes)) r sg then
      (if sealedState s = 2 then doTeardown s else s).setFlag R.SEC_STAT F.SEC_STAT_DEBUG true
    else s

end Sys2Proof.Machine
end

