-- ==== Sys2Proof/Machine/Settle.lean ====
section
/-! DEFINITION. What the device does with what a command has set in motion: messages that have reached it (R441–R445, R456,
R561), reports that wait for the MC (R574–R576), and descriptors that translation has refused (R380). -/

namespace Sys2Proof.Machine
open Sys2Proof

/-- A reply to a request of this device (R445, R575): an ACK answers a PUT, GETDATA a GET, a NACK either. -/
def onReply (s : State) (m : Msg) : State :=
  let nacked := decide (m.kind = 5)
  let s := if nacked then s.bump R.GCTL_NACKRX 1 else s
  match takeReq s m.xid with
  | (s, none) => s
  | (s, some r) =>
    match r.owner with
    | .collector rep => if nacked then mergeReport s rep else s
    | .sluice e q =>
      if nacked then reqFailed s e q r.xid
      else if m.kind = 4 then (if flies s e q r.xid then putAcked s e q r.xid else s)
      else if awaits s e q r.xid then getAnswered s e q m
      else s

/-- No reply within MSGTO µs of the sending (R445, R575). -/
def requestTimeout (s : State) (xid : BitVec 32) : State :=
  match takeReq s xid with
  | (s, none) => s
  | (s, some r) =>
    let s := elapseTo s (r.sentAt + BitVec.ofNat 64 (1000 * s.fld R.GCTL_FABCFG F.GCTL_FABCFG_MSGTO))
    let s := s.bump R.GCTL_MSGTOUT 1
    match r.owner with
    | .collector rep => mergeReport s rep
    | .sluice e q => reqFailed s e q r.xid

/-- A message that is not a PUT or GET, at its destination: discarded unless it authenticates and R456 accepts it. -/
def onOther (s : State) (m : Msg) : State :=
  match openMsg s m with
  | (s, none) => s
  | (s, some m) =>
    if !epochOk s m then s
    else if m.kind = 6 then reelMessage s m
    else onReply s m

/-- A message that has reached this device on lane `vl`. -/
def onMessage (s : State) (m : Msg) (vl : Nat) : State :=
  if m.dst ≠ s.devId then forwardMsg s m vl
  else if m.kind = 1 then onPut s m
  else if m.kind = 2 then onGet s m
  else if 3 ≤ m.kind.toNat ∧ m.kind.toNat ≤ 6 then onOther s m
  else s

/-- The collector's MC takes the reports from its channel (R575). DESIGN CHOICE: assumption 98. -/
def collects (s : State) : Option (BitVec 16) :=
  let cfg := s.reg R.MC_FMCFG
  let c := BitVec.ofNat 16 (getF cfg F.MC_FMCFG_CHAN)
  if mcUp s && decide (getF cfg F.MC_FMCFG_COLL_EN ≠ 0) && decide (getF cfg F.MC_FMCFG_COLLECTOR = s.devId.toNat) then
    match chanOf s c with
    | some x => if x.used = 0 then none else some c
    | none => none
  else none

/-- DESIGN CHOICE: assumption 11. -/
def settleFuel : Nat → State → State
  | 0, s => s
  | n + 1, s =>
    match readyTake s with
    | some (c, e, q, k) => settleFuel n (serveTake s c e q k)
    | none =>
    match s.fab.inbox with
    | (m, vl) :: rest => settleFuel n (onMessage (s.updFab (fun f => { f with inbox := rest })) m vl)
    | [] =>
      match (if mcUp s then s.mc.fifo else []) with
      | r :: rest => settleFuel n (placeReport (s.updMc (fun x => { x with fifo := rest })) r)
      | [] =>
        match collects s with
        | some c =>
          match takeHead s c with
          | (s, some k) => settleFuel n (mergeReport s (reportOfBytes (k.data.map (·.1))))
          | (s, none) => s
        | none => s

/-- Messages that wait leave by the routes and credits that there now are. -/
def pumpWaiting (s : State) : State := if s.fab.waiting.isEmpty then s else pump s

/-- What follows a command at once. DESIGN CHOICE: assumption 11. -/
def settle (s : State) : State :=
  flushLinks (settleFuel 65536 (endRefused (pumpWaiting (checkTurns (reelResume (drainQueues (releaseGranules s)))))))

/-- The outcome of a command whose own effect leaves `s`. -/
def done (s : State) : Host.Outcome State Fault Refusal := .next (settle s)

/-- A command that the stopped clocks, or the missing power, leave without effect (R571, R603, R624). DESIGN CHOICE: assumption 13. -/
def running (s : State) (f : State → State) : Host.Outcome State Fault Refusal := if s.stopped then .next s else done (f s)

/-- A command that reaches the blocks of R571 in a stopped device, but not one without power. DESIGN CHOICE: assumption 13. -/
def powered (s : State) (f : State → State) : Host.Outcome State Fault Refusal := if s.dead then .next s else done (f s)

end Sys2Proof.Machine
end

