-- ==== Sys2Proof/Machine/Boot.lean ====
section
/-! DEFINITION. Power, PERST_L and the start of the device (R11, R338, R532–R534, R582, R617–R624), and the endpoint's
configuration (R12, R523–R527, R531). -/

namespace Sys2Proof.Machine
open Sys2Proof

/-! ### What PERST_L and power-up leave (R11, R338, R344, R556, R621) -/

/-- The straps as sampled, with the Level 1 that COMPAT selects (R12, R617). -/
def strapRegs (straps : Word) (s : State) : State :=
  let c := boolNat (decide (getF straps F.GCTL_STRAPS_COMPAT ≠ 0))
  (s.setReg R.GCTL_STRAPS straps).setReg R.GCTL_COMPAT (BitVec.ofNat 64 (3 * c))

/-- The registers whose Notes name another reset event than PERST_L keep their values over it: BOOTINFO.WARMCNT goes at a cold start
(R11, R623). -/
def keptRegs (old : State) (keep : Bool) (s : State) : State :=
  if keep then s.setFld R.GCTL_BOOTINFO F.GCTL_BOOTINFO_WARMCNT (old.fld R.GCTL_BOOTINFO F.GCTL_BOOTINFO_WARMCNT) else s

/-- The device with every register at its reset value. HBM keeps its bytes if `keep`; flash, the fuses and the model's own
counters stay. Region keys are gone, so that what was stored under them stays ciphertext. DESIGN CHOICE: assumption 61. -/
def resetAll (s : State) (keep : Bool) (straps : Word) : State :=
  let hbm (k : Nat) : Bool := keep && decide (k < Config.hbmBytes)
  keptRegs s keep <| strapRegs straps
    { State.reset with
      pending := s.pending
      mem := s.mem.filter (fun e => hbm e.1)
      marks := s.marks.filter (fun e => hbm e.1)
      errs := s.errs.filter (fun e => hbm e.1)
      hbm := if keep then s.hbm.map (fun x => { scrambled := x.scrambled, rewritten := x.rewritten }) else State.reset.hbm
      host := { nextTag := s.host.nextTag }
      power := { tripped := s.power.tripped, powered := s.power.powered, perst := s.power.perst }
      flash := s.flash
      sec := { draws := s.sec.draws, enc := if keep then s.sec.enc else [], answers := s.sec.answers, challenges := s.sec.challenges }
      boot := s.boot
      out := s.out
      free := s.free }

/-! ### The boot ROM (R532, R552, R620) -/

/-- The firmware `i` starts: flash slot 0 or 1, or 2 for an image from the host. -/
def startFirmware (s : State) (src : Nat) (i : Image) : State :=
  let s := if src < 2 then s.setFld R.MC_FWSTAT F.MC_FWSTAT_RUNSLOT src else s
  let s := { s with sec := { s.sec with fw := some i } }
  let s := (s.setFld R.SEC_STAT F.SEC_STAT_BOOTKEY i.key).setFld R.MBOX_STATE F.MBOX_STATE_BOOTSRC src
  boxState (s.updMc (fun m => { m with running := true, kickAt := s.now })) 2

/-- No usable image: the MC waits for the host. -/
def waitImage (s : State) : State :=
  boxState ((s.setFld R.MBOX_STATE F.MBOX_STATE_BOOTSRC 2).updMc (fun m => { m with running := true, kickAt := s.now })) 1

/-- The MC starts from its boot ROM, once PWRGD is high and PERST_L deasserted. DESIGN CHOICE: assumption 90. -/
def mcStart (s : State) : State :=
  if s.dead || s.power.perst || s.boot.started then s
  else
    let w := s.boot.warm
    let s := { s with boot := { s.boot with started := true, warmCount := if w then min 65535 (s.boot.warmCount + 1) else 0 } }
    let s := s.setFld R.MC_REPLOG F.MC_REPLOG_USED s.flash.log.length
    let s := (s.setFld R.THERM_STAT F.THERM_STAT_LASTTRIP s.flash.trip.1).setFld R.THERM_STAT F.THERM_STAT_TRIPIDX s.flash.trip.2
    let a := slotImage s 0
    let b := slotImage s 1
    let s := noteSlot (noteSlot s 0 a) 1 b
    let sel := s.fld R.GCTL_STRAPS F.GCTL_STRAPS_BOOT_SEL
    let s := if sel = 3 then s.setFlag R.MBOX_STATE F.MBOX_STATE_STRAPERR true else s
    if sel = 2 then waitImage s
    else
      match (if sel = 1 then b else a), (if sel = 1 then a else b) with
      | .ok i, _ => startFirmware s (if sel = 1 then 1 else 0) i
      | _, .ok i => startFirmware s (if sel = 1 then 0 else 1) i
      | _, _ => waitImage s

/-! ### Pins (R617, R620, R624) -/

/-- PWRGD rises: the straps are sampled and everything starts from reset, cold. -/
def pwrgdRises (s : State) (compat : Bool) (sel : Nat) : State :=
  if s.power.powered then s
  else
    let s := { s with power := { s.power with powered := true }, boot := {} }
    mcStart (resetAll s false (BitVec.ofNat 64 (sel + 4 * boolNat compat)))

/-- PWRGD falls: every clock stops, ALERT_L goes to high impedance with the other outputs, and THERMTRIP_L is released (R624). -/
def pwrgdFalls (s : State) : State :=
  if !s.power.powered then s
  else
    let s := if alertOn s then s.emit (.pin .alert true) else s
    let s := if s.power.tripped then s.emit (.pin .thermtrip true) else s
    { s with power := { s.power with powered := false, tripped := false } }

/-- PERST_L asserts: the next start is warm if one has taken place since PWRGD rose. DESIGN CHOICE: assumption 91. -/
def perstAsserts (s : State) : State :=
  if s.power.perst then s
  else if s.dead then { s with power := { s.power with perst := true } }
  else
    let z := { s with power := { s.power with perst := true }, boot := { s.boot with warm := s.boot.warm || s.boot.started, started := false } }
    alertAfter s (resetAll z true (s.reg R.GCTL_STRAPS))

def putImage (s : State) (k : Nat) (img : List Byte) : State :=
  if img = [] then s else { s with flash := { s.flash with img := s.flash.img.set! k img } }

/-- DESIGN CHOICE: assumption 90. -/
def perstDeasserts (s : State) (a b : List Byte) : State :=
  if !s.power.perst then s
  else mcStart (putImage (putImage { s with power := { s.power with perst := false } } 0 a) 1 b)

/-! ### Self-test (R533, R534, R582, R621–R623) -/

/-- The repair log of stack `k` is applied again. -/
def replayEntry (k : StackId) (s : State) (e : LogEntry) : State :=
  match e with
  | .retire st row => if st = k.val then s.updStack k (fun x => { x with retired := x.retired ++ [row] }) else s
  | .spare st p =>
    if st ≠ k.val then s
    else
      let s := ((setSpare s k 2 0).setFld (R.MEM_SPARE k) F.MEM_SPARE_PTR Config.granulesPerPch).setFld (R.MEM_SPARE k) F.MEM_SPARE_SPARED p
      markOut (s.setFlag (R.MEM_SPARE k) F.MEM_SPARE_USED true) k p
  | .pcfence st p => if st = k.val then fencePch s k p else s
  | .spindle _ _ => s

/-- A pseudo-channel that failed is spared, or fenced when the spare is in use (R534). DESIGN CHOICE: assumption 89. -/
def failPch (k : StackId) (s : State) (p : Nat) : State :=
  if pchOut s k p then s
  else if s.flag (R.MEM_SPARE k) F.MEM_SPARE_USED then logRepair (fencePch s k p) (.pcfence k.val p)
  else logRepair (replayEntry k s (.spare k.val p)) (.spare k.val p)

/-- Stack `k` enters SERVICE after its repairs have been replayed (R344), or stays out in FAILED or FENCED. DESIGN CHOICE: assumption 62. -/
def testStack (fails : BitVec 24) (pchs : List (StackId × BitVec 6)) (s : State) (k : StackId) : State :=
  if fails.getLsbD k.val then
    (s.setFld (R.MEM_STAT k) F.MEM_STAT_STATE 3).setFlag R.MC_ERRSTAT ⟨8 + k.val, 8 + k.val⟩ true
  else
    let s := s.flash.log.foldl (replayEntry k) s
    let s := ((pchs.filter (fun e => decide (e.1 = k))).map (fun e => e.2.toNat)).foldl (failPch k) s
    -- a stack that became Critical while it trained is FENCED until R350
    if s.fld (R.MEM_STAT k) F.MEM_STAT_STATE = 0 then s.setFld (R.MEM_STAT k) F.MEM_STAT_STATE 1 else s

/-- A cold start leaves the test pattern, which the spec does not give, in all of HBM. DESIGN CHOICE: assumption 61. -/
def coldHbm (s : State) : State :=
  let off (k : Nat) : Bool := decide (Config.hbmBytes ≤ k)
  let s := { s with mem := s.mem.filter (fun e => off e.1), marks := s.marks.filter (fun e => off e.1), errs := s.errs.filter (fun e => off e.1),
                    sec := { s.sec with enc := [] } }
  allStacks.foldl (fun z k => (List.range 64).foldl (fun y p => scramble y k p) z) s

/-- A warm start reads all of HBM once (R622, R340). -/
def warmHbm (s : State) : State := (errKeys s (fun _ => true)).foldl (fun z k => (checkCodeword z k 3).1) s

/-- The session table, the handler windows and the pans hold nothing of before. DESIGN CHOICE: assumption 61. -/
def emptyStores (s : State) : State :=
  let hbm (k : Nat) : Bool := decide (k < Config.hbmBytes)
  { s with mem := s.mem.filter (fun e => hbm e.1), marks := s.marks.filter (fun e => hbm e.1), errs := s.errs.filter (fun e => hbm e.1) }

def fenceLogged (s : State) (e : LogEntry) : State :=
  match e with
  | .spindle n sc =>
    let s := s.setReg R.MC_FENCED (setBit (s.reg R.MC_FENCED) n true)
    if sc then s.setReg R.MC_FENCED (setBit (s.reg R.MC_FENCED) (16 + n) true) else s
  | _ => s

/-- SELFTEST ends after `ms` ms from the MC's start. DESIGN CHOICE: assumption 89. -/
def selftestEnds (s : State) (fails : BitVec 24) (pchs : List (StackId × BitVec 6)) (spindles : BitVec 12) (mcOk : Bool) (ms : Nat) : State :=
  if s.dead || decide (s.fld R.MBOX_STATE F.MBOX_STATE_STATE ≠ 2) then s
  else
    let s := emptyStores s
    let s := if s.boot.warm then warmHbm s else coldHbm s
    let s := allStacks.foldl (testStack fails pchs) s
    let s := s.flash.log.foldl fenceLogged s
    let s := allSpindles.foldl (fun z n => if spindles.getLsbD n.val then z.setReg R.MC_FENCED (setBit (z.reg R.MC_FENCED) n.val true) else z) s
    let s := s.setReg R.GCTL_BOOTINFO (BitVec.ofNat 64 (boolNat s.boot.warm + 2 + ms % 2 ^ 16 * 2 ^ 16 + s.boot.warmCount % 2 ^ 16 * 2 ^ 32))
    boxState s (if mcOk then 3 else 5)

/-! ### The endpoint (R12, R523–R527, R531) -/

def State.updHost (s : State) (f : Endpoint → Endpoint) : State := { s with host := f s.host }

/-- The endpoint may send again: waiting agents go on, and what is held back leaves (R526, R531). -/
def resumeSending (s : State) : State :=
  if !canSend s then s
  else
    let s := allAgents.foldl (fun z a => if waitOf z a = .busMaster then setWait z a .none [] else z) s
    releaseMsix (sendBatches (sendWaiting (recheckAll s)))

/-- Training ends at a rate code of PCIESTAT.SPEED and a width in lanes. DEDUCED: assumption 20. -/
def linkTrains (s : State) (speed width : Nat) : State :=
  if s.dead || s.power.perst || decide (speed = 0) || decide (6 < speed) || !decide (width ∈ [1, 2, 4, 8, 16]) then s
  else
    let v := if s.level1 then min 5 speed else speed
    (s.updHost (fun h => { h with linkUp := true })).setReg R.GCTL_PCIESTAT
      (BitVec.ofNat 64 (v + width * 2 ^ 4 + boolNat (decide (v = 6)) * 2 ^ 9 + 2 ^ 10))

/-- Outstanding reads and atomics to host memory are refused with code 2. -/
def failHost (s : State) : State :=
  let no (l : List HostReq) := l.map (fun h => if h.reply = .waiting then { h with reply := .failed } else h)
  let s := allThr.foldl (fun z t => z.updThr t (fun x => { x with host := no x.host, orphans := [] })) s
  allSlq.foldl (fun z (e, q) => z.updSlq e q (fun x => { x with host := no x.host, orphans := [] })) s

/-- No completion comes for the ATS requests outstanding: the agents that wait for them translate afresh once the endpoint may send
again. DESIGN CHOICE: assumption 92. -/
def dropAts (s : State) : State :=
  let s := s.updRtt (fun r => { r with reqs := [], waiting := [] })
  allAgents.foldl (fun z a => match waitOf z a with | .ats _ | .retry _ => setWait z a .busMaster [] | _ => z) s

/-- A hot reset or a link-down: configuration space returns to its reset values. DESIGN CHOICE: assumption 92. -/
def hotResets (s : State) : State :=
  if s.dead then s
  else
    (failHost (dropAts <| s.updHost (fun h =>
      { h with linkUp := false, bme := false, msixEn := false, funcMask := false, atsEn := false, priEn := false, priAlloc := 0, d3hot := false,
               barLog2 := 36 }))).setReg R.GCTL_PCIESTAT 0

/-- DESIGN CHOICE: assumption 19. -/
def enableBusMaster (s : State) (ats pri : Bool) (alloc barLog2 : Nat) : State :=
  resumeSending (s.updHost (fun h => { h with bme := true, atsEn := ats, priEn := pri, priAlloc := alloc, barLog2 := min 41 (max 28 barLog2) }))

def execPwrgdRise (compat : Bool) (bootSel : BitVec 2) (s : State) : Host.Outcome State Fault Refusal := done (pwrgdRises s compat bootSel.toNat)
def execPwrgdFall (s : State) : Host.Outcome State Fault Refusal := .next (pwrgdFalls s)
def execPerstAssert (s : State) : Host.Outcome State Fault Refusal := .next (perstAsserts s)
def execPerstDeassert (imageA imageB : List Byte) (s : State) : Host.Outcome State Fault Refusal := done (perstDeasserts s imageA imageB)
def execSelftestEnd (failStacks : BitVec 24) (failPch : List (StackId × BitVec 6)) (failSpindles : BitVec 12) (mcOk : Bool) (ms : BitVec 16)
    (s : State) : Host.Outcome State Fault Refusal :=
  done (selftestEnds s failStacks failPch failSpindles mcOk ms.toNat)
def execLinkTraining (speed : BitVec 3) (width : BitVec 5) (s : State) : Host.Outcome State Fault Refusal := done (linkTrains s speed.toNat width.toNat)
def execHotReset (s : State) : Host.Outcome State Fault Refusal := done (hotResets s)
def execBusMasterEnableClear (s : State) : Host.Outcome State Fault Refusal := powered s (fun s => s.updHost (fun h => { h with bme := false }))
def execBusMasterEnableSet (ats pri : Bool) (alloc : BitVec 32) (barLog2 : Nat) (s : State) : Host.Outcome State Fault Refusal :=
  powered s (fun s => enableBusMaster s ats pri alloc.toNat barLog2)
def execD3hotTransition (d3 : Bool) (s : State) : Host.Outcome State Fault Refusal :=
  powered s (fun s => resumeSending (s.updHost (fun h => { h with d3hot := d3 })))
def execMsixUnmask (vec : Option (Fin 2048)) (s : State) : Host.Outcome State Fault Refusal :=
  powered s (fun s => releaseMsix (s.updHost (fun h =>
    match vec with
    | some v => { h with unmasked := SMap.set false h.unmasked v.val true }
    | none => { h with funcMask := false })))
def execMsixEnableSet (mask : Bool) (s : State) : Host.Outcome State Fault Refusal :=
  powered s (fun s => releaseMsix (s.updHost (fun h => { h with msixEn := true, funcMask := mask })))

end Sys2Proof.Machine
end

