-- ==== Sys2Proof/Machine/MopSum.lean ====
section
/-! DEFINITION. The arithmetic of mops (R151, R173–R175, R249, R269–R276): products, group sums, accumulation, wide pairs, and
where the elements of a tile lie (R233). -/

namespace Sys2Proof.Machine
open Sys2Proof

/-! ### Shapes (R233) -/

def shapeRows (shape : Nat) : Nat := if shape = 0 then 128 else if shape = 1 then 64 else 32
def shapeCols (shape : Nat) : Nat := if shape = 0 then 128 else if shape = 1 then 256 else 512

/-- The quarter that holds tile element (r, n). -/
def quarterOf (shape r n : Nat) : Nat := if shape = 0 then 2 * (r / 64) + n / 64 else if shape = 1 then n / 64 else n / 128

/-- The cell that holds tile element (r, n): 4096·q + 64·i + j. -/
def cellOf (shape r n : Nat) : Nat :=
  let i := if shape = 0 then r % 64 else if shape = 1 then r else r + 32 * (n % 128 / 64)
  4096 * quarterOf shape r n + 64 * i + n % 64

/-! ### Formats of a mop (R249) -/

inductive AccTy where
  | f32 | f64 | i32
  deriving DecidableEq, Repr

/-- A legal combination: the accumulator, the element types, whether the weights are Ply, and the group size. -/
structure MopFmt where
  acc : AccTy
  a : ElemTy
  w : ElemTy
  ply : Bool
  g : Nat
  deriving DecidableEq, Repr

def mopFmt (level1 : Bool) (af wf : Nat) : Option MopFmt :=
  let g4 := if level1 then 8 else 16
  if af = 4 ∨ af = 5 then
    if wf = 4 ∨ wf = 5 then some ⟨.f32, elemTy af, elemTy wf, false, 8⟩
    else if wf = 6 then some ⟨.f32, elemTy af, .float e4m3, true, 8⟩
    else none
  else if (af = 2 ∨ af = 3) ∧ wf = af then some ⟨.f32, elemTy af, elemTy wf, false, 4⟩
  else if af = 1 ∧ wf = 1 then some ⟨.f32, elemTy af, elemTy wf, false, 1⟩
  else if af = 0 ∧ wf = 0 then some ⟨.f64, elemTy af, elemTy wf, false, 1⟩
  else if (af = 9 ∨ af = 13) ∧ (wf = 9 ∨ wf = 13) then some ⟨.i32, elemTy af, elemTy wf, false, 8⟩
  else if af = 14 ∨ af = 15 then
    if wf = 14 ∨ wf = 15 then some ⟨.i32, elemTy af, elemTy wf, false, g4⟩
    else if wf = 7 then some ⟨.f32, elemTy af, .int true 4, true, g4⟩
    else none
  else none

/-! ### Operands and products -/

/-- A subnormal of FP32 or FP64 reads as zero of its sign (R173). -/
def flushIn (f : FFmt) (v : FVal) : FVal :=
  match v with
  | .fin n s e => if (f = fp32 ∨ f = fp64) ∧ s < 2 ^ f.mb then .fin n 0 e else v
  | _ => v

/-- The exact value of an operand element. DESIGN CHOICE: assumption 50. -/
def opVal (t : ElemTy) (bits : Nat) : FVal :=
  match t with
  | .float f => flushIn f (f.unpack bits)
  | .int sg w => let i := intVal sg w bits; .fin (decide (i < 0)) i.natAbs 0

def FVal.snan : FVal → Bool
  | .nan _ q => !q
  | _ => false
def FVal.isNanV : FVal → Bool
  | .nan _ _ => true
  | _ => false

/-- One exact product, and whether it signals invalid (R175). A zero integer product is +0. DESIGN CHOICE: assumption 50. -/
def elemProd (isInt : Bool) (a w : FVal) : Prod × Bool :=
  let sn := a.snan || w.snan
  if a.isNanV || w.isNanV then (.nan, sn)
  else
    match prodOf a w with
    | .nan => (.nan, true)
    | .fin n d => (.fin (if isInt && d.isZero then false else n) d, sn)
    | .inf n => (.inf n, sn)

def plusZero : Prod := .fin false { m := 0, e := 0 }

/-- The exact sum of a group's products (R269, R271), and whether it signals invalid. -/
def sumProds (ps : List (Prod × Bool)) : Prod × Bool :=
  let nv := ps.any (·.2)
  let ts := ps.map (·.1)
  let pos := decide (Prod.inf false ∈ ts)
  let neg := decide (Prod.inf true ∈ ts)
  if pos && neg then (.nan, true)
  else if Prod.nan ∈ ts then (.nan, nv)
  else if pos then (.inf false, nv)
  else if neg then (.inf true, nv)
  else
    let d := ts.foldl (fun a t => match t with | .fin _ x => a.add x | _ => a) { m := 0, e := 0 }
    let allNeg := ts.all (fun t => match t with | .fin n _ => n | _ => false)
    (.fin (if d.isZero then allNeg else decide (d.m < 0)) d, nv)

/-- The sum of one K group of one element: `scale` is the scale byte of a Ply block (R273); a row that is not read contributes
+0 products (R237). DESIGN CHOICE: assumption 49. -/
def groupSum (isInt read : Bool) (scale : Option Nat) (as ws : List FVal) : Prod × Bool :=
  if !read then (plusZero, false)
  else
    match scale with
    | some 0 => (plusZero, false)
    | some 255 => (.nan, as.any (·.snan))
    | some e =>
      match sumProds (List.zipWith (elemProd isInt) as ws) with
      | (.fin n d, nv) => (.fin n { d with e := d.e + ((e : Int) - 127) }, nv)
      | r => r
    | none => sumProds (List.zipWith (elemProd isInt) as ws)

/-! ### Accumulation -/

/-- An exact value rounded once in roundTiesToEven; a tiny result is flushed to zero of its sign (R173, R174). -/
def roundFlush (f : FFmt) (x : Dy) (zneg : Bool) : FRes :=
  if x.m = 0 then { bits := f.withSign zneg 0 }
  else
    let neg := decide (x.m < 0)
    let q1 := x.e + bitLen x.m.natAbs - (f.mb + 1)
    let (n1, _) := roundAt .rne neg x.m.natAbs x.e false q1
    if q1 + bitLen n1 ≤ f.qmin + f.mb then { bits := f.withSign neg 0, fl := UF ||| NX }
    else roundMag f .rne .ieee neg x.m.natAbs x.e

/-- A + S with A the bits of a floating-point accumulator (R269–R272). -/
def accFloat (f : FFmt) (a : Nat) (s : Prod) : FRes :=
  let av := flushIn f (f.unpack a)
  let sn : Flags := if av.snan then NV else 0
  match av, s with
  | .nan _ _, _ => { bits := f.canonNan, fl := sn }
  | _, .nan => { bits := f.canonNan }
  | .inf n, .inf m => if n = m then { bits := f.withSign n f.infBits } else invalidRes f
  | .inf n, _ => { bits := f.withSign n f.infBits }
  | _, .inf m => { bits := f.withSign m f.infBits }
  | .fin n sg e, .fin m d => roundFlush f ((dyOf n sg e).add d) (n && m)

/-- A clamped INT32 accumulation (R274). -/
def accInt (a : Nat) (s : Prod) : FRes :=
  let d : Int := match s with | .fin _ x => x.m | _ => 0
  let v := sextNat a 32 + d
  if v < intMin true 32 then { bits := intBits 32 (intMin true 32), fl := OF }
  else if intMax true 32 < v then { bits := intBits 32 (intMax true 32), fl := OF }
  else { bits := intBits 32 v }

def finDy (f : FFmt) (bits : Nat) : Option (Bool × Dy) :=
  match flushIn f (f.unpack bits) with
  | .fin n s e => some (n, dyOf n s e)
  | _ => none

/-- One group of a WIDE mop (R276): the new pair and the flags. DEDUCED: assumption 113. -/
def accWide (hi lo : Nat) (s : Prod) : Nat × Nat × Flags :=
  match finDy fp32 hi, finDy fp32 lo, s with
  | some (nh, h), some (nl, l), .fin ns d =>
    let v := (h.add l).add d
    let r := roundFlush fp32 v (nh && nl && ns)
    match finDy fp32 r.bits with
    | some (_, h') =>
      let r2 := roundFlush fp32 (v.add h'.neg) false
      (r.bits, r2.bits, r.fl ||| r2.fl)
    | none => (r.bits, 0, r.fl)
  | _, _, _ => let r := accFloat fp32 hi s; (r.bits, 0, r.fl)

/-- One group into the register of a cell, and that of its shadow. -/
def accStep (acc : AccTy) (wide : Bool) (c : Nat × Nat × Flags) (s : Prod × Bool) : Nat × Nat × Flags :=
  let (hi, lo, fl) := c
  let fl := fl ||| (if s.2 then NV else 0)
  if wide then
    let (h, l, f) := accWide hi lo s.1
    (h, l, fl ||| f)
  else
    let r := match acc with
      | .f32 => accFloat fp32 (hi % 2 ^ 32) s.1
      | .f64 => accFloat fp64 hi s.1
      | .i32 => accInt (hi % 2 ^ 32) s.1
    (r.bits, lo, fl ||| r.fl)

/-- The start of an overwrite: −0, or integer 0 (R272, R276). DESIGN CHOICE: assumption 51. -/
def accStart : AccTy → Nat
  | .f32 => fp32.signBit
  | .f64 => fp64.signBit
  | .i32 => 0

/-- Groups of `g` from a list. -/
def chunksOf {α : Type} (g : Nat) : Nat → List α → List (List α)
  | 0, _ => []
  | n + 1, l => if l.isEmpty then [] else l.take g :: chunksOf g n (l.drop g)

/-- All groups of one tile element, in increasing K: `as` and `ws` are the K elements of its row and column, `scales` the scale
bytes of its column's blocks. With K = 0 an accumulate leaves the cell and an overwrite leaves zero (R244). -/
def cellRun (mf : MopFmt) (wide accum read : Bool) (hi lo : Nat) (as ws : List FVal) (scales : List Nat) : Nat × Nat × Flags :=
  let ga := chunksOf mf.g ws.length as
  let gw := chunksOf mf.g ws.length ws
  let isInt := match mf.a with | .int _ _ => true | .float _ => false
  let start : Nat × Nat × Flags := if accum then (hi, lo, 0) else if gw.isEmpty then (0, 0, 0) else (accStart mf.acc, 0, 0)
  ((List.range gw.length).foldl (fun c i =>
    let sc := if mf.ply then some (scales.getD (i * mf.g / 32) 0) else none
    accStep mf.acc wide c (groupSum isInt read sc (ga.getD i []) (gw.getD i []))) start)

end Sys2Proof.Machine
end

