-- ==== Sys2Proof/Machine/Matrix.lean ====
section
/-! DEFINITION. The matrix unit of a Spindle (06_matrix_unit.md): mops with their checks, queues and results (R235–R252), staging
buffers and fills (R245–R247), tile ownership (R254, R255, R268), mwait and mstat (R261), residue checks (R262–R265). -/

namespace Sys2Proof.Machine
open Sys2Proof

/-! ### Rights over an extent -/

/-- The first byte of [a, a + n) that the world and level may not access (R105): `a` itself or the start of a Sealed region or
pan within. -/
def firstBarred (s : State) (w sup : Bool) (k : AccKind) (a n : Nat) : Option Nat :=
  if n = 0 || windowRight s w sup k a n then none
  else
    let starts := (List.range 8).map (fun i => getF (s.sregion i) F.SEC_SREGION_BASE * 0x200000) ++ allSpindles.map (fun m => panAddr m 0)
    let cands := a :: starts.filter (fun c => decide (a < c) && decide (c < a + n))
    (cands.filter (fun c => !windowRight s w sup k c 1)).foldl (fun b c => match b with | none => some c | some d => some (min c d)) none

/-- A user-level extent lies within one of the caller ranges `rs` (R106); otherwise the first byte beyond the range that reaches
furthest from its first byte. -/
def firstUnranged (rs : List (Word × Word)) (k : AccKind) (a n : Nat) : Option Nat :=
  let good := rs.filter (fun r => bit r.1 3 && rangeGrants r.1 k && decide (r.1.toNat / 64 * 64 ≤ a) && decide (a < r.2.toNat / 64 * 64))
  let reach := good.foldl (fun m r => max m (r.2.toNat / 64 * 64)) a
  if a + n ≤ reach then none else some reach

def rangesOf (x : Thread) (w : Bool) : List (Word × Word) :=
  (List.range 4).map (fun i => (x.bcr w (CR.CRB i), x.bcr w (CR.CRL i)))

/-- The first byte of an extent in one device window that a context may not access. -/
def extentDenied (s : State) (w sup : Bool) (rs : List (Word × Word)) (k : AccKind) (a n : Nat) : Option Nat :=
  match firstBarred s w sup k a n, (if sup then none else firstUnranged rs k a n) with
  | none, r => r
  | b, none => b
  | some b, some r => some (min b r)

/-! ### Descriptors (R236, R241) -/

structure ActDesc where
  vr : Bool
  loc : Nat
  off : Nat
  rows : Nat
  rstr : Nat
  deriving DecidableEq, Repr

/-- The activation descriptor, with ROWS as it counts: the mop's rows when 0 or above them. -/
def actDesc (d : Word) (total : Nat) : ActDesc :=
  let r := field d 35 27
  let vr := bit d 0
  { vr := vr, loc := field d 5 1, off := if vr then 0 else field d 26 6 * 64, rows := if r = 0 ∨ total < r then total else r,
    rstr := field d 51 36 * 8 }

/-- Bytes from the first to the last of the extent (R238). -/
def ActDesc.len (a : ActDesc) (k w : Nat) : Nat := (a.rows - 1) * a.rstr + (k * w + 7) / 8

def mopDepth (d : Word) : Nat := field d 31 16
def wBuf (d : Word) : Fin 2 := if bit d 12 then 1 else 0
/-- Rows that a mop computes: R, or 2R when paired. -/
def mopRows (shape : BitVec 2) (pair : Bool) : Nat := shapeRows shape.toNat * (if pair then 2 else 1)

/-- The array whose buffer holds the weights: array 0's for a paired mop (R235). -/
def weightArr (j : TileId) (pair : Bool) : Fin 2 := if pair then 0 else arrayOf j

/-! ### Issue of a mop (R250, R257–R259) -/

/-- The context owns tile `j`, which is not releasing. -/
def tileUsable (s : State) (t : Thr) (j : TileId) : Bool := owns s t j && !(s.tile (spindleOf t) j).releasing

/-- The checks of the activation extent (R238). -/
def actFault (s : State) (t : Thr) (a : ActDesc) (k w : Nat) : Option TrapInfo :=
  let x := s.thr t
  if k = 0 then none
  else if a.vr then
    if 32 * 4096 < a.loc * 4096 + a.len k w then some ⟨Cause.VEC_CONFIG, 4, 4⟩ else none
  else
    let base := Config.panBase + a.loc * Config.panBytes
    if 11 < a.loc then some ⟨Cause.DEV_ADDR, 0, BitVec.ofNat 64 base⟩
    else if Config.panBytes < a.off + a.len k w then some ⟨Cause.DEV_ADDR, 0, BitVec.ofNat 64 (base + Config.panBytes)⟩
    else
      match extentDenied s x.world x.level (rangesOf x x.world) .load (base + a.off) (a.len k w) with
      | some b => some ⟨Cause.ACCESS, 0, BitVec.ofNat 64 b⟩
      | none => none

/-- The tile rules hold the mop at issue. -/
def mopHeld (x : Matrix) (accum : Bool) (m : Mop) : Bool :=
  m.tiles.any (fun j =>
    let t := x.tiles[j]
    let same := (x.queuedOn j).all (fun q =>
      decide (q.shape = m.shape ∧ q.afmt = m.afmt ∧ q.wfmt = m.wfmt ∧ q.pair = m.pair ∧ q.wide = m.wide))
    let sh := x.tiles[shadowOf j]
    t.boundTo.isSome || decide (t.state = .draining) || t.drain.isSome ||
      (decide (t.state = .filling) && (!accum || !same)) ||
      (m.wide && !decide (sh.boundTo = some j) && (!decide (sh.state = .idle) || sh.drain.isSome))) ||
  [0, 1].any (fun a => m.usesArray a && decide (4 ≤ (x.queue a).length))

/-- The mop enters its queues; its tiles become FILLING, and a WIDE mop binds its shadows. -/
def mopEnters (x : Matrix) (accum : Bool) (m : Mop) : Matrix :=
  { x with mops := x.mops ++ [m], nextMop := x.nextMop + 1, tiles := x.tiles.mapFinIdx (fun i t h =>
      let me : TileId := ⟨i, h⟩
      if me ∈ m.tiles then
        { t with state := .filling, shape := m.shape, pair := m.pair, wide := m.wide || (accum && t.wide), afmt := m.afmt, wfmt := m.wfmt }
      else if (m.wide && decide (shadowOf me ∈ m.tiles)) || m.tiles.any (fun j => decide (t.boundTo = some j)) then
        { t with state := .filling, boundTo := some (shadowOf me) }
      else t) }

def mopWord (accum : Bool) (afmt wfmt : BitVec 4) (shape : BitVec 2) (pair wide : Bool) (t : TileId) (ga gb : Reg6) : Word :=
  word1 (afmt.toNat * 2 ^ 28 + wfmt.toNat * 2 ^ 24 + shape.toNat * 2 ^ 22 + boolNat pair * 2 ^ 21 + boolNat wide * 2 ^ 20 +
    t.val * 2 ^ 18 + ga.toNat * 2 ^ 12 + gb.toNat * 2 ^ 6 + (if accum then 0x38 else 0x39))

def mopInsn (accum : Bool) (afmt wfmt : BitVec 4) (shape : BitVec 2) (pair wide : Bool) (t : TileId) (ga gb : Reg6) : Insn :=
  { word := mopWord accum afmt wfmt shape pair wide t ga gb, cls := .vm, reads := [ga.toNat, gb.toNat] }

def mopBody (is : Issue) (accum : Bool) (afmt wfmt : BitVec 4) (shape : BitVec 2) (pair wide : Bool) (t : TileId) (ga gb : Reg6)
    (s : State) : Res :=
  let n := spindleOf is.thr
  let x := s.thr is.thr
  match mopFmt s.level1 afmt.toNat wfmt.toNat with
  | none => illegal s
  | some mf =>
    if shape = 3 ∨ (pair = true ∧ 2 ≤ t.val) ∨ (wide = true ∧ mf.acc ≠ .f32) then illegal s
    else
      let m : Mop := { id := (s.mx n).nextMop, level1 := s.level1, thr := threadIn is.thr, world := x.world, accum := accum, afmt := afmt, wfmt := wfmt, shape := shape, pair := pair, wide := wide, tile := t, a := x.rg ga, b := x.rg gb, started := false, flags := [], events := [], groups := 0 }
      let named := (List.finRange 4).filter (fun j => decide (j ∈ m.tiles) || (wide && decide (shadowOf j ∈ m.tiles)))
      match named.find? (fun j => !tileUsable s is.thr j) with
      | some j => .trap s ⟨Cause.TILE_OWN, 0, BitVec.ofNat 64 j.val⟩
      | none =>
        match actFault s is.thr (actDesc m.a (mopRows shape pair)) (mopDepth m.b) mf.a.width with
        | some f => .trap s f
        | none => if mopHeld (s.mx n) accum m then .wait s else .done (s.updMx n (fun y => mopEnters y accum m)) none

def execMop (is : Issue) (afmt wfmt : BitVec 4) (shape : BitVec 2) (pair wide : Bool) (t : TileId) (ga gb : Reg6) (s : State) :
    Host.Outcome State Fault Refusal :=
  .next (issue s is (mopInsn false afmt wfmt shape pair wide t ga gb) (mopBody is false afmt wfmt shape pair wide t ga gb))

def execMopAcc (is : Issue) (afmt wfmt : BitVec 4) (shape : BitVec 2) (pair wide : Bool) (t : TileId) (ga gb : Reg6) (s : State) :
    Host.Outcome State Fault Refusal :=
  .next (issue s is (mopInsn true afmt wfmt shape pair wide t ga gb) (mopBody is true afmt wfmt shape pair wide t ga gb))

/-! ### The operands of a mop that starts -/

def bufKey (arr buf : Fin 2) (o : Nat) : Nat := (2 * arr.val + buf.val) * 262144 + o % 262144

/-- The activation bytes of the extent with their marks, as one number and a list. -/
def readActs (s : State) (n : SpindleId) (m : Mop) (a : ActDesc) (k w : Nat) : State × Nat × List Bool :=
  if k = 0 then (s, 0, [])
  else if a.vr then
    let x := s.thr (thrOf n m.thr)
    let all := (List.range 32).foldl (fun v i => v + (x.v.toList.getD i 0).toNat * 2 ^ (32768 * i)) 0
    (s, all / 2 ^ (32768 * a.loc) % 2 ^ (8 * a.len k w), [])
  else
    let (s, bs) := memRead s (.act n) 0 (Config.panBase + a.loc * Config.panBytes + a.off) (a.len k w)
    (s, ofLe (bs.map (·.1)), bs.map (·.2))

/-- Row `r` of the activations (R237). -/
def actRow (mf : MopFmt) (a : ActDesc) (data k r : Nat) : List FVal :=
  let row := data / 2 ^ (8 * r * a.rstr)
  (List.range k).map (fun i => opVal mf.a (elemAt row mf.a.width i))

/-- The first K element of row `r` that has a byte marked Deferred. -/
def actBad (mf : MopFmt) (a : ActDesc) (marks : List Bool) (k r : Nat) : Option Nat :=
  match ((marks.drop (r * a.rstr)).take ((k * mf.a.width + 7) / 8)).findIdx? id with
  | some i => some (i * 8 / mf.a.width)
  | none => none

/-- Byte offset, and bit within the byte, of weight element (k, n) (R242). -/
def weightBit (mf : MopFmt) (d : Word) (cols k n : Nat) : Nat :=
  field d 11 0 * 64 * 8 + ((k / mf.g * cols + n) * mf.g + k % mf.g) * mf.w.width

/-- Weight elements of column `n` with the first Deferred K, and the scale bytes of its blocks likewise. -/
def weightCol (x : Matrix) (mf : MopFmt) (arr buf : Fin 2) (d : Word) (cols k n : Nat) : List FVal × List Nat × Option Nat :=
  let nb := max 1 (mf.w.width / 8)
  let keys (i : Nat) := let b := weightBit mf d cols i n
    (List.range nb).map (fun j => bufKey arr buf (b / 8 + j))
  let el (i : Nat) : FVal :=
    let v := ofLe ((keys i).map (SMap.get 0 x.buf))
    opVal mf.w (v / 2 ^ (weightBit mf d cols i n % 8))
  let skey (b : Nat) := bufKey arr buf (field d 43 32 * 64 + b * cols + n)
  let blocks := if mf.ply then List.range ((k + 31) / 32) else []
  let bad1 := (List.range k).find? (fun i => (keys i).any (SMap.get false x.bufBad))
  let bad2 := (blocks.find? (fun b => SMap.get false x.bufBad (skey b))).map (· * 32)
  let bad := match bad1, bad2 with | some i, some j => some (min i j) | some i, none => some i | none, b => b
  ((List.range k).map el, blocks.map (fun b => (SMap.get 0 x.buf (skey b)).toNat), if x.bufBad.isEmpty then none else bad)

/-- The tile element that cell `c` holds (R233). DESIGN CHOICE: assumption 49. -/
def elemOf (shape c : Nat) : Nat × Nat :=
  let q := c / 4096
  let i := c / 64 % 64
  let j := c % 64
  if shape = 0 then (64 * (q / 2) + i, 64 * (q % 2) + j)
  else if shape = 1 then (i, 64 * q + j)
  else (i % 32, 128 * q + 64 * (i / 32) + j)

/-- What a mop leaves in one tile: the registers of its cells and of the shadow's, the poisoned cells, and the flags. -/
structure TileSum where
  hi : SMap (BitVec 64)
  lo : SMap (BitVec 64)
  poison : SMap Bool
  fl : Flags
  deriving DecidableEq, Repr

/-- The cells of tile `t` with shadow `sh` after a mop: `rows` are the rows it reads for this tile, `cols` its columns. -/
def tileSum (m : Mop) (mf : MopFmt) (t sh : Tile) (rows : List (List FVal × Option Nat)) (cols : List (List FVal × List Nat × Option Nat))
    (hits : List (Nat × Nat)) : TileSum :=
  let old (c : Tile) (i : Nat) : Nat := (SMap.get 0 c.cells i).toNat
  let shape := m.shape.toNat
  let res := (List.range 16384).map (fun c =>
    let (r, n) := elemOf shape c
    let (ws, scales, _) := cols.getD n ([], [], none)
    let (as, read) := match rows[r]? with | some p => (p.1, true) | none => ([], false)
    (c, cellRun mf m.wide m.accum read (old t c) (old sh c) as ws scales))
  let pois := (List.range 16384).filter (fun c =>
    let (r, n) := elemOf shape c
    (m.accum && SMap.get false t.poison c) || decide ((r, n) ∈ hits) ||
      (match rows[r]? with | some (_, some _) => true | _ => false) ||
      (match cols[n]? with | some (_, _, some _) => true | _ => false))
  { hi := (res.map (fun e => (e.1, BitVec.ofNat 64 e.2.1))).filter (fun e => !decide (e.2 = 0)), lo := (res.map (fun e => (e.1, BitVec.ofNat 64 e.2.2.1))).filter (fun e => !decide (e.2 = 0)), poison := pois.map (fun c => (c, true)), fl := res.foldl (fun f e => f ||| e.2.2.2) 0 }

/-! ### A mop runs (R251, R252, R262–R265) -/

/-- The mop at the head of the queue of array `a`. -/
def headMop (x : Matrix) (a : Fin 2) : Option Mop := (x.queue a).head?

/-- Mop `m` stands at the head of the queue of array `a`. -/
def atHead (x : Matrix) (m : Mop) (a : Fin 2) : Bool := match headMop x a with | some q => decide (q.id = m.id) | none => false

/-- The mop may start: it heads every queue it stands in, has not started, no fill into its buffer is outstanding (R247), and no
wide tile of its arrays drains (R259). DESIGN CHOICE: assumption 48. -/
def mayStart (x : Matrix) (m : Mop) : Bool :=
  !m.started && [0, 1].all (fun a => !m.usesArray a || atHead x m a) &&
    (decide (mopDepth m.b = 0) || x.fills.all (fun f => !decide (f.arr = weightArr m.tile m.pair ∧ f.buf = wBuf m.b))) &&
    (List.finRange 4).all (fun j => !(m.usesArray (arrayOf j) && x.tiles[j].wide && decide (x.tiles[j].state = .draining)))

/-- The K groups of a mop. -/
def mopGroups (mf : MopFmt) (m : Mop) : Nat := (mopDepth m.b + mf.g - 1) / mf.g

/-- All of a mop's K groups enter the cells: its tiles take their sums; flags and events wait for its completion. -/
def runMop (s : State) (n : SpindleId) (m : Mop) (mis : List Mismatch) : State :=
  match mopFmt m.level1 m.afmt.toNat m.wfmt.toNat with
  | none => s
  | some mf =>
    let k := mopDepth m.b
    let shape := m.shape.toNat
    let r := shapeRows shape
    let cols := shapeCols shape
    let ad := actDesc m.a (mopRows m.shape m.pair)
    let (s, data, marks) := readActs s n m ad k mf.a.width
    let x := s.mx n
    let rows := if k = 0 then [] else (List.range ad.rows).map (fun i => (actRow mf ad data k i, actBad mf ad marks k i))
    let ws := (List.range cols).map (weightCol x mf (weightArr m.tile m.pair) (wBuf m.b) m.b cols k)
    let groups := mopGroups mf m
    let mis := if s.flag (R.SPINDLE_MRESCFG n) F.SPINDLE_MRESCFG_EN then
        mis.filter (fun e => decide (e.tile ∈ m.tiles ∧ e.row < r ∧ e.col < cols ∧ e.kgrp < groups))
      else []
    let part (j : TileId) : List (List FVal × Option Nat) := if j = m.tile then rows.take r else rows.drop r
    let sums := m.tiles.map (fun j =>
      (j, tileSum m mf x.tiles[j] x.tiles[shadowOf j] (part j) ws ((mis.filter (fun e => decide (e.tile = j))).map (fun e => (e.row, e.col)))))
    let evs := m.tiles.flatMap (fun j =>
      ((part j).mapIdx (fun i e => match e.2 with | some b => [(b / mf.g, i, 0, 1, j.val)] | none => [])).flatten ++
      (ws.mapIdx (fun i e => match e.2.2 with | some b => [(b / mf.g, 0, i, 2, j.val)] | none => [])).flatten) ++
      mis.map (fun e => (e.kgrp, e.row, e.col, 0, e.tile.val))
    let m' : Mop := { m with started := true, flags := sums.map (fun e => (e.1.val, e.2.fl)), events := evs, groups := groups }
    let s := s.updMx n (fun x => { x with mops := x.mops.map (fun q => if q.id = m.id then m' else q) })
    sums.foldl (fun z e =>
      let z := z.updTile n e.1 (fun t => { t with cells := e.2.hi, poison := e.2.poison })
      let sh := shadowOf e.1
      if m.wide then z.updTile n sh (fun t => { t with cells := e.2.lo })
      else if !m.accum && decide ((z.tile n sh).boundTo = some e.1) then z.updTile n sh (fun t => { t with cells := [] })
      else z) s

/-- A mop that reads activations from a pan waits until the stores of its thread have passed the L1 (R240). -/
def storesPassed (s : State) (n : SpindleId) (m : Mop) : Bool :=
  (actDesc m.a (mopRows m.shape m.pair)).vr || (s.thr (thrOf n m.thr)).storeQ.isEmpty

/-- DESIGN CHOICE: assumption 46. -/
def doMopStart (sp : SpindleId) (arr : Fin 2) (up : List Upset) (mis : List Mismatch) (s : State) : State :=
  match headMop (s.mx sp) arr with
  | some m => if mayStart (s.mx sp) m && storesPassed s sp m then runMop (strikes s up) sp m mis else s
  | none => s

/-- The event that comes first: by K group, row, column, kind and tile (R263). DESIGN CHOICE: assumption 52. -/
def firstEvent (evs : List (Nat × Nat × Nat × Nat × Nat)) : Option (Nat × Nat × Nat × Nat × Nat) :=
  evs.foldl (fun b e =>
    match b with
    | none => some e
    | some d =>
      let key (v : Nat × Nat × Nat × Nat × Nat) := (((v.1 * 1024 + v.2.1) * 1024 + v.2.2.1) * 4 + v.2.2.2.1) * 4 + v.2.2.2.2
      if key e < key d then some e else some d) none

/-- SPINDLE.MRES records the first event since VALID was cleared (R263, R267). DESIGN CHOICE: assumption 52. -/
def recordRes (s : State) (n : SpindleId) (m : Mop) : State :=
  match firstEvent m.events with
  | none => s
  | some (kg, r, c, ord, j) =>
    if s.flag (R.SPINDLE_MRES n) F.SPINDLE_MRES_VALID then s
    else
      let w := s.reg (R.SPINDLE_MRES n)
      let w := putF (putF (putF w F.SPINDLE_MRES_VALID 1) F.SPINDLE_MRES_TILE j) F.SPINDLE_MRES_KIND (if ord = 0 then 0 else 1)
      let w := putF (putF w F.SPINDLE_MRES_ROW r) F.SPINDLE_MRES_COL c
      let w := putF (putF w F.SPINDLE_MRES_QUARTER (quarterOf m.shape.toNat r c)) F.SPINDLE_MRES_KGRP (min kg 65535)
      s.setReg (R.SPINDLE_MRES n) (putF w F.SPINDLE_MRES_AFMT m.afmt.toNat)

/-- One event is counted and reported; a mismatch that takes its quarter over the threshold of the beat marks it, and the report
requests repair (R263, R265). DESIGN CHOICE: assumption 51. -/
def publishEvent (n : SpindleId) (m : Mop) (s : State) (e : Nat × Nat × Nat × Nat × Nat) : State :=
  let q := 4 * (e.2.2.2.2 / 2) + quarterOf m.shape.toNat e.2.1 e.2.2.1
  if e.2.2.2.1 = 0 then
    let s := s.bump (R.SPINDLE_MRESCNT n) 1
    let cnt := SMap.get 0 (s.mx n).quarter q + 1
    let s := s.updMx n (fun x => { x with quarter := SMap.set 0 x.quarter q cnt })
    let suspect := decide (s.fld (R.SPINDLE_MRESCFG n) F.SPINDLE_MRESCFG_THRESH < cnt)
    let s := if suspect then
        s.setFld (R.SPINDLE_MRES n) F.SPINDLE_MRES_QSUSPECT (s.fld (R.SPINDLE_MRES n) F.SPINDLE_MRES_QSUSPECT ||| 2 ^ q)
      else s
    reportOn s s.devId UKind.QUARTER (8 * n.val + q) (if suspect then 0x05 else 0x04) suspect (s.reg (R.SPINDLE_MRES n))
  else report s UKind.QUARTER (8 * n.val + q) 0x04 (s.reg (R.SPINDLE_MRES n))

/-- Completion in one tile: its flags, its pending MATRIX_ERROR, and FULL after the last queued mop (R177, R256, R263). -/
def tileCompletes (n : SpindleId) (m : Mop) (s : State) (j : TileId) : State :=
  let fl := (m.flags.filter (fun e => decide (e.1 = j.val))).foldl (fun a e => a ||| e.2) 0
  let s := addTFlags s n m.thr j fl 0
  let s := if s.flag (R.SPINDLE_MRESCFG n) F.SPINDLE_MRESCFG_TRAP_EN && m.events.any (fun e => decide (e.2.2.2.2 = j.val)) then
      s.updThr (thrOf n m.thr) (fun x => { x with matErr := x.matErr ++ [(m.world, j.val)] })
    else s
  let s := if ((s.mx n).queuedOn j).isEmpty then
      let s := setTileState s n j .full
      if (s.tile n j).drain.isSome then s.updMx n (fun x => { x with ready := x.ready ++ [j] }) else s
    else s
  settleTiles s n j

/-- Cycles in which groups entered: 16 INT4 products enter in one cycle at Level 1 too (R249). DESIGN CHOICE: assumption 47. -/
def groupCycles (m : Mop) (groups : Nat) : Nat :=
  if m.level1 ∧ 14 ≤ m.afmt.toNat then (groups + 1) / 2 else groups

/-- DESIGN CHOICE: assumption 46. DESIGN CHOICE: assumption 47. -/
def doMopComplete (sp : SpindleId) (arr : Fin 2) (s : State) : State :=
  match headMop (s.mx sp) arr with
  | none => s
  | some m =>
    if !m.started then s
    else
      let s := s.updMx sp (fun x => { x with mops := x.mops.filter (fun q => decide (q.id ≠ m.id)) })
      let s := s.bump (R.SPINDLE_MOPS sp) 1
      let s := [0, 1].foldl (fun z (a : Fin 2) => if m.usesArray a then z.bump (R.SPINDLE_MBUSY sp a.val) (groupCycles m m.groups) else z) s
      let s := recordRes s sp m
      let s := m.events.foldl (publishEvent sp m) s
      m.tiles.foldl (tileCompletes sp m) s

def execMopStart (sp : SpindleId) (arr : Fin 2) (up : List Upset) (mis : List Mismatch) (s : State) : Host.Outcome State Fault Refusal :=
  running s (doMopStart sp arr up mis)
def execMopComplete (sp : SpindleId) (arr : Fin 2) (s : State) : Host.Outcome State Fault Refusal :=
  running s (doMopComplete sp arr)

/-! ### Fills (R245–R247) -/

def bufState (arr : Fin 2) (buf : Fin 2) (n : SpindleId) (s : State) (st : Nat) (len : Option Nat) : State :=
  let off := R.SPINDLE_MBUF n arr.val
  let s := s.setFld off (if buf = 0 then F.SPINDLE_MBUF_S0STATE else F.SPINDLE_MBUF_S1STATE) st
  match len with
  | some l => s.setFld off (if buf = 0 then F.SPINDLE_MBUF_S0LEN else F.SPINDLE_MBUF_S1LEN) l
  | none => s

/-- The length that a fill copies (R245). -/
def fillLen (g : Word) : Nat := min ((field g 18 0 + 63) / 64 * 64) 262144

/-- The end of the HBM or pan that holds `a`. -/
def extentEnd (a : Nat) : Option Nat :=
  match windowOf a with
  | .hbm => some Config.hbmBytes
  | .pan m => some (panAddr m Config.panBytes)
  | _ => none

def mfillFault (s : State) (t : Thr) (ea : Word) (n : Nat) : Option TrapInfo :=
  let x := s.thr t
  let a := ea.toNat
  if a % 64 ≠ 0 then some ⟨Cause.ALIGN, 0, ea⟩
  else
    match extentEnd a with
    | none => some ⟨Cause.DEV_ADDR, 0, ea⟩
    | some e =>
      if e < a + n then some ⟨Cause.DEV_ADDR, 0, BitVec.ofNat 64 e⟩
      else
        match extentDenied s x.world x.level (rangesOf x x.world) .load a (max 1 n) with
        | some b => some ⟨Cause.ACCESS, 0, BitVec.ofNat 64 b⟩
        | none => none

/-- A fill waits for its place, whatever its length (R247), and for the thread's stores to have passed the L1 (R246). -/
def mfillBody (is : Issue) (arr buf : Fin 2) (ga gb : Reg6) (s : State) : Res :=
  let n := spindleOf is.thr
  let x := s.thr is.thr
  let len := fillLen (x.rg gb)
  match mfillFault s is.thr (x.rg ga) len with
  | some f => .trap s f
  | none =>
    let reads (m : Mop) := decide (weightArr m.tile m.pair = arr ∧ wBuf m.b = buf ∧ mopDepth m.b ≠ 0)
    if 4 ≤ (s.mx n).fills.length || (s.mx n).mops.any reads || !x.storeQ.isEmpty then .wait s
    else if len = 0 then .done s none
    else
      let f : BufFill := { thr := threadIn is.thr, arr := arr, buf := buf, addr := (x.rg ga).toNat, len := len }
      .done (bufState arr buf n (s.updMx n (fun y => { y with fills := y.fills ++ [f] })) 1 (some len)) none

def sideOf (b : Bool) : Fin 2 := if b then 1 else 0

def execMfill (is : Issue) (a b : Bool) (ga gb : Reg6) (s : State) : Host.Outcome State Fault Refusal :=
  .next (issue s is
    { word := word1 (boolNat a * 2 ^ 19 + boolNat b * 2 ^ 18 + ga.toNat * 2 ^ 12 + gb.toNat * 2 ^ 6 + 0x3A), cls := .vm,
      reads := [ga.toNat, gb.toNat] }
    (mfillBody is (sideOf a) (sideOf b) ga gb))

/-- DESIGN CHOICE: assumption 48. -/
def doFillComplete (sp : SpindleId) (s : State) : State :=
  match (s.mx sp).fills with
  | [] => s
  | f :: rest =>
    if anyRowBusy s f.addr f.len then s
    else
      let (s, bs) := memRead s (.stream sp) 0 f.addr f.len
      let keyed := bs.mapIdx (fun i b => (bufKey f.arr f.buf i, b))
      let s := s.updMx sp (fun x => { x with
        fills := rest, buf := SMap.setAll 0 x.buf (keyed.map (fun e => (e.1, e.2.1))),
        bufBad := SMap.setAll false x.bufBad (keyed.map (fun e => (e.1, e.2.2))) })
      if rest.any (fun g => decide (g.arr = f.arr ∧ g.buf = f.buf)) then s else bufState f.arr f.buf sp s 2 none

def execFillComplete (sp : SpindleId) (s : State) : Host.Outcome State Fault Refusal := running s (doFillComplete sp)

/-! ### Ownership and waiting (R255, R261, R268) -/

def mctlInsn (func : Nat) (c : Bool) (t : TileId) (ga gd : Reg6) : Insn :=
  { word := word1 (func * 2 ^ 28 + boolNat c * 2 ^ 20 + t.val * 2 ^ 18 + ga.toNat * 2 ^ 12 + gd.toNat * 2 ^ 6 + 0x3B), cls := .vm,
    reads := [ga.toNat], writes := [gd.toNat] }

/-- DESIGN CHOICE: assumption 53. -/
def mtakeBody (is : Issue) (j : TileId) (gd : Reg6) (s : State) : Res :=
  let n := spindleOf is.thr
  let x := s.thr is.thr
  let t := s.tile n j
  if t.owner = none ∧ gemmBusy s = false then
    let s := s.updTile n j (fun y => { y with owner := some (threadIn is.thr, x.world) })
    .done (s.updThr is.thr (fun y => ((y.setUcr (CR.TFLAGS j.val) 0).setUcr (CR.TDSTAT j.val) 0).wg gd 1)) none
  else .done (s.updThr is.thr (fun y => y.wg gd (if tileUsable s is.thr j then 1 else 0))) none

def execMtake (is : Issue) (j : TileId) (gd : Reg6) (s : State) : Host.Outcome State Fault Refusal :=
  .next (issue s is (mctlInsn 0 false j 0 gd) (mtakeBody is j gd))

def releaseTile (s : State) (n : SpindleId) (j : TileId) : State :=
  settleTiles (s.updTile n j (fun y => { y with releasing := true })) n j

def notOwned (s : State) (j : TileId) : Res := .trap s ⟨Cause.TILE_OWN, 0, BitVec.ofNat 64 j.val⟩

def mrelBody (is : Issue) (j : TileId) (s : State) : Res :=
  if owns s is.thr j then .done (releaseTile s (spindleOf is.thr) j) none else notOwned s j

def execMrel (is : Issue) (j : TileId) (s : State) : Host.Outcome State Fault Refusal :=
  .next (issue s is (mctlInsn 1 false j 0 0) (mrelBody is j))

/-- A write of 1 to SPINDLE.MTILE.FREL (R268). -/
def doFrel (sp : SpindleId) (j : TileId) (s : State) : State :=
  match (s.tile sp j).owner with
  | some (k, false) => if (s.thr (thrOf sp k)).run = .halted then releaseTile s sp j else s
  | _ => s

def execFrel (sp : SpindleId) (j : TileId) (s : State) : Host.Outcome State Fault Refusal := running s (doFrel sp j)

/-- mwait's condition: no mop on the tile is queued or running, or the tile is IDLE with no drain queued. DESIGN CHOICE: assumption 53. -/
def tileReady (s : State) (n : SpindleId) (j : TileId) (c : Bool) : Bool :=
  if c then ((s.mx n).queuedOn j).isEmpty
  else decide ((s.tile n j).state = .idle) && (s.tile n j).drain.isNone

def mwaitBody (is : Issue) (j : TileId) (c : Bool) (s : State) : Res :=
  let n := spindleOf is.thr
  if owns s is.thr j then
    if tileReady s n j c then .done s none else .wait (s.updThr is.thr (fun x => { x with wait := .tile j }))
  -- the release completed while this mwait waited (R255)
  else if (s.thr is.thr).wait = .tile j then .done s none
  else notOwned s j

def execMwait (is : Issue) (j : TileId) (c : Bool) (s : State) : Host.Outcome State Fault Refusal :=
  .next (issue s is (mctlInsn 3 c j 0 0) (mwaitBody is j c))

def mstatBody (is : Issue) (j : TileId) (gd : Reg6) (s : State) : Res :=
  let n := spindleOf is.thr
  let v : Word := if owns s is.thr j then tileWord s n j else if (s.tile n j).owner.isSome then 4 else 0
  .done (s.updThr is.thr (fun x => x.wg gd v)) none

def execMstat (is : Issue) (j : TileId) (gd : Reg6) (s : State) : Host.Outcome State Fault Refusal :=
  .next (issue s is (mctlInsn 4 false j 0 gd) (mstatBody is j gd))

end Sys2Proof.Machine
end

