-- ==== Sys2Proof/Machine/Box.lean ====
section
/-! DEFINITION. The mailbox and the resident service (R535–R545): the doorbell and its checks, each command's work, the end of a
command, and ABORT. -/

namespace Sys2Proof.Machine
open Sys2Proof

/-! ### Statuses and parameters (R538, R545) -/

def BX.OK : Nat := 0
def BX.OK_EMPTY : Nat := 1
def BX.BAD_CMD : Nat := 2
def BX.ADDR_RANGE : Nat := 3
def BX.ACCESS : Nat := 4
def BX.LENGTH_RANGE : Nat := 5
def BX.RESOURCE : Nat := 6
def BX.POISONED : Nat := 7
def BX.TEST_FAIL : Nat := 8
def BX.ABORTED : Nat := 9
def BX.STATE : Nat := 10
def BX.AUTH : Nat := 11
def BX.OVERLAP : Nat := 12

/-- Word `i` of the latched command. -/
def boxWord (s : State) (i : Nat) : Word := BitVec.ofNat 64 (ofLe ((s.box.cmd.drop (8 * i)).take 8))
def boxOp (s : State) : Nat := (boxWord s 0).toNat % 256
def boxNat (s : State) (i : Nat) : Nat := (boxWord s i).toNat

/-- Word 0 holds nothing but the opcode. DESIGN CHOICE: assumption 85. -/
def headOk (s : State) : Bool := decide (boxNat s 0 < 256)

/-- An area lies wholly within HBM or within one pan (R539). -/
def areaOk (a n : Nat) : Bool :=
  match windowOf a with
  | .hbm => decide (a + n ≤ Config.hbmBytes)
  | .pan m => decide (a + n ≤ panAddr m Config.panBytes)
  | _ => false

/-- The first condition that holds, in order, gives the status. -/
def firstOf : List (Bool × Nat) → Option Nat
  | [] => none
  | (b, n) :: l => if b then some n else firstOf l

/-! ### GEMM's shape (R542) -/

structure Gemm where
  mf : MopFmt
  acc : Bool
  m : Nat
  n : Nat
  k : Nat
  a : Nat
  b : Nat
  c : Nat
  deriving DecidableEq, Repr

/-- The format combination, when GEMM allows it. -/
def gemmFmt (w : Nat) : Option MopFmt :=
  let af := w % 16
  let bf := w / 16 % 16
  if (af = bf ∧ (af = 0 ∨ af = 1 ∨ af = 3)) ∨ ((af = 4 ∨ af = 5) ∧ (bf = 4 ∨ bf = 5)) then mopFmt false af bf else none

def gemmOf (s : State) : Option Gemm :=
  match gemmFmt (boxNat s 1) with
  | some mf => some { mf := mf, acc := bit (boxWord s 1) 8, m := field (boxWord s 2) 31 0, n := field (boxWord s 2) 63 32, k := boxNat s 3 % 2 ^ 32, a := boxNat s 4, b := boxNat s 5, c := boxNat s 6 }
  | none => none

def elBytes (t : ElemTy) : Nat := t.width / 8
def Gemm.cBytes (g : Gemm) : Nat := if g.mf.acc = .f64 then 8 else 4
def Gemm.aLen (g : Gemm) : Nat := g.m * g.k * elBytes g.mf.a
def Gemm.bLen (g : Gemm) : Nat := g.k * g.n * elBytes g.mf.w
def Gemm.cLen (g : Gemm) : Nat := g.m * g.n * g.cBytes

def meets (a n b m : Nat) : Bool := decide (a < b + m) && decide (b < a + n)

/-- Some thread is not HALTED, or some tile is owned. -/
def devInUse (s : State) : Bool :=
  allThr.any (fun t => decide ((s.thr t).run ≠ .halted)) ||
    allSpindles.any (fun n => (List.finRange 4).any (fun j => (s.tile n j).owner.isSome))

/-! ### The checks (R545) -/

def portsOf (s : State) : List PortId := (List.finRange 16).filter (fun p => bit (boxWord s 1) p.val)
def linkMode (s : State) : Nat := field (boxWord s 1) 17 16

/-- The status that ends the latched command at once, if a check fails; `wait` says that it came in WAIT_IMAGE. DESIGN CHOICE: assumption 85. -/
def boxFault (s : State) (wait : Bool) : Option Nat :=
  let w := boxNat s
  let sealedIn (a n : Nat) := anySealed s a n
  if !headOk s then some BX.BAD_CMD
  else
    match boxOp s with
    | 0x01 => none
    | 0x02 => firstOf [(decide (w 2 % 256 ≠ 0) || decide (2 ^ 16 ≤ w 3) || decide (w 3 / 4 % 64 ≠ 0), BX.BAD_CMD), (decide (w 2 = 0), BX.OK_EMPTY), (!(decide (w 1 + w 2 ≤ Config.hbmBytes)), BX.ADDR_RANGE), (sealedIn (w 1) (w 2), BX.ACCESS)]
    | 0x03 => firstOf [(decide (w 3 = 0), BX.OK_EMPTY), (!areaOk (w 1) (w 3) || !areaOk (w 2) (w 3), BX.ADDR_RANGE), (sealedIn (w 1) (w 3) || sealedIn (w 2) (w 3), BX.ACCESS)]
    | 0x04 => firstOf [(decide (w 2 = 0), BX.OK_EMPTY), (!areaOk (w 1) (w 2), BX.ADDR_RANGE), (sealedIn (w 1) (w 2), BX.ACCESS)]
    | 0x05 => firstOf [(decide (w 3 % 128 = 0 ∨ 64 < w 3 % 128) || decide (w 3 / 128 % 2 ≠ 0) || decide (2 ^ 10 ≤ w 3), BX.BAD_CMD), (decide (w 2 = 0), BX.OK_EMPTY), (!areaOk (w 1) (w 2), BX.ADDR_RANGE), (sealedIn (w 1) (w 2), BX.ACCESS)]
    | 0x06 =>
      match gemmOf s with
      | none => some BX.BAD_CMD
      | some g => firstOf [(decide (2 ^ 9 ≤ w 1) || decide (2 ^ 32 ≤ w 3), BX.BAD_CMD), (decide (g.m = 0 ∨ g.n = 0 ∨ g.k = 0), BX.OK_EMPTY), (decide (2 ^ 24 < g.m ∨ 2 ^ 24 < g.n ∨ 2 ^ 24 < g.k), BX.LENGTH_RANGE), (!areaOk g.a g.aLen || !areaOk g.b g.bLen || !areaOk g.c g.cLen, BX.ADDR_RANGE), (sealedIn g.a g.aLen || sealedIn g.b g.bLen || sealedIn g.c g.cLen, BX.ACCESS), (meets g.c g.cLen g.a g.aLen || meets g.c g.cLen g.b g.bLen, BX.OVERLAP), (devInUse s, BX.RESOURCE)]
    | 0x07 => firstOf [(decide (2 ^ 17 ≤ w 1), BX.BAD_CMD), (decide (w 2 = 0 ∨ 60000 < w 2), BX.LENGTH_RANGE), (decide (linkMode s = 1) && (portsOf s).any (fun p => decide (portState s p = PS.UP)), BX.RESOURCE)]
    | 0x10 => firstOf [(decide (2 ≤ w 3), BX.BAD_CMD), (!wait, BX.STATE), (decide (w 2 = 0), BX.OK_EMPTY), (decide (0x100000 < w 2), BX.LENGTH_RANGE)]
    | _ => some BX.BAD_CMD

def State.updBox (s : State) (f : Mailbox → Mailbox) : State := { s with box := f s.box }
/-- The command's work is done. DESIGN CHOICE: assumption 86. -/
def boxResult (s : State) (st : Nat) (ws : List Word) : State := s.updBox (fun b => { b with result := some (st, ws) })
def boxProgress (s : State) (n : Nat) : State := s.setReg R.MBOX_PROGRESS (BitVec.ofNat 64 n)

/-- What LINKTEST does when it begins (R543): TRAIN enables each port, PRBS sends its test. -/
def linkBegins (s : State) : State :=
  if boxOp s = 7 then
    (portsOf s).foldl (fun z (p : PortId) => if linkMode s = 0 then (if portLive z p then z else enablePort z p) else testOn z p) s
  else s

/-- A write to MBOX.DOORBELL (R535). -/
def doDoorbell (seq : BitVec 16) (s : State) : State :=
  let st := s.fld R.MBOX_STATE F.MBOX_STATE_STATE
  let cmd := (List.range 32).flatMap (fun i => leBytes 8 (s.reg (R.MBOX_CMDBUF i)).toNat)
  let wait := decide (st = 1)
  if !mcUp s then s
  else if st = 3 ∨ (wait = true ∧ cmd.head? = some 0x10) then
    let s := s.updBox (fun _ => { active := true, cmd := cmd, seq := seq, result := none })
    let s := boxProgress (boxState s 4) 0
    match boxFault s wait with
    | some f => boxResult s f []
    | none => linkBegins s
  else s.setFlag R.MBOX_STATE F.MBOX_STATE_DBERR true

def execDoorbell (seq : BitVec 16) (s : State) : Host.Outcome State Fault Refusal := powered s (doDoorbell seq)

/-- The command in progress is `op` and its work is not done. -/
def working (s : State) (op : Nat) : Bool := s.box.active && decide (boxOp s = op) && s.box.result.isNone && mcUp s

/-- The work of command `op`. -/
def boxWork (s : State) (op : Nat) (f : State → State) : Host.Outcome State Fault Refusal :=
  running s (fun s => if working s op then f s else s)

/-! ### IDENTIFY (R540) -/

/-- Pseudo-channel `p` of stack `k` serves: it or its spare is in service. -/
def pchServes (s : State) (k : StackId) (p : Nat) : Bool :=
  decide (s.fld (R.MEM_STAT k) F.MEM_STAT_STATE = 1) && !(s.stack k).fenced.getLsbD p &&
    (!bit (s.reg (R.MEM_PCOOS k)) p || (s.flag (R.MEM_SPARE k) F.MEM_SPARE_USED && decide (s.fld (R.MEM_SPARE k) F.MEM_SPARE_SPARED = p)))

def bitsWhere (l : List Nat) (p : Nat → Bool) : Nat := (l.map (fun i => if p i then 2 ^ i else 0)).sum

def identity (s : State) : List Word :=
  let run := s.fld R.MC_FWSTAT F.MC_FWSTAT_RUNSLOT
  let vers (k : Nat) := s.fld R.MC_FWSTAT (if k = 0 then F.MC_FWSTAT_VERA else F.MC_FWSTAT_VERB)
  let mine := match s.sec.fw with | some i => i.version | none => 0
  let pchs := (allStacks.map (fun k => ((List.range 64).filter (pchServes s k)).length)).sum
  let upStacks := bitsWhere (List.range 24) (fun k => decide (s.fld (R.MEM_STAT k) F.MEM_STAT_STATE = 1))
  let spins := bitsWhere (List.range 12) (fun n => !bit (s.reg R.MC_FENCED) n)
  [s.reg R.GCTL_IDENT, Config.serial, BitVec.ofNat 64 (mine + run * 2 ^ 16 + vers (1 - run) * 2 ^ 32),
    BitVec.ofNat 64 (pchs * Config.granulesPerPch * 256),
    BitVec.ofNat 64 (upStacks + spins * 2 ^ 24 + 0xFFFF * 2 ^ 36),
    BitVec.ofNat 64 (field (s.reg R.GCTL_PCIESTAT) 10 0 + boolNat s.level1 * 2 ^ 16 + s.fld R.GCTL_STRAPS F.GCTL_STRAPS_BOOT_SEL * 2 ^ 18 +
      s.fld R.GCTL_GPIOSTAT F.GCTL_GPIOSTAT_CONFLICT * 2 ^ 32)]

def doIdentify (s : State) : State := boxResult s BX.OK (identity s)

def execIdentify (s : State) : Host.Outcome State Fault Refusal := boxWork s 0x01 doIdentify

/-! ### MEMTEST, COPY, FILL, CHECK (R541) -/

/-- The first `n` bytes of the test area take the pattern; codewords out of service are passed over. -/
def testWrites (s : State) (n : Nat) : State :=
  let a := boxNat s 1
  let p := BitVec.ofNat 2 (boxNat s 3)
  let seed := boxWord s 4
  (piecesOf 32 a n).foldl (fun z pc =>
    if inService z (hbmPlace z pc.1) then memWrite z .mc pc.1 ((List.range pc.2).map (fun i => Config.testByte p seed (pc.1 + i))) else z) s

/-- MEMTEST: the testers found the codewords at `fails` failing and corrected others. -/
def doMemtest (fails : List Nat) (corrected : Nat) (s : State) : State :=
  let a := boxNat s 1
  let n := boxNat s 2
  let s := boxProgress (testWrites s n) n
  let bad := ((fails.map (fun x => x / 32 * 32)).filter (fun x =>
    decide (a / 32 * 32 ≤ x ∧ x < a + n) && inService s (hbmPlace s x))).eraseDups
  let first := bad.foldl min (bad.headD 0)
  let (s, none?) := s.freeWord
  let badStacks := bitsWhere (List.range 24) (fun k => bad.any (fun x => decide ((hbmPlace s x).stack = k)))
  boxResult s (if bad = [] then BX.OK else BX.TEST_FAIL)
    [BitVec.ofNat 64 bad.length, if bad = [] then none? else BitVec.ofNat 64 first, BitVec.ofNat 64 badStacks, BitVec.ofNat 64 corrected]

def execMemtest (fails : List Nat) (corrected : Nat) (s : State) : Host.Outcome State Fault Refusal :=
  boxWork s 0x02 (doMemtest fails corrected)

/-- The first `n` bytes of a COPY; every byte is the source's as the command found it (R397). DESIGN CHOICE: assumption 87. -/
def copyBytes (s : State) (n : Nat) : State × Bool :=
  let (s, bs) := memRead s .mc 0 (boxNat s 2) n
  (memWriteMarked s .mc (boxNat s 1) bs, bs.any (·.2))

def doMailboxCopy (s : State) : State :=
  let n := boxNat s 3
  let (s, bad) := copyBytes s n
  boxResult (boxProgress s n) (if bad then BX.POISONED else BX.OK) [BitVec.ofNat 64 n]

def execMailboxCopy (s : State) : Host.Outcome State Fault Refusal := boxWork s 0x03 doMailboxCopy

def fillBytes (s : State) (n : Nat) : State :=
  let v := leBytes 8 (boxNat s 3)
  memWrite s .mc (boxNat s 1) ((List.range n).map (fun i => v.getD (i % 8) 0))

def doFill (s : State) : State :=
  let n := boxNat s 2
  boxResult (boxProgress (fillBytes s n) n) BX.OK [BitVec.ofNat 64 n]

def execFill (s : State) : Host.Outcome State Fault Refusal := boxWork s 0x04 doFill

def doCheck (s : State) : State :=
  let n := boxNat s 2
  let (s, bs) := memRead s .mc 0 (boxNat s 1) n
  let w := boxNat s 3
  let r := crc (w % 128) (boxNat s 4 % 2 ^ (w % 128)) (boxNat s 5) (decide (w / 256 % 2 = 1)) (decide (w / 512 % 2 = 1)) (boxNat s 6) (bs.map (·.1))
  boxResult (boxProgress s n) (if bs.any (·.2) then BX.POISONED else BX.OK) [BitVec.ofNat 64 r, BitVec.ofNat 64 n]

def execCheck (s : State) : Host.Outcome State Fault Refusal := boxWork s 0x05 doCheck

/-! ### GEMM (R542) -/

/-- Elements of an operand with their marks, one after another. -/
def operandEls (t : ElemTy) (bs : List (Byte × Bool)) : List (FVal × Bool) :=
  (chunksOf (elBytes t) bs.length bs).map (fun c => (opVal t (ofLe (c.map (·.1))), c.any (·.2)))

/-- The first `cnt` elements of C in row order: the state, the flags, and whether a byte read was Deferred. DESIGN CHOICE: assumption 87. -/
def gemmRun (s : State) (g : Gemm) (cnt : Nat) : State × Flags × Bool :=
  let (s, ab) := memRead s .mc 0 g.a g.aLen
  let (s, bb) := memRead s .mc 0 g.b g.bLen
  let (s, cb) := if g.acc then memRead s .mc 0 g.c g.cLen else (s, [])
  let a := chunksOf g.k g.m (operandEls g.mf.a ab)
  let b := operandEls g.mf.w bb
  let col (n : Nat) := (List.range g.k).map (fun k => b.getD (k * g.n + n) (.fin false 0 0, false))
  let cols := (List.range g.n).map col
  let old := chunksOf g.cBytes (g.m * g.n) cb
  let els := (List.range cnt).map (fun i =>
    let r := a.getD (i / g.n) []
    let c := cols.getD (i % g.n) []
    let o := old.getD i []
    let v := cellRun g.mf false g.acc true (ofLe (o.map (·.1))) 0 (r.map (·.1)) (c.map (·.1)) []
    (v.1, v.2.2, r.any (·.2) || c.any (·.2) || o.any (·.2)))
  let bytes := els.flatMap (fun e => (leBytes g.cBytes e.1).map (fun x => (x, e.2.2)))
  (memWriteMarked s .mc g.c bytes, els.foldl (fun f e => f ||| e.2.1) 0, ab.any (·.2) || bb.any (·.2) || cb.any (·.2))

def doGemm (elapsed : Word) (mismatches : Nat) (s : State) : State :=
  match gemmOf s with
  | none => s
  | some g =>
    let (s, fl, bad) := gemmRun s g (g.m * g.n)
    boxResult (boxProgress s (g.m * g.n)) (if bad then BX.POISONED else BX.OK) [fl.zeroExtend 64, elapsed, BitVec.ofNat 64 mismatches]

def execGemm (elapsed : Word) (mismatches : Nat) (s : State) : Host.Outcome State Fault Refusal :=
  boxWork s 0x06 (doGemm elapsed mismatches)

/-! ### LINKTEST and BOOTLOAD (R543, R544) -/

/-- Result word of port `p` (R540). DESIGN CHOICE: assumption 86. -/
def portResult (s : State) (p : PortId) (errs : Nat) : Word :=
  BitVec.ofNat 64 (s.fld (R.HANK_STAT p) F.HANK_STAT_STATE % 8 + boolNat (s.flag (R.HANK_STAT p) F.HANK_STAT_BONDED) * 2 ^ 3 +
    s.fld (R.HANK_PEER p) F.HANK_PEER_DEVID * 2 ^ 16 + s.fld (R.HANK_PEER p) F.HANK_PEER_PORT * 2 ^ 28 + min errs (2 ^ 32 - 1) * 2 ^ 32)

/-- LINKTEST ends; under PRBS port p has counted `errs` p bit errors, and TEST_FAIL stands for those alone, since a port in test is not UP.
DESIGN CHOICE: assumption 86. -/
def doLinktest (errs : List Nat) (s : State) : State :=
  let ps := portsOf s
  if linkMode s = 0 then
    let ws := (List.finRange 16).map (fun p => if p ∈ ps then portResult s p 0 else 0)
    boxResult s (if ps.all (fun p => decide (portState s p = PS.UP)) then BX.OK else BX.TEST_FAIL) ws
  else
    let s := ps.foldl (fun z (p : PortId) => testOff (z.bump (R.HANK_TESTERR p) (errs.getD p.val 0)) p) s
    let ws := (List.finRange 16).map (fun p => if p ∈ ps then portResult s p (errs.getD p.val 0) else 0)
    boxResult s (if ps.all (fun p => decide (errs.getD p.val 0 = 0)) then BX.OK else BX.TEST_FAIL) ws

def execLinktest (errs : List Nat) (s : State) : Host.Outcome State Fault Refusal := boxWork s 0x07 (doLinktest errs)

/-- The first `n` bytes of MBOX.DATA go to OFFSET of the image. -/
def loadImage (s : State) (n : Nat) : State :=
  let off := boxNat s 1
  let bs := (List.range ((n + 7) / 8)).flatMap (fun i => leBytes 8 (s.reg (R.MBOX_DATA i)).toNat)
  { s with boot := { s.boot with image := SMap.setAll 0 s.boot.image ((bs.take n).mapIdx (fun i b => (off + i, b))) } }

/-- The image that BOOTLOAD has assembled, of the length that its header gives. -/
def hostImage (s : State) : List Byte :=
  let at' (n : Nat) := (List.range n).map (SMap.get 0 s.boot.image)
  at' (512 + min (bytesAt (at' 512) 0x018 8) 0x400000)

def doBootload (s : State) : State :=
  let n := boxNat s 2
  let s := boxProgress (loadImage s n) n
  if boxNat s 3 = 1 then
    match verifyImage s 1 (hostImage s) with
    | .ok _ => boxResult s BX.OK []
    | _ => boxResult s BX.AUTH []
  else boxResult s BX.OK []

def execBootload (s : State) : Host.Outcome State Fault Refusal := boxWork s 0x10 doBootload

/-! ### The end of a command (R536, R544) -/

/-- The state that a command leaves: a BOOTLOAD in WAIT_IMAGE starts a verified image or waits on; any other ends in READY. DESIGN CHOICE: assumption 88. -/
def boxLeaves (s : State) (st : Nat) : State :=
  if boxOp s = 0x10 ∧ s.sec.fw = none then
    if st = BX.OK ∧ boxNat s 3 = 1 then
      match verifyImage s 1 (hostImage s) with
      | .ok i => startFirmware s 2 i
      | _ => boxState s 1
    else boxState s 1
  else boxState s 3

def doCommandEnd (s : State) : State :=
  if !(s.box.active && mcUp s) then s
  else
    match s.box.result with
    | none => s
    | some (st, ws) =>
      let s := s.setReg (R.MBOX_RSPBUF 0) (BitVec.ofNat 64 (st + s.box.seq.toNat * 2 ^ 16))
      let s := (ws.mapIdx (fun i w => (i + 1, w))).foldl (fun z e => z.setReg (R.MBOX_RSPBUF e.1) e.2) s
      let s := s.setReg R.MBOX_DONE (BitVec.ofNat 64 (s.box.seq.toNat + st * 2 ^ 16))
      let s := boxLeaves s st
      mboxEvent (s.updBox (fun _ => {})) 0

def execCommandEnd (s : State) : Host.Outcome State Fault Refusal := powered s doCommandEnd

/-! ### ABORT (R537) -/

/-- A write of 1 to MBOX.CTRL.ABORT: the command stops after its first `n` bytes or elements. DESIGN CHOICE: assumption 88. -/
def doMboxAbort (n : Nat) (s : State) : State :=
  if !(s.box.active && s.box.result.isNone && mcUp s) then s
  else
    let upTo (len : Nat) := min n len
    let (s, k) : State × Nat :=
      if s.stopped then (s, 0)
      else
        match boxOp s with
        | 0x02 => (testWrites s (upTo (boxNat s 2)), upTo (boxNat s 2))
        | 0x03 => ((copyBytes s (upTo (boxNat s 3))).1, upTo (boxNat s 3))
        | 0x04 => (fillBytes s (upTo (boxNat s 2)), upTo (boxNat s 2))
        | 0x05 => (s, upTo (boxNat s 2))
        | 0x06 =>
          match gemmOf s with
          | some g => ((gemmRun s g (upTo (g.m * g.n))).1, upTo (g.m * g.n))
          | none => (s, 0)
        | 0x07 => ((portsOf s).foldl (fun z (p : PortId) => if linkMode s = 1 then testOff z p else z) s, 0)
        | 0x10 => (loadImage s (upTo (boxNat s 2)), upTo (boxNat s 2))
        | _ => (s, 0)
    boxResult (boxProgress s k) BX.ABORTED []

def execMboxAbort (n : Nat) (s : State) : Host.Outcome State Fault Refusal := powered s (doMboxAbort n)

end Sys2Proof.Machine
end

