-- ==== Sys2Proof/Machine/Ply.lean ====
section
/-! DEFINITION. Ply-F8 and Ply-I4 blocks: decoding (R152, R156) and encoding (R157). -/

namespace Sys2Proof.Machine
open Sys2Proof

/-- An encoded block: its 32 element codes, or none where R157 makes a zero or NaN block and states only the scale; the scale
byte; the flags. -/
structure PlyBlk where
  elems : Option (List Nat)
  scale : Nat
  fl : Flags
  deriving DecidableEq, Repr

/-- An element with its block's scale byte, decoded to `dst` (R156). -/
def plyDecode (f8 : Bool) (dst : FFmt) (scale code : Nat) : FRes :=
  if scale = 0 then { bits := 0 }
  else if scale = 255 then { bits := dst.canonNan }
  else if f8 then
    match e4m3.unpack code with
    | .fin n s e => roundMag dst .rne .ieee n s (e + ((scale : Int) - 127))
    | _ => { bits := dst.canonNan }
  else
    let i := sextNat code 4
    roundMag dst .rne .ieee (decide (i < 0)) i.natAbs ((scale : Int) - 127)

/-- The smallest s from −126 to 127 with m·2^e ≤ M·2^s; 127 when none is (R157). -/
def plyExp (M m : Nat) (e : Int) : Int :=
  let le (s : Int) : Bool := if s ≤ e then decide (m * 2 ^ (e - s).toNat ≤ M) else decide (m ≤ M * 2 ^ (s - e).toNat)
  let s0 : Int := e + bitLen m - bitLen M - 1
  let s := if le s0 then s0 else if le (s0 + 1) then s0 + 1 else if le (s0 + 2) then s0 + 2 else s0 + 3
  if s < -126 then -126 else if 127 < s then 127 else s

/-- One element of a block (R157 steps 4 and 5). -/
def plyElem (f8 : Bool) (s : Int) (v : FVal) : FRes :=
  match v with
  | .nan n q => { bits := e4m3.withSign n e4m3.canonNan, fl := if q then 0 else NV }
  | .inf _ => { bits := 0 }
  | .fin n sig e =>
    if f8 then
      let r := roundMag e4m3 .rne .largest n sig (e - s)
      let nx := r.fl &&& (OF ||| NX)
      { r with fl := nx ||| (if sig ≠ 0 ∧ e4m3.mag r.bits = 0 then UF ||| NX else 0) }
    else
      let (k, inx) := roundAt .rne n sig (e - s) false 0
      let code (k : Nat) : Nat := if n then intBits 4 (-(k : Int)) else k
      if 7 < k then { bits := code 7, fl := OF ||| NX }
      else { bits := code k, fl := (if inx then NX else 0) ||| (if sig ≠ 0 ∧ k = 0 then UF else 0) }

/-- The larger of two nonnegative dyadic magnitudes. -/
def maxMag (a b : Nat × Int) : Nat × Int := if (dyOf false a.1 a.2).lt (dyOf false b.1 b.2) then b else a

/-- The block of 32 inputs (R157). DESIGN CHOICE: assumption 35. -/
def plyEncode (f8 : Bool) (xs : List FVal) : PlyBlk :=
  let isInf (v : FVal) := match v with | .inf _ => true | _ => false
  let isNanIn (v : FVal) := match v with | .nan _ _ => true | _ => false
  if xs.any isInf || (!f8 && xs.any isNanIn) then { elems := none, scale := 255, fl := NV }
  else
    let a := xs.foldl (fun m v => match v with | .fin _ s e => maxMag m (s, e) | _ => m) (0, 0)
    if a.1 = 0 ∧ xs.any isNanIn = false then { elems := none, scale := 0, fl := 0 }
    else
      let s : Int := if a.1 = 0 then 0 else plyExp (if f8 then 448 else 7) a.1 a.2
      let rs := xs.map (plyElem f8 s)
      { elems := some (rs.map (·.bits)), scale := (s + 127).toNat, fl := rs.foldl (fun f r => f ||| r.fl) 0 }

/-- Bytes of a packed block (R153). -/
def plySize (f8 : Bool) : Nat := if f8 then 33 else 17

/-- The element codes of a zero or NaN block are not stated: free bytes from the counter on. -/
def plyPacked (f8 : Bool) (free : Nat) (b : PlyBlk) : List Byte :=
  (match b.elems with
  | some es => leBytes (plySize f8 - 1) (packElems (if f8 then 8 else 4) es)
  | none => (List.range (plySize f8 - 1)).map (fun i => Config.freeByte (free + i))) ++ [BitVec.ofNat 8 b.scale]

end Sys2Proof.Machine
end

