-- ==== Sys2Proof/Machine/Drain.lean ====
section
/-! DEFINITION. Drains (07_drain.md): mdrain and what it reads (R281), drain programs and their checks (R282–R292), the stages
(R284–R287, R294), the routes and poison (R288–R290, R295). -/

namespace Sys2Proof.Machine
open Sys2Proof

/-! ### Programs (R282, R283) -/

structure DStage where
  op : Nat
  mode : Nat
  p1 : Nat
  p2 : Nat
  imm : Nat
  addr : Nat
  rsv : Nat
  deriving DecidableEq, Repr

def dstageOf (w : Nat) : DStage :=
  { op := w % 256, mode := w / 2 ^ 8 % 256, p1 := w / 2 ^ 16 % 256, p2 := w / 2 ^ 24 % 256, imm := w / 2 ^ 32 % 2 ^ 32,
    addr := w / 2 ^ 64 % 2 ^ 48, rsv := w / 2 ^ 112 % 2 ^ 16 }

/-- A working type: that of an element, or a Ply block (F8 or I4). -/
inductive WTy where
  | el (t : ElemTy)
  | ply (f8 : Bool)
  deriving DecidableEq, Repr

def WTy.isFloat (w : WTy) : Bool := decide (w = .el (.float fp32)) || decide (w = .el (.float fp64))
/-- Bytes of one row of `cols` values. -/
def WTy.rowBytes (w : WTy) (cols : Nat) : Nat :=
  match w with
  | .el t => cols * t.width / 8
  | .ply f8 => cols / 32 * plySize f8

/-- The working type at the start (R284). -/
def startTy (acc : AccTy) (iraw : Bool) : WTy :=
  match acc with
  | .f32 => .el (.float fp32)
  | .f64 => .el (.float fp64)
  | .i32 => if iraw then .el (.int true 32) else .el (.float fp32)

/-- The accumulator of a tile's contents; the formats of a tile that holds none read zero. -/
def tileAcc (s : State) (t : Tile) : AccTy :=
  match mopFmt s.level1 t.afmt.toNat t.wfmt.toNat with
  | some mf => mf.acc
  | none => .f32

def convertTarget (p1 : Nat) : Option WTy :=
  if p1 < 16 then some (.el (elemTy p1)) else if p1 = 16 then some (.ply true) else if p1 = 17 then some (.ply false) else none

/-- XMIN, STEP, HI of an ACT stage with HI rounded to FP32, or none when HI is not finite (R286). -/
structure ActParams where
  xmin : Dy
  se : Int
  hi : Dy
  hib : Nat
  deriving DecidableEq, Repr

def actParams (d : DStage) : Option ActParams :=
  let se := sextNat d.p1 8
  match fp32.unpack d.imm with
  | .fin n s e =>
    let xmin := dyOf n s e
    let hi := xmin.add { m := 64, e := se }
    let r := roundDy fp32 .rne .ieee hi false
    if r.fl &&& OF = 0 then some { xmin := xmin, se := se, hi := hi, hib := r.bits } else none
  | _ => none

/-- A stage is well formed after what came before it (R285, R291). DEDUCED: assumption 33. -/
def stageLegal (iraw : Bool) (wt : WTy) (conv : Bool) (d : DStage) : Bool :=
  let isPly := match wt with | .ply _ => true | _ => false
  decide (d.rsv = 0) && (!isPly || decide (d.op = 5)) &&
  (match d.op with
  | 1 | 2 =>
    decide (d.mode ≤ 3 ∧ d.p1 = 0 ∧ d.p2 = 0) && (decide (d.mode ≠ 0) || decide (d.addr = 0)) &&
      (decide (d.mode = 0 ∨ d.mode = 3) || decide (d.imm = 0)) && wt.isFloat && !conv && !iraw
  | 3 =>
    decide (d.mode = 0 ∧ d.p2 < 16) && decide (wt = .el (.float fp32)) && !conv && !iraw &&
      decide (-96 ≤ sextNat d.p1 8 ∧ sextNat d.p1 8 ≤ 96) && (actParams d).isSome
  | 4 =>
    decide (d.mode = 0 ∧ d.p2 = 0 ∧ d.imm = 0 ∧ d.addr = 0) &&
      (match convertTarget d.p1 with
      | none => false
      | some (.ply _) => !iraw && wt.isFloat
      | some (.el (.float _)) => !iraw
      | some (.el (.int _ _)) => true)
  | 5 =>
    decide (d.mode ≤ 2 ∧ d.p2 = 0) && (decide (d.mode ≠ 0) || decide (d.p1 = 0)) &&
      (decide (d.mode ≠ 1) || decide (d.p1 < 32 ∧ d.imm = 0 ∧ d.addr = 0)) && (decide (d.mode ≠ 2) || decide (d.p1 < 64))
  | _ => false)

/-- What an issue reads for a stage: a vector or a table, by address and length (R281). -/
def stageRead (wt : WTy) (rows cols : Nat) (d : DStage) : Option (Nat × Nat) :=
  let sz := match wt with | .el t => t.width / 8 | .ply _ => 0
  if (d.op = 1 ∨ d.op = 2) ∧ d.mode = 1 then some (d.addr, cols * sz)
  else if (d.op = 1 ∨ d.op = 2) ∧ d.mode = 2 then some (d.addr, rows * sz)
  else if d.op = 3 then some (d.addr, 1024)
  else none

def nextTy (wt : WTy) (d : DStage) : WTy := if d.op = 4 then (match convertTarget d.p1 with | some w => w | none => wt) else wt

/-- The stages with the working type before each. -/
def typedStages (wt : WTy) : List DStage → List (DStage × WTy)
  | [] => []
  | d :: l => (d, wt) :: typedStages (nextTy wt d) l

/-! ### Issue (R281) -/

/-- The extent lies wholly in HBM or in one pan (R288, R292). -/
def inOneStore (a n : Nat) : Bool :=
  match extentEnd a with
  | some e => decide (a + n ≤ e)
  | none => false

/-- No address of the extent lies outside HBM and the pans (R292). -/
def inStores (a n : Nat) : Bool :=
  decide (a + n ≤ Config.hbmBytes) || decide (Config.panBase ≤ a ∧ a + n ≤ Config.panBase + 12 * Config.panBytes)

/-- A read under the drain's rights; an extent that fails reads nothing. -/
def drainRead (s : State) (n : SpindleId) (d : Drain) (a len : Nat) : State × List (Byte × Bool) :=
  if inStores a len && (extentDenied s d.world d.level d.ranges .load a len).isNone then memRead s (.drain n) 0 a len else (s, [])

def hdrNst (hdr : List (Byte × Bool)) : Nat := ofLe (hdr.map (·.1)) % 64

def stagesOf (prog : List (Byte × Bool)) : List DStage :=
  (List.range ((prog.length - 16) / 16)).map (fun j => dstageOf (ofLe (((prog.drop (16 + 16 * j)).take 16).map (·.1))))

def progIraw (prog : List (Byte × Bool)) : Bool := decide (ofLe ((prog.take 1).map (·.1)) / 64 % 2 = 1)

/-- The program and the operands as the issue reads them. -/
def readProgram (s : State) (n : SpindleId) (j : TileId) (d : Drain) : State × Drain :=
  let t := s.tile n j
  let (s, hdr) := drainRead s n d d.addr 16
  let (s, body) := if hdr = [] ∨ hdrNst hdr = 0 then (s, []) else drainRead s n d (d.addr + 16) (16 * hdrNst hdr)
  let prog := hdr ++ body
  let st := typedStages (startTy (tileAcc s t) (progIraw prog)) (stagesOf prog)
  let (s, ops) := st.foldl (fun (acc : State × List (List (Byte × Bool))) e =>
    match stageRead e.2 (shapeRows t.shape.toNat) (shapeCols t.shape.toNat) e.1 with
    | some (a, len) => let (z, bs) := drainRead acc.1 n d a len; (z, acc.2 ++ [bs])
    | none => (acc.1, acc.2 ++ [[]])) (s, [])
  (s, { d with prog := prog, operands := ops })

/-- What a drain that issues now would read (R281): some of it lies in a row that is being copied (R342). -/
def programBusy (s : State) (n : SpindleId) (j : TileId) (d : Drain) : Bool :=
  let t := s.tile n j
  let prog := (readProgram s n j d).2.prog
  let st := typedStages (startTy (tileAcc s t) (progIraw prog)) (stagesOf prog)
  anyRowBusy s d.addr 528 ||
    st.any (fun e => match stageRead e.2 (shapeRows t.shape.toNat) (shapeCols t.shape.toNat) e.1 with
      | some (a, len) => anyRowBusy s a len
      | none => false)

/-- The thread's stores leave its store queue first (R281). -/
def mdrainBody (is : Issue) (j : TileId) (ga : Reg6) (s : State) : Res :=
  let n := spindleOf is.thr
  let x := s.thr is.thr
  let t := s.tile n j
  if !tileUsable s is.thr j then notOwned s j
  else if (x.rg ga).toNat % 64 ≠ 0 then .trap s ⟨Cause.ALIGN, 0, x.rg ga⟩
  else if t.state = .draining ∨ t.drain.isSome = true ∨ t.boundTo.isSome = true then .wait s
  else
    let d : Drain := { thr := threadIn is.thr, world := x.world, level := x.level, ranges := rangesOf x x.world, addr := (x.rg ga).toNat, prog := [], operands := [] }
    if !x.storeQ.isEmpty || programBusy s n j d then .wait s
    else
      let (s, d) := readProgram s n j d
      let s := s.updTile n j (fun y => { y with drain := some d })
      .done (if t.state = .filling then s else s.updMx n (fun y => { y with ready := y.ready ++ [j] })) none

def execMdrain (is : Issue) (j : TileId) (ga : Reg6) (s : State) : Host.Outcome State Fault Refusal :=
  .next (issue s is (mctlInsn 2 false j ga 0) (mdrainBody is j ga))

/-! ### Checks at start (R288–R292) -/

/-- The status of an extent: 0, 2 ADDR_RANGE or 3 ACCESS. What a drain reads lies in HBM and the pans (R292); what it writes lies
wholly in one of them (R288). DESIGN CHOICE: assumption 55. -/
def extentStatus (s : State) (d : Drain) (k : AccKind) (a n : Nat) : Nat :=
  if !(if k = .store then inOneStore a n else inStores a n) then 2 else if (extentDenied s d.world d.level d.ranges k a n).isSome then 3 else 0

/-- A stage's own status after the checks of form. DESIGN CHOICE: assumption 55. -/
def stageStatus (s : State) (d : Drain) (rows cols : Nat) (i : Nat) (e : DStage × WTy) : Nat :=
  match stageRead e.2 rows cols e.1 with
  | some (a, len) =>
    let st := extentStatus s d .load a len
    if st = 0 ∧ ((d.operands.getD i []).length ≠ len) then 3 else st
  | none =>
    if (e.1.op = 1 ∨ e.1.op = 2) ∧ e.1.mode = 3 then extentStatus s d .load e.1.addr ((rows - 1) * e.1.imm + e.2.rowBytes cols)
    else if e.1.op = 5 then
      if e.1.mode = 0 then extentStatus s d .store e.1.addr ((rows - 1) * e.1.imm + e.2.rowBytes cols)
      else if e.1.mode = 1 then (if 131072 < e.1.p1 * 4096 + rows * e.2.rowBytes cols then 4 else 0)
      else
        let ty := if e.2 = .el (.float fp32) then some 1 else if e.2 = .el (.float bf16) then some 3
          else if e.2 = .el (.float fp64) then some 0 else none
        match ty with
        | some c =>
          if reelTakes s ⟨e.1.p1 % 64, Nat.mod_lt _ (by decide)⟩ c (e.1.addr) (e.1.addr + (rows - 1) * e.1.imm + cols - 1) then 0 else 5
        | none => 5
    else 0

/-- The status and the first failing stage of a program (R291, R292); none when the drain may run. -/
def drainFault (s : State) (n : SpindleId) (j : TileId) (d : Drain) : Option (Nat × Nat) :=
  let t := s.tile n j
  let rows := shapeRows t.shape.toNat
  let cols := shapeCols t.shape.toNat
  let hdr := d.prog.take 16
  let h := ofLe (hdr.map (·.1))
  let nst := hdrNst hdr
  let st0 := extentStatus s d .load d.addr 16
  if st0 ≠ 0 then some (st0, 0x3F)
  else if hdr.length ≠ 16 then some (3, 0x3F)
  else if hdr.any (·.2) || decide (128 ≤ h) || decide ((if s.level1 then 16 else 32) < nst) then some (1, 0x3F)
  else
    let st1 := if nst = 0 then 0 else extentStatus s d .load (d.addr + 16) (16 * nst)
    if st1 ≠ 0 then some (st1, 0x3F)
    else if d.prog.length ≠ 16 + 16 * nst then some (3, 0x3F)
    else
      let iraw := progIraw d.prog
      let typed := typedStages (startTy (tileAcc s t) iraw) (stagesOf d.prog)
      let bad (i : Nat) : Nat :=
        match typed[i]? with
        | none => 0
        | some e =>
          let before := typed.take (i + 1)
          let read : Nat := (before.map (fun b => match stageRead b.2 rows cols b.1 with | some e => e.2 | none => 0)).sum
          let routes := (before.filter (fun b => decide (b.1.op = 5))).length
          let conv := (typed.take i).any (fun b => decide (b.1.op = 4))
          if ((d.prog.drop (16 + 16 * i)).take 16).any (·.2) || !stageLegal iraw e.2 conv e.1 || decide (4 < routes) ||
              decide (16384 < read) then 1
          else stageStatus s d rows cols i e
      match (List.range nst).find? (fun i => decide (bad i ≠ 0)) with
      | some i => some (bad i, i)
      | none => none

/-! ### The stages (R284–R287, R294, R295) -/

/-- A working value: its bits and whether it is poisoned. -/
abbrev WVal := Nat × Bool

/-- A slice between two stages: elements, or packed Ply blocks. -/
inductive SVals where
  | els (t : ElemTy) (vs : List WVal)
  | blocks (f8 : Bool) (bs : List (List Byte × Bool))
  deriving DecidableEq, Repr

/-- The working value of tile element (r, n) (R277, R284). -/
def workingValue (acc : AccTy) (iraw : Bool) (t sh : Tile) (c : Nat) : FRes :=
  let b := (SMap.get 0 t.cells c).toNat
  match acc with
  | .f64 => { bits := b }
  | .i32 => if iraw then { bits := b % 2 ^ 32 } else cvtIF fp32 .rne .ieee (sextNat b 32)
  | .f32 =>
    if t.wide then
      let lo := (SMap.get 0 sh.cells c).toNat % 2 ^ 32
      match fp32.unpack (b % 2 ^ 32), fp32.unpack lo with
      | .nan _ _, _ => { bits := fp32.canonNan }
      | .fin nh sh' eh, .fin nl sl el => roundDy fp32 .rne .ieee ((dyOf nh sh' eh).add (dyOf nl sl el)) (nh && nl)
      | _, _ => { bits := b % 2 ^ 32 }
    else { bits := b % 2 ^ 32 }

/-- The activation of one value (R286): c0 to c3 of each segment stand in `tab` as one number. -/
def actValue (p : ActParams) (xminBits : Nat) (lo hi : Nat) (tab : Nat) (x : Nat) : FRes :=
  let f := fp32
  match f.unpack x with
  | .nan _ q => { bits := f.canonNan, fl := if q then 0 else NV }
  | v =>
    let below := match v with | .inf n => n | .fin n s e => (dyOf n s e).lt p.xmin | _ => false
    let above := match v with | .inf n => !n | .fin n s e => !((dyOf n s e).lt p.hi) | _ => false
    let edge := if below then lo else hi
    if (below || above) && decide (edge = 2) then { bits := 0 }
    else if (below || above) && decide (edge = 3) then { bits := x }
    else
      let seg : Nat := if below then 0 else if above then 63 else
        match v with
        | .fin n s e =>
          let d := (dyOf n s e).add p.xmin.neg
          (if p.se ≤ d.e then d.m * 2 ^ (d.e - p.se).toNat else d.m / ((2 ^ (p.se - d.e).toNat : Nat) : Int)).toNat % 64
        | _ => 0
      let x := if (below || above) && decide (edge = 1) then (if below then xminBits else p.hib) else x
      let b := roundDy f .rne .ieee (p.xmin.add { m := seg, e := p.se }) false
      let t := fSub f .rne x b.bits
      let c (i : Nat) := tab / 2 ^ (128 * seg + 32 * i) % 2 ^ 32
      let y1 := fFma f .rne false false (c 3) t.bits (c 2)
      let y2 := fFma f .rne false false y1.bits t.bits (c 1)
      let y3 := fFma f .rne false false y2.bits t.bits (c 0)
      canonRes f { y3 with fl := b.fl ||| t.fl ||| y1.fl ||| y2.fl ||| y3.fl }

/-- The operand of SCALE or BIAS for element (r, n): bits in the working format, and its mark. `vec` is the vector, or row `r` of
the matrix. -/
def stageOperand (f : FFmt) (d : DStage) (vec : List (Byte × Bool)) (r n : Nat) : WVal :=
  let sz := f.width / 8
  if d.mode = 0 then ((if f = fp64 then (cvtFF fp32 fp64 .rne .ieee d.imm).bits else d.imm), false)
  else
    let i := if d.mode = 2 then r else n
    let bs := (vec.drop (i * sz)).take sz
    (ofLe (bs.map (·.1)), bs.any (·.2))

/-- The flags of widening a MODE 0 operand to the working format (R177, R294). -/
def operandFlags (f : FFmt) (d : DStage) : Flags := if d.mode = 0 ∧ f = fp64 then (cvtFF fp32 fp64 .rne .ieee d.imm).fl else 0

def convVal (sat : Bool) (src dst : ElemTy) (bits : Nat) : FRes :=
  let r := convert src dst .rne sat bits
  match dst with
  | .float f => canonRes f r
  | .int _ _ => r

/-- The value of an element for Ply encoding. -/
def elemFVal (t : ElemTy) (bits : Nat) : FVal :=
  match t with
  | .float f => f.unpack bits
  | .int sg w => let i := intVal sg w bits; .fin (decide (i < 0)) i.natAbs 0

/-- Stage `d` on the values of row `r` from column `c0` on, with the flags it sets; `free` numbers the free bytes of the row. DEDUCED: assumption 54. -/
def runStage (sat : Bool) (free r c0 : Nat) (d : DStage) (vec : List (Byte × Bool)) (v : SVals) : SVals × Flags :=
  match v with
  | .blocks f8 bs => (.blocks f8 bs, 0)
  | .els t vs =>
    match d.op with
    | 1 | 2 =>
      match t with
      | .float f =>
        let rs := vs.mapIdx (fun i x =>
          let o := stageOperand f d vec r (c0 + i)
          (canonRes f (if d.op = 1 then fMul f .rne x.1 o.1 else fAdd f .rne x.1 o.1), x.2 || o.2))
        (.els t (rs.map (fun e => (e.1.bits, e.2))), rs.foldl (fun a e => a ||| e.1.fl) (operandFlags f d))
      | .int _ _ => (v, 0)
    | 3 =>
      match actParams d with
      | none => (v, 0)
      | some p =>
        let tab := ofLe (vec.map (·.1))
        let bad := vec.any (·.2)
        let rs := vs.map (fun x => (actValue p d.imm (d.p2 % 4) (d.p2 / 4 % 4) tab x.1, x.2 || bad))
        (.els t (rs.map (fun e => (e.1.bits, e.2))), rs.foldl (fun a e => a ||| e.1.fl) 0)
    | 4 =>
      match convertTarget d.p1 with
      | some (.el u) =>
        let rs := vs.map (fun x => (convVal sat t u x.1, x.2))
        (.els u (rs.map (fun e => (e.1.bits, e.2))), rs.foldl (fun a e => a ||| e.1.fl) 0)
      | some (.ply f8) =>
        let bs := (chunksOf 32 vs.length vs).mapIdx (fun i c =>
          let b := plyEncode f8 ((c.map (fun x => elemFVal t x.1)).map (fun w => match w with | .nan _ q => .nan false q | u => u))
          (plyPacked f8 (free + (c0 / 32 + i) * 32) b, c.any (·.2), b.fl))
        (.blocks f8 (bs.map (fun e => (e.1, e.2.1))), bs.foldl (fun a e => a ||| e.2.2) 0)
      | none => (v, 0)
    | _ => (v, 0)

/-- Neighbouring pieces of equal mark join. -/
def joinPieces : List (List Byte × Bool) → List (List Byte × Bool)
  | [] => []
  | p :: l =>
    match joinPieces l with
    | q :: r => if p.2 = q.2 then (p.1 ++ q.1, p.2) :: r else p :: q :: r
    | [] => [p]

/-- Elements as pieces of whole bytes with their marks. -/
def elemPieces (t : ElemTy) (vs : List WVal) : List (List Byte × Bool) :=
  if t.width = 4 then
    (chunksOf 2 vs.length vs).map (fun c => ([BitVec.ofNat 8 (packElems 4 (c.map (·.1)))], c.any (·.2)))
  else vs.map (fun x => (leBytes (t.width / 8) x.1, x.2))

def slicePieces (v : SVals) : List (List Byte × Bool) :=
  match v with
  | .els t vs => elemPieces t vs
  | .blocks _ bs => bs

/-- What a vector register receives for poison (R295). -/
def poisonBits (t : ElemTy) : Nat :=
  match t with
  | .float f => f.canonNan
  | .int sg w => intBits w (intMin sg w)

def vregBytes (free : Nat) (v : SVals) : List Byte :=
  match v with
  | .els t vs => (elemPieces t (vs.map (fun x => (if x.2 then poisonBits t else x.1, false)))).flatMap (·.1)
  | .blocks f8 bs => (bs.mapIdx (fun i b => if b.2 then plyPacked f8 (free + i * 32) { elems := none, scale := 255, fl := 0 } else b.1)).flatten

def piecesAt (a : Nat) : List (List Byte × Bool) → List Delivery
  | [] => []
  | p :: l => .mem a p.1 p.2 :: piecesAt (a + p.1.length) l

/-- A ROUTE stage on the slice of row `r` from column `c0` on of a tile of `cols` columns (R288–R290). -/
def routeSlice (free r c0 cols : Nat) (d : DStage) (w : WTy) (v : SVals) : List Delivery :=
  let rowB := w.rowBytes cols
  let at0 := w.rowBytes c0
  if d.mode = 0 then piecesAt (d.addr + r * d.imm + at0) (joinPieces (slicePieces v))
  else if d.mode = 1 then [.vreg (d.p1 * 4096 + r * rowB + at0) (vregBytes (free + 512 + c0) v)]
  else
    match v with
    | .els t vs => vs.mapIdx (fun i x => .reel d.p1 (d.addr + r * d.imm + c0 + i) (BitVec.ofNat 64 x.1) (t.width / 8) x.2)
    | .blocks _ _ => []

/-- The slices of a tile in order: row, first column, columns (R278). -/
def slicesOf (shape : Nat) : List (Nat × Nat × Nat) :=
  if shape = 0 then (List.range 128).map (fun i => (i, 0, 128))
  else if shape = 1 then (List.range 128).map (fun i => (i / 2, 128 * (i % 2), 128))
  else (List.range 32).map (fun i => (i, 0, 512))

/-- One slice through all stages: its deliveries, its flags, and whether it delivered poison. -/
def runSlice (s : State) (t sh : Tile) (acc : AccTy) (iraw : Bool) (stages : List (DStage × WTy)) (vecs : List (List (List (Byte × Bool))))
    (sl : Nat × Nat × Nat) : List Delivery × Flags × Bool :=
  let (r, c0, nc) := sl
  let shape := t.shape.toNat
  let cols := shapeCols shape
  let free := s.free + r * 1024
  let ws := (List.range nc).map (fun i =>
    let c := cellOf shape r (c0 + i)
    (workingValue acc iraw t sh c, SMap.get false t.poison c))
  let ty := match startTy acc iraw with | .el e => e | .ply _ => .float fp32
  let init : SVals × List Delivery × Flags × Bool := (.els ty (ws.map (fun e => (e.1.bits, e.2))), [], ws.foldl (fun a e => a ||| e.1.fl) 0, false)
  let (_, out, fl, pz) := (stages.zip vecs).foldl (fun acc e =>
    let (v, out, fl, pz) := acc
    if e.1.1.op = 5 then
      let bad := (slicePieces v).any (·.2)
      (v, out ++ routeSlice free r c0 cols e.1.1 e.1.2 v, fl, pz || bad)
    else
      let (v', f) := runStage (!s.level1) free r c0 e.1.1 (e.2.getD r []) v
      (v', out, fl ||| f, pz)) init
  (out, fl, pz)

/-! ### Start and completion (R279, R292, R293, R295) -/

/-- The Sealed context of thread `k` is out of the thread's registers: suspended (R123), or saved by a halt (R128, R129). -/
def sealedOut (s : State) (n : SpindleId) (k : Fin 4) : Bool :=
  let x := s.thr (thrOf n k)
  x.suspended.isSome || (decide (x.run = .halted) && x.world)

/-- A drain whose owner is a suspended Sealed context holds at its start (R289). -/
def drainHolds (s : State) (n : SpindleId) (d : Drain) : Bool := d.world && sealedOut s n d.thr

/-- Rows of a matrix that the drain reads as it runs are being copied (R342). -/
def matrixBusy (s : State) (n : SpindleId) (j : TileId) (d : Drain) : Bool :=
  let t := s.tile n j
  (typedStages (startTy (tileAcc s t) (progIraw d.prog)) (stagesOf d.prog)).any (fun e =>
    decide ((e.1.op = 1 ∨ e.1.op = 2) ∧ e.1.mode = 3) &&
      (List.range (shapeRows t.shape.toNat)).any (fun r => anyRowBusy s (e.1.addr + r * e.1.imm) (e.2.rowBytes (shapeCols t.shape.toNat))))

/-- The drain path of the tile's array is in use (R279, R292). -/
def pathBusy (s : State) (n : SpindleId) (j : TileId) : Bool :=
  (List.finRange 4).any (fun k => decide (arrayOf k = arrayOf j) && (s.tile n k).running.isSome)

/-- The rows of a MODE 3 matrix, read as the drain runs (R285). -/
def readMatrix (s : State) (n : SpindleId) (d : DStage) (w : WTy) (rows cols : Nat) : State × List (List (Byte × Bool)) :=
  (List.range rows).foldl (fun acc r =>
    let (z, bs) := memRead acc.1 (.drain n) 0 (d.addr + r * d.imm) (w.rowBytes cols)
    (z, acc.2 ++ [bs])) (s, [])

/-- The operand bytes of each stage: those read at issue, the same for every row, or the rows of its matrix. -/
def readMatrices (s : State) (n : SpindleId) (d : Drain) (rows cols : Nat) (stages : List (DStage × WTy)) :
    State × List (List (List (Byte × Bool))) :=
  stages.foldl (fun (a : State × List (List (List (Byte × Bool)))) (e : DStage × WTy) =>
    if (e.1.op = 1 ∨ e.1.op = 2) ∧ e.1.mode = 3 then
      let r := readMatrix a.1 n e.1 e.2 rows cols
      (r.1, a.2 ++ [r.2])
    else (a.1, a.2 ++ [List.replicate rows (d.operands.getD a.2.length [])])) (s, [])

/-- The drain of tile `j` starts and its slices are computed. DESIGN CHOICE: assumption 55. -/
def startDrain (s : State) (n : SpindleId) (j : TileId) (d : Drain) : State :=
  let s := s.updMx n (fun x => { x with ready := x.ready.erase j })
  let fault := drainFault s n j d
  let s := s.updTile n j (fun y => { y with drain := none })
  let s := setTileState s n j .draining
  match fault with
  | some (st, stage) =>
    (s.bump (R.SPINDLE_DFAIL n) 1).updTile n j (fun y => { y with running := some { thr := d.thr, world := d.world, out := [], flags := 0, poison := false, reels := [], status := st, stage := stage } })
  | none =>
    let t := s.tile n j
    let rows := shapeRows t.shape.toNat
    let cols := shapeCols t.shape.toNat
    let acc := tileAcc s t
    let iraw := progIraw d.prog
    let stages := typedStages (startTy acc iraw) (stagesOf d.prog)
    let (s, vecs) := readMatrices s n d rows cols stages
    let res := (slicesOf t.shape.toNat).map (runSlice s t (s.tile n (shadowOf j)) acc iraw stages vecs)
    let s := { s with free := s.free + 131072 }
    let reels := (stages.mapIdx (fun i e => (e.1.p1, i, decide (e.1.op = 5 ∧ e.1.mode = 2)))).filterMap (fun e =>
      if e.2.2 then some (e.1, e.2.1, s.fld (R.REEL_SSTAT e.1) F.REEL_SSTAT_SEQ) else none)
    s.updTile n j (fun y => { y with running := some { thr := d.thr, world := d.world, out := res.flatMap (·.1), flags := res.foldl (fun a e => a ||| e.2.1) 0, poison := res.any (fun e => e.2.2), reels := reels, status := 0, stage := 0 } })

def doDrainStart (sp : SpindleId) (j : TileId) (up : List Upset) (s : State) : State :=
  let t := s.tile sp j
  match t.drain with
  | none => s
  | some d =>
    let next := (s.mx sp).ready.find? (fun k => decide (arrayOf k = arrayOf j))
    if next = some j ∧ (t.state = .full ∨ t.state = .idle) ∧ drainHolds s sp d = false ∧ pathBusy s sp j = false ∧
        matrixBusy s sp j d = false then startDrain (strikes s up) sp j d else s

/-- A write to vector registers v0–v31 taken as one string of bytes. -/
def writeVregs (x : Thread) (off : Nat) (data : List Byte) : Thread :=
  (piecesOf 4096 off data.length).foldl (fun z pc =>
    if h : pc.1 / 4096 < 32 then
      let r : Fin 32 := ⟨pc.1 / 4096, h⟩
      let sh := 8 * (pc.1 % 4096)
      let old := z.v[r].toNat
      let new := old - old / 2 ^ sh % 2 ^ (8 * pc.2) * 2 ^ sh + ofLe ((data.drop (pc.1 - off)).take pc.2) * 2 ^ sh
      { z with v := z.v.set r (BitVec.ofNat 32768 new) }
    else z) x

/-- Lines of L1D and L1I of Spindle `n` that a drain's write touches go (R288). -/
def dropLines (s : State) (n : SpindleId) (a len : Nat) : State :=
  (piecesOf 64 a len).foldl (fun z pc =>
    invalLine (invalLine z n true (pc.1 / 64)) n false (pc.1 / 64)) s

/-- The collective for which the drain's route to `slot` began still runs (R293). -/
def routeOpen (s : State) (g : Draining) (slot : Nat) : Bool :=
  slotBusy s ⟨slot % 64, Nat.mod_lt _ (by decide)⟩ &&
    (match g.reels.find? (fun e => decide (e.1 = slot)) with
     | some e => decide (s.fld (R.REEL_SSTAT slot) F.REEL_SSTAT_SEQ = e.2.2)
     | none => false)

/-- What the drain has to deliver cannot go now: a row or granule that it writes is being copied (R342, R345), or the registers hold
another context's values than its owner's (R289). DESIGN CHOICE: assumption 55. -/
def deliveryHeld (s : State) (n : SpindleId) (g : Draining) : Bool :=
  g.out.any (fun d => match d with
    | .mem a data _ => anyWriteBusy s a data.length
    | .vreg _ _ => g.world && sealedOut s n g.thr
    | .reel _ _ _ _ _ => false)

/-- One delivery; the slot stands beside when the Reel had ended its collective (R293). -/
def deliverOne (n : SpindleId) (g : Draining) (acc : State × Option Nat) (d : Delivery) : State × Option Nat :=
  let (s, ended) := acc
  match d with
  | .mem a data bad => (dropLines (memWrite s (.drain n) a data bad) n a data.length, ended)
  | .vreg off data => (s.updThr (thrOf n g.thr) (fun x => writeVregs x off data), ended)
  | .reel slot idx bits _ bad =>
    let i : SlotId := ⟨slot % 64, Nat.mod_lt _ (by decide)⟩
    if routeOpen s g slot then (reelHandOff s i idx bits bad, ended) else (s, match ended with | some e => some e | none => some slot)

def slotsOf (ds : List Delivery) : List Nat :=
  (ds.filterMap (fun d => match d with | .reel slot _ _ _ _ => some slot | _ => none)).eraseDups

/-- CR.TDSTAT (R298). -/
def tdstatWord (st stage : Nat) (poison discarded : Bool) : Word :=
  BitVec.ofNat 64 (st % 16 + stage % 64 * 2 ^ 4 + boolNat poison * 2 ^ 10 + boolNat discarded * 2 ^ 11 + 2 ^ 12)

def doDrainComplete (sp : SpindleId) (j : TileId) (s : State) : State :=
  match (s.tile sp j).running with
  | none => s
  | some g => if deliveryHeld s sp g then s else
    let failed := decide (g.status ≠ 0)
    let (s, ended) := g.out.foldl (deliverOne sp g) (s, none)
    let s := (slotsOf g.out).foldl (fun z i => reelPump z ⟨i % 64, Nat.mod_lt _ (by decide)⟩) s
    let s := s.bump (R.SPINDLE_DRAINS sp) 1
    let s := addTFlags s sp g.thr j 0 g.flags
    let (st, stage) := match ended with
      | some slot => (6, match g.reels.find? (fun e => decide (e.1 = slot)) with | some e => e.2.1 | none => 0)
      | none => (g.status, g.stage)
    let s := s.updThr (thrOf sp g.thr) (fun x => x.setUcr (CR.TDSTAT j.val) (tdstatWord st stage g.poison failed))
    let s := s.updTile sp j (fun y => { y with running := none })
    settleTiles (idleTile s sp j) sp j

def execDrainStart (sp : SpindleId) (t : TileId) (up : List Upset) (s : State) : Host.Outcome State Fault Refusal :=
  running s (doDrainStart sp t up)
def execDrainComplete (sp : SpindleId) (t : TileId) (s : State) : Host.Outcome State Fault Refusal :=
  running s (doDrainComplete sp t)

end Sys2Proof.Machine
end

