-- ==== Sys2Proof/Machine/Edge.lean ====
section
/-! DEFINITION. The beat edge (R26–R28, R34, R38, R39, R44): what the device does at the instant that ends one beat and begins
the next. -/

namespace Sys2Proof.Machine
open Sys2Proof

/-- The instant of the pending edge: BEAT.NEXT, or after a slip the parent's NEXT on the stepped timebase (R44). -/
def reachEdge (s : State) : State :=
  match s.beat.slip with
  | some (off, next) =>
    let s := (stepTime s off).setReg R.BEAT_NEXT next
    elapseTo (s.setBeat (fun b => { b with slip := none })) next
  | none => elapseTo s (s.reg R.BEAT_NEXT)

/-- The running beat fails at this edge (R26, R44). -/
def beatFails (s : State) : Bool := !s.beat.fresh && (!s.flag R.BEAT_STAT F.BEAT_STAT_DONE || s.beat.failNow)

/-- A participant that had not executed bdone (R27): `k` is the failed beat. -/
def lateThread (k : Word) (s : State) (t : Thr) : State :=
  if takesPart s t && !bit (s.reg R.BEAT_TDONE) t.val then
    let ovt := s.flag (R.BEAT_TENTRY t) F.BEAT_TENTRY_OVT
    s.updThr t (fun x => { x with entry := true, overrun := if ovt then some k else x.overrun })
  else s

/-- A failed edge (R26–R28). DESIGN CHOICE: assumption 75. -/
def failEdge (s : State) : State :=
  let s := s.setFlag R.BEAT_STAT F.BEAT_STAT_OVERRUN true
  let s := s.bump32 R.BEAT_FAILCNT 1
  let s := if s.flag R.BEAT_IRQ F.BEAT_IRQ_FAIL_EN then sendMsix s (s.fld R.BEAT_IRQ F.BEAT_IRQ_FAILVEC) else s
  let s := raiseSource s 18
  let s := allThr.foldl (lateThread s.beatNo) s
  -- BEAT_DONE is not reached while the work of the failed beat ends
  let s := s.setFlag R.BEAT_STAT F.BEAT_STAT_DONE true
  reelAbortBeat (abortBeatWork s)

/-- Every counter that has a shadow copies its value (R34). -/
def copyShadows (s : State) : State :=
  shadowTable.foldl (fun z e =>
    ((regOffsets e.1 e.2.2).zip (regOffsets e.2.1 e.2.2)).foldl (fun y p => y.setReg p.2 (y.reg p.1)) z) s

/-- The armed bank applies, and a firmware swap in it begins (R38, R588). -/
def groupAtEdge (s : State) (n : Word) : State :=
  let swap := (SMap.get none s.beat.armedBank R.MC_FWSWAP).isSome
  let s' := applyGroup s n
  if s.beat.armed && !s'.beat.armed && swap then beginSwap s' else s'

/-- Stacks that the edge returns to service (R350), and what is counted per beat (R265, R351, R583, R428). -/
def beatResets (s : State) : State :=
  let s := allStacks.foldl (fun z k =>
    (if z.flag (R.MEM_CTRL k) F.MEM_CTRL_AUTORES then resumeStack z k else z).updStack k (fun x => { x with refusedAt := none })) s
  let s := allSpindles.foldl (fun z n => z.updSpin n (fun x => { x with refusedAt := none, mx := { x.mx with quarter := [] } })) s
  (List.range 16).foldl (fun z p => z.updLink p (fun x => { x with beatReplays := 0 })) s

/-- The new beat's registers, 8 ns after the edge at `e`; a monitored BEAT_IN without a rising edge in the beat is no longer present
(R47). DESIGN CHOICE: assumptions 74 and 119. -/
def newBeat (s : State) (n e : Word) : State :=
  let s := ((s.setReg R.BEAT_NUMBER n).setReg R.BEAT_EDGE e).setReg R.BEAT_SNAPIDX n
  let s := moveEdge s (e + BitVec.ofNat 64 (s.fld R.BEAT_PERIOD F.BEAT_PERIOD_PERIOD)) 0
  let s := if s.beat.monBin && !s.beat.monSeen then s.setFlag R.BEAT_MONOFF F.BEAT_MONOFF_VALID false else s
  s.setBeat (fun b => { b with fresh := false, begun := true, first := none, failNow := false, quanta := 0, binSeen := false,
                               monSeen := false, lateGrant := false, realign := b.lateGrant || b.realign, cancelAt := none })

/-- Thread `t` at the edge: a parked thread takes its entry, and one in the handler of an interrupt takes it when the handler
returns (R18, R19). -/
def threadAtEdge (tdone : Word) (s : State) (t : Thr) : State :=
  if !bit tdone t.val then s
  else
    let x := s.thr t
    if x.run = .parked then takeEntry s t
    else if x.run ≠ .halted ∧ x.parkBlock.isSome then s.setThr t { x with entry := true }
    else s

/-- The whole edge. -/
def takeEdge (s : State) : State :=
  let s := reachEdge s
  let e := s.reg R.BEAT_NEXT
  let n := nextBeat s
  let miss := decide (s.fld R.BEAT_CTRL F.BEAT_CTRL_SRC = 1) && !s.beat.binSeen
  let s := if miss then s.setFlag R.BEAT_STAT F.BEAT_STAT_BIN_MISS true else s
  let bout := s.flag R.BEAT_CTRL F.BEAT_CTRL_BOUT_EN
  let fails := beatFails s
  let s := if fails then failEdge s else s
  let s := (s.setFlag R.BEAT_STAT F.BEAT_STAT_LASTFAIL fails).setFld R.BEAT_STAT F.BEAT_STAT_LASTQ s.beat.quanta
  let s := s.bump32 R.BEAT_STRCNT s.beat.quanta
  let s := copyShadows (powerOfBeat s)
  let s := switchQuads (groupAtEdge s n)
  let s := beatResets s
  let s := newBeat s n e
  let s := if bout then s.emit .beatOut else s
  let s := sendMarkers s true false (markerPorts s)
  let tdone := s.reg R.BEAT_TDONE
  let s := allThr.foldl (threadAtEdge tdone) (s.setReg R.BEAT_TDONE 0)
  -- BEAT_DONE of the new beat is judged once its work is eligible
  let s := sessEdge (s.setFlag R.BEAT_STAT F.BEAT_STAT_DONE true)
  let s := (s.setReg R.BEAT_EDONE 0).setFlag R.BEAT_STAT F.BEAT_STAT_DONE false
  reelEdge (allEngines.foldl sluiceEdge s)

/-- BEAT_EDGE. -/
def execBeatEdge (s : State) : Host.Outcome State Fault Refusal :=
  running s (fun s => if !s.running || !s.beat.scheduled then s else takeEdge s)

/-! ### The other commands of the beat -/

def execGuardInstant (acks : BitVec 4) (s : State) : Host.Outcome State Fault Refusal := running s (doGuardInstant acks)
def execDecisionInstant (s : State) : Host.Outcome State Fault Refusal := running s doDecisionInstant
def execStretchReq (port : PortId) (beat : Word) (dev : BitVec 12) (count : BitVec 16) (s : State) : Host.Outcome State Fault Refusal :=
  running s (doStretchReq port beat dev count)
def execBeatMarker (port : PortId) (m : Marker) (rx : Word) (s : State) : Host.Outcome State Fault Refusal := running s (doBeatMarker port m rx)
def execMarkerInterval (s : State) : Host.Outcome State Fault Refusal := running s doMarkerInterval
def execHoldover (s : State) : Host.Outcome State Fault Refusal := running s doHoldover
def execBeatInEdge (time8 : Word) (s : State) : Host.Outcome State Fault Refusal := running s (doBeatInEdge time8)
def execSetRun (s : State) : Host.Outcome State Fault Refusal := running s doSetRun
def execClearRun (s : State) : Host.Outcome State Fault Refusal := running s doClearRun
def execSreq (s : State) : Host.Outcome State Fault Refusal := running s doSreq
def execArm (s : State) : Host.Outcome State Fault Refusal := running s doArm
def execDiscard (s : State) : Host.Outcome State Fault Refusal := running s doDiscard
def execCancel (s : State) : Host.Outcome State Fault Refusal := running s doCancel

end Sys2Proof.Machine
end

