-- ==== Sys2Proof/Machine/FpScalar.lean ====
section
/-! DEFINITION. The meanings of the scalar floating-point instructions (R61, R89, R94, R161–R170). -/

namespace Sys2Proof.Machine
open Sys2Proof

/-- CR.FCSR of the thread's world (R185). -/
def fcsr (x : Thread) : Word := x.bcr x.world CR.FCSR
/-- The dynamic rounding mode. -/
def dynRm (x : Thread) : Rm := (rmOf (field (fcsr x) 18 16)).getD .rne
/-- Saturating FP8 conversion, which is off under Level 1 (R183). -/
def satOn (s : State) (x : Thread) : Bool := bit (fcsr x) 20 && !s.level1

/-- FFLAGS of the thread's world gain flags (R177). -/
def addFFlags (x : Thread) (fl : Flags) : Thread := x.setBcr x.world CR.FCSR (fcsr x ||| fl.zeroExtend 64)
/-- VFLAGS of the thread's world gain flags (R177). -/
def addVFlags (x : Thread) (fl : Flags) : Thread := x.setBcr x.world CR.FCSR (fcsr x ||| (fl.zeroExtend 64 <<< 8))

/-- The rounding mode of a 3-bit field: 5 and 6 are reserved, 7 is the dynamic mode (R94). -/
def rmField (x : Thread) (rm : BitVec 3) : Option Rm := if rm = 7 then some (dynRm x) else rmOf rm.toNat

/-- `rd` takes a result, the flags are recorded. -/
def fpDone (s : State) (t : Thr) (rd : Reg6) (v : Word) (fl : Flags) : Res :=
  .done (s.setThr t ((addFFlags (s.thr t) fl).wg rd v)) none

def fmtOf (dbl : Bool) : FFmt := if dbl then fp64 else fp32
/-- An operand's bits: the low bits of the register (R61, R148). -/
def fbits (f : FFmt) (v : Word) : Nat := v.toNat % 2 ^ f.width

/-- The value and flags of the FP group's operations (R94). -/
def fpRes (op : FpOp) (f : FFmt) (rm : Rm) (a b : Nat) : FRes :=
  match op with
  | .fadd => fAdd f rm a b
  | .fsub => fSub f rm a b
  | .fmul => fMul f rm a b
  | .fmin => fMinMax f false a b
  | .fmax => fMinMax f true a b
  | .fsgnj => { bits := f.withSign (f.neg? b) (f.mag a) }
  | .fsgnjn => { bits := f.withSign (!f.neg? b) (f.mag a) }
  | .fsgnjx => { bits := f.withSign (f.neg? a != f.neg? b) (f.mag a) }
  | .feq => let r := fCmp f .eq a b; { bits := boolNat r.1, fl := r.2 }
  | .flt => let r := fCmp f .lt a b; { bits := boolNat r.1, fl := r.2 }
  | .fle => let r := fCmp f .le a b; { bits := boolNat r.1, fl := r.2 }
  | .fclass => { bits := fClass f a }

def fpInsn (cls : Cls) (func : Nat) (dbl : Bool) (rm : BitVec 3) (rd ra rb : Reg6) : Insn :=
  { word := word1 (fmtR (func + boolNat dbl * 16 + rm.toNat * 32) rb.toNat ra.toNat rd.toNat 0x22), cls := cls,
    reads := [ra.toNat, rb.toNat], writes := [rd.toNat], inTx := true }

/-- The body of an FP-group instruction. -/
def fpOpBody (is : Issue) (op : FpOp) (dbl : Bool) (rm : BitVec 3) (rd ra rb : Reg6) (s : State) : Res :=
  let x := s.thr is.thr
  let f := fmtOf dbl
  match rmField x rm with
  | none => illegal s
  | some m =>
    let r := fpRes op f m (fbits f (x.rg ra)) (fbits f (x.rg rb))
    fpDone s is.thr rd (BitVec.ofNat 64 r.bits) r.fl

def execFpOp (is : Issue) (op : FpOp) (dbl : Bool) (rm : BitVec 3) (rd ra rb : Reg6) (s : State) :
    Host.Outcome State Fault Refusal :=
  .next (issue s is (fpInsn .fpu op.func dbl rm rd ra rb) (fpOpBody is op dbl rm rd ra rb))

def fdivBody (is : Issue) (sqrt dbl : Bool) (rm : BitVec 3) (rd ra rb : Reg6) (s : State) : Res :=
  let x := s.thr is.thr
  let f := fmtOf dbl
  if sqrt && decide (rb ≠ 0) then illegal s
  else
    match rmField x rm with
    | none => illegal s
    | some m =>
      let r := if sqrt then fSqrt f m (fbits f (x.rg ra)) else fDiv f m (fbits f (x.rg ra)) (fbits f (x.rg rb))
      fpDone s is.thr rd (BitVec.ofNat 64 r.bits) r.fl

def execFdivFsqrt (is : Issue) (sqrt dbl : Bool) (rm : BitVec 3) (rd ra rb : Reg6) (s : State) :
    Host.Outcome State Fault Refusal :=
  .next (issue s is (fpInsn .div (if sqrt then 4 else 3) dbl rm rd ra rb) (fdivBody is sqrt dbl rm rd ra rb))

/-- a×b+c, a×b−c, −(a×b)+c, −(a×b)−c (R89). -/
def fmaRes (op : FmaOp) (f : FFmt) (rm : Rm) (a b c : Nat) : FRes :=
  match op with
  | .fmadd => fFma f rm false false a b c
  | .fmsub => fFma f rm false true a b c
  | .fnmsub => fFma f rm true false a b c
  | .fnmadd => fFma f rm true true a b c

def fmaddBody (is : Issue) (op : FmaOp) (dbl : Bool) (rd ra rb rc : Reg6) (rm : Option (BitVec 3)) (s : State) : Res :=
  let x := s.thr is.thr
  let f := fmtOf dbl
  match rmField x (rm.getD 7) with
  | none => illegal s
  | some m =>
    let r := fmaRes op f m (fbits f (x.rg ra)) (fbits f (x.rg rb)) (fbits f (x.rg rc))
    fpDone s is.thr rd (BitVec.ofNat 64 r.bits) r.fl

def execFmadd (is : Issue) (op : FmaOp) (dbl : Bool) (rd ra rb rc : Reg6) (rm : Option (BitVec 3)) (s : State) :
    Host.Outcome State Fault Refusal :=
  let w := fmtR4 op.op rc.toNat rb.toNat ra.toNat rd.toNat (if dbl then 0x23 else 0x24)
  let i : Insn :=
    { word := match rm with | none => word1 w | some r => word2 r.toNat w
      len := if rm.isSome then 8 else 4
      cls := .fpu
      reads := [ra.toNat, rb.toNat, rc.toNat]
      writes := [rd.toNat]
      inTx := true }
  .next (issue s is i (fmaddBody is op dbl rd ra rb rc rm))

/-- Source and target of the FCVT group's conversions (R94). -/
def fcvtTypes (c : Nat) : ElemTy × ElemTy :=
  let f (x : FFmt) := ElemTy.float x
  match c with
  | 0 => (f fp32, f fp64) | 1 => (f fp64, f fp32) | 2 => (f fp64, .int true 64) | 3 => (f fp64, .int false 64)
  | 4 => (f fp64, .int true 32) | 5 => (f fp64, .int false 32) | 6 => (.int true 64, f fp64) | 7 => (.int false 64, f fp64)
  | 8 => (f fp32, .int true 64) | 9 => (f fp32, .int false 64) | 10 => (.int true 64, f fp32) | 11 => (.int false 64, f fp32)
  | 12 => (f fp32, f fp16) | 13 => (f fp16, f fp32) | 14 => (f fp32, f bf16) | 15 => (f bf16, f fp32)
  | 16 => (f fp32, f e4m3) | 17 => (f e4m3, f fp32) | 18 => (f fp32, f e5m2) | _ => (f e5m2, f fp32)

/-- The result's 64 bits: fcvt.w.d is sign-extended, every other result zero-extended (R61). -/
def fcvtWord (c : Nat) (bits : Nat) : Word := if c = 4 then sextWord (BitVec.ofNat 64 bits) 32 else BitVec.ofNat 64 bits

def fcvtBody (is : Issue) (c : CvtCode) (rm : BitVec 3) (rd ra : Reg6) (s : State) : Res :=
  let x := s.thr is.thr
  match rmField x rm with
  | none => illegal s
  | some m =>
    let (src, dst) := fcvtTypes c.val
    let r := convert src dst m (satOn s x) ((x.rg ra).toNat % 2 ^ src.width)
    fpDone s is.thr rd (fcvtWord c.val r.bits) r.fl

def execFcvt (is : Issue) (c : CvtCode) (rm : BitVec 3) (rd ra : Reg6) (s : State) : Host.Outcome State Fault Refusal :=
  let i : Insn := { word := word1 (fmtR (c.val + rm.toNat * 32) 0 ra.toNat rd.toNat 0x25), cls := .fpu, reads := [ra.toNat],
                    writes := [rd.toNat], inTx := true }
  .next (issue s is i (fcvtBody is c rm rd ra))

end Sys2Proof.Machine
end

