-- ==== Sys2Proof/Machine/Gates.lean ====
section
/-! DEFINITION. Gates (R136–R142): the meanings of gcall and gret. -/

namespace Sys2Proof.Machine
open Sys2Proof

/-- A gate descriptor as its 64 bytes hold it. -/
structure Gate where
  w : Vector Word 4
  spec : Vector (BitVec 32) 8
  deriving DecidableEq, Repr

def gateOf (bs : List Byte) : Gate :=
  { w := Vector.ofFn (fun i => wordAt bs (8 * i.val)),
    spec := Vector.ofFn (fun i => BitVec.ofNat 32 (ofLe ((bs.drop (32 + 4 * i.val)).take 4))) }

def Gate.valid (g : Gate) : Bool := bit g.w[0] 0
def Gate.tlevel (g : Gate) : Bool := bit g.w[0] 1
def Gate.fwd (g : Gate) : Bool := bit g.w[0] 2
def Gate.openok (g : Gate) : Bool := bit g.w[0] 3
def Gate.userok (g : Gate) : Bool := bit g.w[0] 4
def Gate.stackmode (g : Gate) : Nat := field g.w[0] 6 5
def Gate.fwdgate (g : Gate) : Nat := field g.w[0] 15 8
def Gate.nargs (g : Gate) : Nat := field g.w[0] 19 16
def Gate.entry (g : Gate) : Addr := BitVec.ofNat 48 (field g.w[1] 47 2 * 4)
def Gate.stack (g : Gate) : Word := g.w[2]
def Gate.stacklim (g : Gate) : Word := g.w[3]

/-! ARGSPEC (R137). -/

def argKind (a : BitVec 32) : Nat := a.toNat % 8
def argLen (a : BitVec 32) : Nat := a.toNat / 16 % 8
def argScale (a : BitVec 32) : Nat := a.toNat / 256 % 16
def argRanges (a : BitVec 32) : Nat := a.toNat / 4096 % 16
def argReserved (a : BitVec 32) : Bool := decide (a &&& 0xFFFF0088 ≠ 0)
def isPtr (a : BitVec 32) : Bool := decide (1 ≤ argKind a ∧ argKind a ≤ 3)

def Gate.specAt (g : Gate) (i : Nat) : BitVec 32 := g.spec.toList.getD i 0

/-- The LENARG of argument `i` is malformed (R137). -/
def argMalformed (g : Gate) (i : Nat) : Bool :=
  let a := g.specAt i
  isPtr a && decide (argLen a ≠ i) && (decide (g.nargs ≤ argLen a) || decide (argKind (g.specAt (argLen a)) ≠ 4))

/-- R136, R137: a nonzero reserved bit, a reserved STACKMODE, more than 8 arguments, or a malformed specification. -/
def Gate.malformed (g : Gate) (sealedTable : Bool) : Bool :=
  decide (g.w[0] &&& 0xFFFFFFFFFFF00080 ≠ 0) || decide (g.w[1] &&& 0xFFFF000000000003 ≠ 0) ||
    decide (g.w[2] &&& 0xF ≠ 0) || decide (g.w[3] &&& 0xF ≠ 0) || g.spec.toList.any argReserved ||
    decide (g.stackmode = 3) || decide (8 < g.nargs) || (sealedTable && g.fwd) ||
    g.spec.toList.any (fun a => decide (4 < argKind a)) || (List.range (min 8 g.nargs)).any (argMalformed g)

/-! ### Reading and writing device memory for gates -/

/-- The windows whose bytes gates read and write; a frame or table in control space is neither readable nor writable so. -/
def plainWindow (a : Nat) : Bool :=
  match windowOf a with
  | .control | .unmapped => false
  | .hbm | .pan _ | .openHandler | .sealedHandler | .tstore | .session => true

/-- Gate `n` of the table of world `w`, read with the rights of that world's supervisor (R139). -/
def readGate (s : State) (t : Thr) (w : Bool) (n : Nat) : State × Option Gate :=
  let a := field ((s.thr t).bcr w CR.GTB) 47 14 * 2 ^ 14 + 64 * n
  if !allMapped a 64 || !plainWindow a || !windowRight s w true .load a 64 then (s, none)
  else
    let (s, bs) := devRead s t a 64
    if bs.any (·.2) then (s, none) else (s, some (gateOf (bs.map (·.1))))

def gateCount (x : Thread) (w : Bool) : Nat := field (x.bcr w CR.GTB) 8 0

/-- A refused gate: GATE with its code; TVAL holds the gate number and the argument's index. -/
def gateTrap (s : State) (code n arg : Nat) : Res := .trap s ⟨Cause.GATE, code, BitVec.ofNat 64 (n + arg * 256)⟩

/-- The failure of argument `i`, if it fails (R138). -/
def argFails (s : State) (x : Thread) (g : Gate) (i : Nat) : Option Nat :=
  let a := g.specAt i
  if !isPtr a then none
  else
    let p := (x.g.toList.getD (i + 1) 0).toNat
    let b := if argLen a = i then 2 ^ argScale a else (x.g.toList.getD (argLen a + 1) 0).toNat * 2 ^ argScale a
    let grants (r : Word) := bit r 3 && (argKind a = 2 || bit r 0) && (argKind a = 1 || bit r 1)
    let inside (k : Nat) := Nat.testBit (argRanges a) k && grants (x.bcr x.world (CR.CRB k)) &&
      decide ((x.bcr x.world (CR.CRB k)).toNat / 64 * 64 ≤ p) && decide (p + b ≤ (x.bcr x.world (CR.CRL k)).toNat / 64 * 64)
    if b = 0 then none
    else if 2 ^ 64 < p + b then some 6
    else if !(List.range 4).any inside then some 5
    else if !x.world && anySealedMem s p b then some 7
    else none

/-- The frame of R141. -/
def gateFrame (x : Thread) (n : Nat) : List Byte :=
  leBytes 8 ((x.pc.toNat + 4) % 2 ^ 48) ++ leBytes 8 (x.rg 63).toNat ++
    leBytes 8 (boolNat x.level + boolNat x.world * 2 + n * 256) ++ leBytes 8 0

/-- The 32 bytes of a frame are accessed with the rights of (world, level): the parts, or the reason that they are not. -/
inductive FrameRes where
  | dev (a : Nat)
  | sva (ps : List HostPart)
  | wait
  | bad
  deriving DecidableEq, Repr

def frameParts (s : State) (t : Thr) (word : Word) (k : AccKind) (world level : Bool) (ea : Word) : State × FrameRes :=
  let x := { s.thr t with world := world, level := level }
  match checkAccess s x k ea 32 with
  | .error _ => (s, .bad)
  | .ok ps =>
    if ps.all (fun p => isDevice p.ea && plainWindow p.ea) then
      if ps.any (fun p => writeBusy s p.ea || queueHits x.storeQ p.ea p.n) then (s, .wait) else (s, .dev ea.toNat)
    else if ps.all (fun p => isSva p.ea) then
      match hostParts s t word k ps with
      | (s, .ok l) => (s, .sva l)
      | (s, .wait) => (s, .wait)
      | (s, .trap _) => (s, .bad)
    else (s, .bad)

def writeFrame (s : State) (t : Thr) (ea : Word) (data : List Byte) : FrameRes → State
  | .dev a => devWrite s t a data
  | .sva ps => ps.foldl (fun z h => hostWrite z h ((data.drop (h.part.ea - ea.toNat)).take h.part.n)) s
  | .wait | .bad => s

/-- Entry of gate `g` of world `tw` (R140), once its frame can be written. -/
def enterGate (s : State) (t : Thr) (g : Gate) (tw : Bool) (n : Nat) (frame : Word) (fr : FrameRes) : Res :=
  let s := writeFrame s t frame (gateFrame (s.thr t) n) fr
  .jump (s.updThr t (fun y => { y.wg 63 frame with world := tw, level := g.tlevel })) g.entry

/-- Steps 4 to 6 of R139 with the governing descriptor, and the entry. -/
def gateChecks (s : State) (t : Thr) (g : Gate) (tw : Bool) (n : Nat) (word : Word) : Res :=
  let x := s.thr t
  let same := decide (tw = x.world ∧ g.tlevel = x.level)
  if tw = x.world ∧ x.level ∧ !g.tlevel then gateTrap s 2 n 0
  else if g.malformed tw || (decide (g.stackmode = 0) && !same) then gateTrap s 4 n 0
  else
    match (List.range g.nargs).findSome? (fun i => (argFails s x g i).map (fun c => (i, c))) with
    | some (i, c) => gateTrap s c n i
    | none =>
      let top : Word := if same then x.rg 63
        else if g.stackmode = 1 then x.bcr tw (if g.tlevel then CR.SSP else CR.USP) else g.stack
      let frame := top - 32
      if g.stackmode ≠ 0 ∧ frame.toNat < g.stacklim.toNat then gateTrap s 8 n 0
      else
        match frameParts s t word .store tw g.tlevel frame with
        | (s, .bad) => gateTrap s 8 n 0
        | (s, .wait) => .wait s
        | (s, fr) => enterGate s t g tw n frame fr

def gcallBody (is : Issue) (gate : Byte) (s : State) : Res :=
  let t := is.thr
  let n := gate.toNat
  let x := s.thr t
  let word := SYS 7 n
  if gateCount x x.world ≤ n then gateTrap s 1 n 0
  else
    match readGate s t x.world n with
    | (s, none) => gateTrap s 4 n 0
    | (s, some g) =>
      if !g.valid then gateTrap s 1 n 0
      else if !x.level && !g.userok then gateTrap s 2 n 0
      else if g.fwd then
        if x.world then gateTrap s 4 n 0
        else if gateCount x true ≤ g.fwdgate then gateTrap s 3 n 0
        else
          match readGate s t true g.fwdgate with
          | (s, none) => gateTrap s 4 n 0
          | (s, some h) =>
            if !h.valid || !h.openok then gateTrap s 3 n 0
            else if x.suspended.isSome then gateTrap s 9 n 0
            else gateChecks s t h true n word
      else gateChecks s t g x.world n word

def execGcall (is : Issue) (gate : Byte) (s : State) : Host.Outcome State Fault Refusal :=
  .next (issue s is (soloInsn 7 gate.toNat) (gcallBody is gate))

/-- The frame's bytes, when every one can be read. -/
def readFrame (s : State) (t : Thr) : FrameRes → State × HostRes
  | .dev a =>
    let (s, bs) := devRead s t a 32
    if bs.any (·.2) then (s, .trap ⟨Cause.GATE, 10, 0⟩) else (s, .data (bs.map (·.1)))
  | .sva ps => hostRead s t ps
  | .wait => (s, .wait)
  | .bad => (s, .trap ⟨Cause.GATE, 10, 0⟩)

/-- gret (R142). -/
def gretBody (is : Issue) (s : State) : Res :=
  let t := is.thr
  let s := s.updThr t applyPending
  let x := s.thr t
  match frameParts s t (SYS 8 0) .load x.world x.level (x.rg 63) with
  | (s, fr) =>
    match readFrame s t fr with
    | (s, .wait) => .wait s
    | (s, .trap _) => gateTrap s 10 0 0
    | (s, .data bs) =>
      let ret := wordAt bs 0
      let c := wordAt bs 16
      let lvl := bit c 0
      let wld := bit c 1
      let n := field c 15 8
      let ranks := (x.world && !wld) || (decide (wld = x.world) && (x.level || !lvl))
      if decide (ret &&& 0xFFFF000000000000 ≠ 0) || decide (c &&& 0xFFFFFFFFFFFF00FC ≠ 0) || decide (wordAt bs 24 ≠ 0) || !ranks then
        gateTrap s 10 n 0
      else
        .jump (s.updThr t (fun y => { y.wg 63 (wordAt bs 8) with world := wld, level := lvl }))
          (BitVec.ofNat 48 (ret.toNat / 4 * 4))

def execGret (is : Issue) (s : State) : Host.Outcome State Fault Refusal := .next (issue s is (soloInsn 8 0) (gretBody is))

end Sys2Proof.Machine
end

