-- ==== Sys2Proof/Machine/Translation.lean ====
section
/-! DEFINITION. What arrives from the host for translation (10_translation.md, R361, R527): completions, invalidations, group
responses and timeouts, and the writes of the FQ and RTT registers that act. -/

namespace Sys2Proof.Machine
open Sys2Proof

/-- [a, a + m) and [b, b + n) share a byte. -/
def overlaps (a m b n : Nat) : Bool := decide (a < b + n) && decide (b < a + m) && decide (0 < m) && decide (0 < n)

/-- The rights that the translations of a completion grant to `page`. -/
def completionRights (ts : List Translation) (page : Nat) : Bool × Bool :=
  match ts.find? (fun t => decide (t.va ≤ page * 4096) && decide (page * 4096 < t.va + t.size)) with
  | some t => (t.r, t.w)
  | none => (false, false)

/-- An ATS Translation Completion for request `num` (R367): one that an overlapping invalidation has crossed is discarded whole, and
its request is sent again (R369). -/
def translationCompletion (s : State) (num : Nat) (ts : List Translation) : State :=
  match s.rtt.reqs.find? (fun q => decide (q.num = num)) with
  | none => s
  | some q =>
    let s := s.updRtt (fun r => { r with reqs := r.reqs.filter (fun x => decide (x.num ≠ num)) })
    let ts := ts.map clipTranslation
    if ts.any (fun t => q.invs.any (fun i => overlaps t.va t.size i.1 i.2)) then sendWaiting (requestAts s q.page q.noWrite true)
    else
      let on := s.flag R.RTT_CTRL F.RTT_CTRL_EN && s.host.atsEn
      let s := if on then ts.foldl insertTranslation s else s
      recheckAll (sendWaiting (noteGot s q.page q.noWrite (completionRights ts q.page)))

/-- An ATS Invalidation Request (R369–R372): the range is taken in the 57-bit space, and a PASID is compared with RTT.PASID.VALUE. -/
def invalidationRequest (s : State) (itag : BitVec 5) (va0 size : Nat) (pasid : Option (BitVec 20)) (global : Bool) : State :=
  let va := if 2 ^ 57 ≤ size then 0 else va0 % 2 ^ 57
  let mine := match pasid with | none => true | some p => decide (s.fld R.RTT_PASID F.RTT_PASID_VALUE = p.toNat)
  let s := if mine then cutRange s va size (fun _ => true) else if global then cutRange s va size (fun e => e.global) else s
  let hit := mine || global
  (s.bump R.RTT_INVAL 1).updRtt (fun r =>
    let reqs := if hit then r.reqs.map (fun q => { q with invs := q.invs ++ [(va, size)] }) else r.reqs
    { r with reqs := reqs, invals := r.invals ++ [{ itag := itag, tags := if hit then tagsIn s va size else [] }] })

/-- The Invalidation Completion is sent once every read and atomic it waits for has its completion (R372). -/
def completeInvalidation (s : State) (itag : BitVec 5) : State :=
  match s.rtt.invals.find? (fun i => decide (i.itag = itag)) with
  | none => s
  | some i =>
    if i.tags.any (tagOpen s) then s
    else (s.updRtt (fun r => { r with invals := r.invals.erase i })).emit (.invalidationCompletion itag)

/-- The open batch's window ends (R376). -/
def windowEnd (s : State) : State :=
  if s.fq.openRecs = [] then s
  else closeBatch (elapseTo s (s.fq.openSince + BitVec.ofNat 64 (s.fld R.FQ_CFG F.FQ_CFG_WINDOW)))

/-- A Page Request Group Response for the batch whose number ends in `idx` (R378, R379). -/
def groupResponse (s : State) (idx : BitVec 9) (code : PrgCode) : State :=
  match s.fq.closed.find? (fun b => b.sent && decide (b.num.toNat % 512 = idx.toNat)) with
  | none => s
  | some b => match code with
    | .success | .invalid => batchAnswered s b
    | .failure => batchFailed s b

/-- TIMEOUT µs after batch `num` was sent (R378). -/
def responseTimeout (s : State) (num : BitVec 32) : State :=
  match s.fq.closed.find? (fun b => b.sent && decide (b.num = num)) with
  | none => s
  | some b =>
    let s := elapseTo s (b.sentAt + BitVec.ofNat 64 (1000 * s.fld R.FQ_PRICFG F.FQ_PRICFG_TIMEOUT))
    batchAnswered (fqEvent (s.bump R.FQ_PRITO 1) F.FQ_STAT_TIMEOUT_EV F.FQ_IRQ_PRIERR_EN) b

/-- A write of FQ.HEAD (R383, R384). -/
def writeFqHead (s : State) (v : Nat) : State :=
  let h := fqHead s
  let adv := (v + 2 ^ 32 - h) % 2 ^ 32
  if fqUsed s < adv then s.setFlag R.FQ_STAT F.FQ_STAT_HEADERR true
  else
    let s := s.setFld R.FQ_HEAD F.FQ_HEAD_INDEX v
    let s := s.setFlag R.FQ_STAT F.FQ_STAT_FULL (fqFull s)
    if adv = 0 then s else retryParked s

/-- The reply of PCIe tag `tag` becomes `d` wherever the request is held; its virtual address, if it is. -/
def setReply (s : State) (tag : Nat) (d : HostReq → HostData) : State × Option Nat :=
  let hit (h : HostReq) := decide (h.tag = tag) && decide (h.reply = .waiting)
  let put (l : List HostReq) := l.map (fun h => if hit h then { h with reply := d h } else h)
  let inThr := allThr.find? (fun t => ((s.thr t).host ++ (s.thr t).orphans).any hit)
  match inThr with
  | some t =>
    let va := (((s.thr t).host ++ (s.thr t).orphans).find? hit).map (·.va)
    let s := s.updThr t (fun x => { x with host := put x.host, orphans := x.orphans.filter (fun h => !hit h) })
    (haltDue s t, va)
  | none =>
    let qs := (List.finRange 16).flatMap (fun e => (List.finRange 4).map (fun q => (e, q)))
    match qs.find? (fun p => ((s.slq p.1 p.2).host ++ (s.slq p.1 p.2).orphans).any hit) with
    | some (e, q) =>
      let x := s.slq e q
      (s.setSlq e q { x with host := put x.host, orphans := x.orphans.filter (fun h => !hit h) }, ((x.host ++ x.orphans).find? hit).map (·.va))
    | none => (s, none)

/-- A completion arrives (R361, R402, R527). -/
def hostCompletion (s : State) (tag : Nat) (st : CplStatus) (data : List Byte) (poisoned : Bool) : State :=
  let d (h : HostReq) : HostData := match st with
    | .success => .data ((data ++ List.replicate (h.len - data.length) 0).take h.len) poisoned
    | .unsupported | .abort => .failed
  match setReply s tag d with
  | (s, some va) => if st = .success ∧ poisoned then report s UKind.PCIE 0 0x16 (BitVec.ofNat 64 va) else s
  | (s, none) => s

/-- No completion arrives in time (R527). -/
def hostTimeout (s : State) (tag : Nat) : State :=
  match setReply s tag (fun _ => .failed) with
  | (s, some va) => report (s.emit (.aer false)) UKind.PCIE 0 0x17 (BitVec.ofNat 64 va)
  | (s, none) => s

end Sys2Proof.Machine
end

