-- ==== Sys2Proof/Machine/Mmio.lean ====
section
/-! DEFINITION. Control space and BAR0 (R4–R10, R531): which offsets answer, what a read of a register returns, and what a
write does beyond its access codes. Every path to a register ends here: stores of threads, host requests, the MC. -/

namespace Sys2Proof.Machine
open Sys2Proof

/-! ### Which offsets answer -/

/-- GCTL, SEC, MC with the monitors, and MBOX, which stay when the device stops (R571) and answer before SELFTEST ends (R620). DEDUCED: assumption 14. -/
def alwaysOn (off : Nat) : Bool := decide (off < 0x100000) || inRange off 0x3400000 0xC00000

/-- The MSI-X table and the Pending Bit Array (R531). -/
def msixTable (off : Nat) : Bool := inRange off 0x220000 0x8000
def msixPba (off : Nat) : Bool := inRange off 0x228000 0x100

/-- The register at `off` answers: power is on and PERST_L is high; after a Fatal stop, and before SELFTEST has ended, only the
blocks that stay. DEDUCED: assumption 14. -/
def answers (s : State) (off : Nat) : Bool :=
  !s.dead && !s.power.perst && (alwaysOn off || (!s.fatal && (s.selfTested || msixTable off || msixPba off)))

/-- The MC's firmware, which carries out SELFTEST, reaches every block during it (R533, R352). -/
def answersTo (s : State) (who : Agent) (off : Nat) : Bool :=
  answers s off || (decide (who = .mc) && !s.dead && !s.power.perst && !s.fatal)

/-! ### Sealed-owned registers (R105, R554) -/

/-- Where `off` falls in the array of `n` elements of `stride` bytes at `base`. -/
def slotIn (off base stride n : Nat) : Option Nat := if inRange off base (stride * n) then some ((off - base) / stride) else none

/-- The Sluice queue whose registers `off` lies in. -/
def queueAt (off : Nat) : Option (EngineId × QueueId) :=
  match slotIn off 0x400000 0x10000 16 with
  | some e => match slotIn (off % 0x10000) 0x100 0x80 4 with
    | some q => some (⟨e % 16, Nat.mod_lt _ (by decide)⟩, ⟨q % 4, Nat.mod_lt _ (by decide)⟩)
    | none => none
  | none => none

/-- The Reel slot whose registers `off` lies in. -/
def reelAt (off : Nat) : Option SlotId := (slotIn off (R.REEL_SDESC 0) 64 64).map (fun i => ⟨i % 64, Nat.mod_lt _ (by decide)⟩)

/-- Writes of the register at `off` are the Sealed supervisor's alone. -/
def sealedOwned (s : State) (off : Nat) : Bool :=
  inRange off (R.SEC_SREGION 0) 64 || inRange off (R.SEC_TKEY_KEY 0 0) 0x400 || inRange off (R.SEC_QKEY 0) 128 ||
  inRange off (R.SEC_FKEY_KEY 0 0) 0x80 || decide (off = R.SEC_FCTL) || decide (off = R.GCTL_CHTABS) ||
  (match queueAt off with | some (e, q) => qWorld s e q | none => false) ||
  (match reelAt off with | some i => s.flag (R.REEL_SCTL i) F.REEL_SCTL_WORLD | none => false)

/-! ### Reads -/

/-- The thread of a Spindle register that lies `stride` apart from `base` on, within each Spindle. -/
def spThread (off base stride : Nat) : Thr := thrOf (spindleNo ((off - 0x2000000) / 0x100000)) ⟨(off % 0x100000 - base % 0x100000) / stride % 4, Nat.mod_lt _ (by decide)⟩
def spAt (off : Nat) : SpindleId := spindleNo ((off - 0x2000000) / 0x100000)

/-- SPINDLE.TSTAT (R103). -/
def tstatWord (x : Thread) : Nat :=
  (match x.run with | .halted => 0 | .running => 1 | .parked => 2 | .waiting => 3 | .stalled => 4) +
    boolNat x.world * 8 + boolNat x.level * 16 + boolNat x.tx.isSome * 32 + boolNat x.refused * 64

/-- SPINDLE.GREG reaches the g registers of a thread that is HALTED in the Open world (R102). -/
def gregOpen (x : Thread) : Bool := decide (x.run = .halted) && !x.world

/-- Word `w` of MC.FMT[e]: the entry as its record would be, with VALID in place of PHASE, DELIVERED, and SEQ zero (R590). -/
def fmtWord (s : State) (e w : Nat) : Nat :=
  match mergeAt s e with
  | none => 0
  | some m => ofLe (((recordBytes (recordOf e m) 0 0).drop (8 * w)).take 8) + (if w = 0 then boolNat m.delivered * 32 else 0)

/-- Word `w` of MC.FMT[e].MAP: the devices 64w to 64w + 63 that reported. -/
def fmtMap (s : State) (e w : Nat) : Nat :=
  match mergeAt s e with
  | none => 0
  | some m => m.map.toNat / 2 ^ (64 * w) % 2 ^ 64

/-- A field of a register that is worked out when it is read. -/
def withF (w : Word) (f : Fld) (v : Nat) : Word := putF w f v

/-- Registers of a Spindle that are worked out when they are read. -/
def spRead (s : State) (d : RegDesc) (off : Nat) : Word :=
  let n := spAt off
  if d.base = R.SPINDLE_TSTAT 0 0 then BitVec.ofNat 64 (tstatWord (s.thr (spThread off d.base 128)))
  else if d.base = R.SPINDLE_GREG 0 0 0 then
    let x := s.thr (spThread off d.base 512)
    if gregOpen x then x.rg (BitVec.ofNat 6 (off / 8)) else 0
  else if d.base = R.SPINDLE_MTILE 0 0 then mtileRead s n (tileNo ((off % 0x100000 - 0x2000) / 8))
  else if d.base = R.SPINDLE_L1DCTL 0 then withF (s.reg off) F.SPINDLE_L1DCTL_PFPEND (pfPend s n true)
  else if d.base = R.SPINDLE_L1ICTL 0 then withF (s.reg off) F.SPINDLE_L1ICTL_PFPEND (pfPend s n false)
  else s.reg off

/-- Registers of a stack that are worked out when they are read. -/
def stackRead (s : State) (d : RegDesc) (off : Nat) : Word :=
  let k := stackNo ((off - 0x1000000) / 0x10000)
  if d.base = R.MEM_STAT 0 then withF (s.reg off) F.MEM_STAT_WCUSED (s.stack k).wcb.length
  else if d.base = R.MEM_RETIRE 0 then withF (s.reg off) F.MEM_RETIRE_SPARES (spareRows s k (s.fld off F.MEM_RETIRE_PCH))
  else s.reg off

/-- Registers of SEC, MC and the monitors that are worked out when they are read. -/
def serviceRead (s : State) (d : RegDesc) (off : Nat) : Word :=
  if d.base = R.SEC_STAT then
    withF (withF (s.reg off) F.SEC_STAT_LIFECYCLE s.flash.lifecycle.toNat) F.SEC_STAT_REVOKED s.flash.revoked.toNat
  else if d.base = R.SEC_IDHASH 0 then BitVec.ofNat 64 (ofLe ((idhashBytes.drop (off - d.base)).take 8))
  else if d.base = R.SEC_ARCTR 0 then BitVec.ofNat 64 (s.flash.arctr.toList.getD ((off - d.base) / 8) 0)
  else if d.base = R.MC_FMT 0 0 then BitVec.ofNat 64 (fmtWord s ((off - d.base) / 1024) ((off - d.base) % 1024 / 8))
  else if d.base = R.MC_FMT_MAP 0 0 then BitVec.ofNat 64 (fmtMap s ((off - d.base) / 1024) ((off - d.base) % 1024 / 8))
  else if d.base = R.MON_PROC 0 then
    withF (s.reg off) F.MON_PROC_TYPE (Config.procType ⟨(off - d.base) / 8 % 48, Nat.mod_lt _ (by decide)⟩).toNat
  else s.reg off

/-- The other registers that are worked out when they are read. -/
def unitRead (s : State) (who : Agent) (d : RegDesc) (off : Nat) : Word :=
  if d.base = R.BEAT_MARK then withF (s.reg off) F.BEAT_MARK_STRATUM (stratum s)
  else if d.base = R.FQ_STAT then
    withF (withF (withF (s.reg off) F.FQ_STAT_OPEN s.fq.openRecs.length) F.FQ_STAT_AWAIT (s.fq.closed.filter Batch.begun).length)
      F.FQ_STAT_PARKED (allAgents.filter (fun a => decide (waitOf s a = .space))).length
  else if d.base = R.RTT_STAT then withF (withF (s.reg off) F.RTT_STAT_USED s.rtt.entries.length) F.RTT_STAT_INVPEND s.rtt.invals.length
  else if d.base = R.GCTL_CHSTAT then (if s.fab.statWorld && !sealedSup s who then 0 else s.reg off)
  else s.reg off

/-- The 8 bytes of control space at `off`, a multiple of 8, as `who` reads them: zero where nothing answers. -/
def regWord (s : State) (who : Agent) (off : Nat) : Word :=
  if !answersTo s who off || !mayCtl s who then 0
  else if msixTable off then
    let v := (off - 0x220000) / 16
    if off % 16 = 0 then SMap.get 0 s.host.msixAddr v
    else BitVec.ofNat 64 ((SMap.get 0 s.host.msixData v).toNat + boolNat (!SMap.get false s.host.unmasked v) * 2 ^ 32)
  else if msixPba off then
    BitVec.ofNat 64 (((List.range 64).filter (fun i => SMap.get false s.host.pba (8 * (off - 0x228000) + i))).foldl (fun a i => a + 2 ^ i) 0)
  else
    match regDesc off with
    | none => 0
    | some d =>
      (if inRange off 0x2000000 0xC00000 then spRead s d off
       else if inRange off 0x1000000 0x180000 then stackRead s d off
       else if alwaysOn off && decide (0x3400000 ≤ off) then serviceRead s d off
       else unitRead s who d off) &&& readMask d

/-- A read by `who` of 8 bytes, or of the 4 bytes at `off`, naturally aligned (R6, R8). No register of the maps is cleared by reading. -/
def mmioRead (s : State) (who : Agent) (off : Nat) (size8 : Bool) : Word :=
  let w := regWord s who (off / 8 * 8)
  if size8 then w else BitVec.ofNat 64 (w.toNat / 2 ^ (off % 8 * 8) % 2 ^ 32)

/-! ### Writes that have meanings of their own -/

/-- A masked write of a 32-bit index in [31:0]: the index it writes, if it reaches that half. -/
def indexOf (old v m : Word) : Option Nat := if field m 31 0 = 0 then none else some (field (maskMerge old v m) 31 0)

/-- The MSI-X table: the address, or the data and vector control; the Pending Bit Array takes no writes. -/
def writeMsixEntry (s : State) (off : Nat) (v m : Word) : State :=
  let i := (off - 0x220000) / 16
  if off % 16 = 0 then
    { s with host := { s.host with msixAddr := SMap.set 0 s.host.msixAddr i (maskMerge (SMap.get 0 s.host.msixAddr i) v m) } }
  else
    let old := BitVec.ofNat 64 ((SMap.get 0 s.host.msixData i).toNat + boolNat (!SMap.get false s.host.unmasked i) * 2 ^ 32)
    let w := maskMerge old v m
    releaseMsix { s with host := { s.host with msixData := SMap.set 0 s.host.msixData i (BitVec.ofNat 32 (field w 31 0)),
                                               unmasked := SMap.set false s.host.unmasked i (!bit w 32) } }

/-- FQ.TROUTE (R144). -/
def writeTroute (s : State) (who : Agent) (off : Nat) (v m : Word) : State :=
  let old := s.reg off
  match regDesc off with
  | none => s
  | some d =>
    let new := clampReg off old (writeByCodes d old v m)
    if !sealedSup s who && (decide (getF old F.FQ_TROUTE_WORLD ≠ 0) || decide (getF new F.FQ_TROUTE_WORLD ≠ 0)) then s else s.setReg off new

/-- FQ.TDOOR: each 1 rings its line; the Sealed lines are the Sealed supervisor's alone (R144). -/
def ringDoor (s : State) (who : Agent) (t : Thr) (v : Nat) : State :=
  let s := if v.testBit 0 then raiseLine s t false 26 else s
  let s := if v.testBit 1 then raiseLine s t false 27 else s
  if sealedSup s who then
    let s := if v.testBit 2 then raiseLine s t true 28 else s
    if v.testBit 3 then raiseLine s t true 29 else s
  else s

/-- Some port is TRAINING, UP or DEGRADED (R436). -/
def portsBusy (s : State) : Bool :=
  (List.range 16).any (fun p => let st := s.fld (R.HANK_STAT p) F.HANK_STAT_STATE; decide (1 ≤ st ∧ st ≤ 3))

/-- BEAT.TIMEBASE is writable while beats do not run and their source is INTERNAL (R15). -/
def timeOpen (s : State) : Bool := !s.running && decide (s.fld R.BEAT_CTRL F.BEAT_CTRL_SRC = 0)

/-- A firmware watchdog kick (R580). -/
def kickDog (s : State) (who : Agent) : State := if who = .mc ∧ mcUp s then s.updMc (fun m => { m with kickAt := s.now }) else s

/-- Registers whose write is an operation as a whole; `none` for the others. -/
def wholeWrite (s : State) (who : Agent) (d : RegDesc) (off : Nat) (v m : Word) : Option State :=
  let old := s.reg off
  let idx (f : Nat → State) : Option State := some (match indexOf old v m with | some i => f i | none => s)
  let w := v &&& m
  if d.base = R.BEAT_TIMEBASE then some (if timeOpen s then s.setReg off (maskMerge old v m) else s)
  else if d.base = R.BEAT_CG_CTRL then some (writeCgCtrl s w)
  else if d.base = R.BEAT_SREQ then some (if bit w 0 then requestStretch s else s)
  else if d.base = R.FQ_HEAD then idx (writeFqHead s)
  else if d.base = R.SLUICE_QTAIL 0 0 then idx (fun i => match queueAt off with | some (e, q) => writeTail s e q i | none => s)
  else if d.base = R.SESS_SCHTAIL then idx (writeSchTail s)
  else if d.base = R.MC_ERRHEAD then idx (writeErrHead s)
  else if d.base = R.FQ_TROUTE 0 then some (writeTroute s who off v m)
  else if d.base = R.FQ_TDOOR 0 then some (ringDoor s who (thrNo ((off - d.base) / 8)) (field w 3 0))
  else if d.base = R.GCTL_DEVID then some (if portsBusy s then s else s.setReg off (writeByCodes d old v m))
  else if d.base = R.SPINDLE_GREG 0 0 0 then
    let t := spThread off d.base 512
    let x := s.thr t
    let r := BitVec.ofNat 6 (off / 8)
    some (if gregOpen x then s.setThr t (x.wg r (maskMerge (x.rg r) v m)) else s)
  else if d.base = R.MC_WDOG then some (if bit w 0 then kickDog s who else s)
  else if d.base = R.SEC_TKEY_KEY 0 0 then
    some (setTkeyWord s ((off - d.base) / 64) ((off - d.base) % 64 / 8) (maskMerge old v m))
  else if d.base = R.SEC_FKEY_KEY 0 0 then some (s.setReg off (maskMerge old v m))
  else if d.base = R.SPINDLE_L1DCTL 0 then some (writeL1Ctl s (spAt off) true v m)
  else if d.base = R.SPINDLE_L1ICTL 0 then some (writeL1Ctl s (spAt off) false v m)
  else if d.base = R.SESS_LDONE then some (writeLdone s (field w 23 0))
  else if d.base = R.MC_FMFREE then some (if mcUp s && decide (field m 7 0 ≠ 0) then freeMerge s (field w 7 0) else s)
  else if d.base = R.MBOX_DOORBELL then some (if field m 15 0 = 0 then s else doDoorbell (BitVec.ofNat 16 (field w 15 0)) s)
  else none

/-! ### Writes that act beside setting fields -/

/-- The fields of CHCMD have been written: the operation (R454). -/
def channelGo (s : State) (who : Agent) : State :=
  let c := BitVec.ofNat 16 (s.fld R.GCTL_CHCMD F.GCTL_CHCMD_CHAN)
  match s.fld R.GCTL_CHCMD F.GCTL_CHCMD_OP with
  | 1 => chanOpen s who c
  | 2 => let (s, closed) := chanClose s who c; if closed then endClosed s c else s
  | 3 => chanQuery s who c
  | 4 => chanConsume s who c (s.fld R.GCTL_CHCMD F.GCTL_CHCMD_COUNT)
  | _ => s

/-- GCTL, BEAT, FQ and RTT. -/
def globalAct (s : State) (who : Agent) (d : RegDesc) (old wo v m : Word) : State :=
  let on (f : Fld) := decide (getF wo f ≠ 0)
  if d.base = R.BEAT_CTRL then
    (if field m 0 0 = 0 then s else if bit v 0 then runOn s else runOff s)
  else if d.base = R.GCTL_CHCMD then (if on F.GCTL_CHCMD_GO then channelGo s who else s)
  else if d.base = R.SESS_CMD then (if on F.SESS_CMD_GO then sessCommand s else s)
  else if d.base = R.FQ_STAT then (if getF (v &&& m) F.FQ_STAT_PRI_FAILED ≠ 0 then sendBatches s else s)
  else if d.base = R.RTT_CTRL then
    let s := if on F.RTT_CTRL_FLUSHALL then flushRtt s else s
    (if decide (getF old F.RTT_CTRL_EN ≠ 0) && !s.flag R.RTT_CTRL F.RTT_CTRL_EN then rttOff s else s)
  else if d.base = R.FQ_CFG then fqConfigured s
  else if d.base = R.FQ_PRICFG then sendBatches s
  else if d.base = R.RTT_CFG then sendWaiting s
  else s

/-- QCFG: WORLD is the Sealed supervisor's, SIZE is written only while EN is 0, and EN turns the queue on or off. -/
def writeQcfg (s : State) (who : Agent) (e : EngineId) (q : QueueId) (old new : Word) : State :=
  let w := putF new F.SLUICE_QCFG_EN (getF old F.SLUICE_QCFG_EN)
  let w := if sealedSup s who then w else putF w F.SLUICE_QCFG_WORLD (getF old F.SLUICE_QCFG_WORLD)
  let w := if getF old F.SLUICE_QCFG_EN = 0 then w else putF w F.SLUICE_QCFG_SIZE (getF old F.SLUICE_QCFG_SIZE)
  let s := s.setReg (R.SLUICE_QCFG e q) w
  if getF new F.SLUICE_QCFG_EN = 0 then disableQueue s e q else enableQueue s e q

/-- QCTL, and the counters. -/
def sluiceAct (s : State) (d : RegDesc) (off : Nat) (wo : Word) : State :=
  let on (f : Fld) := decide (getF wo f ≠ 0)
  if d.base = R.SLUICE_CNT 0 0 then endWaits s
  else
    match queueAt off with
    | some (e, q) =>
      if d.base = R.SLUICE_QCTL 0 0 then
        let s := if on F.SLUICE_QCTL_RESUME then resumeQueue s e q else s
        let s := if on F.SLUICE_QCTL_RETRY then retryQueue s e q else s
        if on F.SLUICE_QCTL_ABORT then abortQueue s e q else s
      else s
    | none => s

/-- SCTL: WORLD is the Sealed supervisor's and changes only while the slot is IDLE; then GO and ABORT. -/
def writeSctl (s : State) (who : Agent) (i : SlotId) (new wo : Word) : State :=
  let s := if sealedSup s who && decide (slotState s i = 0) then s.setFld (R.REEL_SCTL i) F.REEL_SCTL_WORLD (getF new F.REEL_SCTL_WORLD) else s
  let s := if getF wo F.REEL_SCTL_GO ≠ 0 then reelFetch s i else s
  if getF wo F.REEL_SCTL_ABORT ≠ 0 then reelStop s i else s

/-- HANK.CTRL: EN, RETRAIN and TEST act; TEST on a port that is up is ignored. -/
def writeHankCtrl (s : State) (p : PortId) (old new wo : Word) : State :=
  let s := s.setReg (R.HANK_CTRL p) (putF (putF new F.HANK_CTRL_EN (getF old F.HANK_CTRL_EN)) F.HANK_CTRL_TEST (getF old F.HANK_CTRL_TEST))
  let was := getF old F.HANK_CTRL_EN
  let s := if was = 0 ∧ getF new F.HANK_CTRL_EN ≠ 0 then enablePort s p else if was ≠ 0 ∧ getF new F.HANK_CTRL_EN = 0 then disablePort s p else s
  let s := if getF wo F.HANK_CTRL_RETRAIN ≠ 0 then retrainPort s p else s
  let t := getF old F.HANK_CTRL_TEST
  if t = 0 ∧ getF new F.HANK_CTRL_TEST ≠ 0 then testOn s p else if t ≠ 0 ∧ getF new F.HANK_CTRL_TEST = 0 then testOff s p else s

/-- The stacks. -/
def stackAct (s : State) (d : RegDesc) (off : Nat) (wo : Word) : State :=
  let k := stackNo ((off - 0x1000000) / 0x10000)
  let on (f : Fld) := decide (getF wo f ≠ 0)
  if d.base = R.MEM_CTRL 0 then
    let s := if on F.MEM_CTRL_FLUSH then flushAll s k else s
    if on F.MEM_CTRL_RESUME then resumeGo s k else s
  else if d.base = R.MEM_WCCFG 0 then flushHigh s k
  else if d.base = R.MEM_RETIRE 0 then (if on F.MEM_RETIRE_GO then retireGo s k else s)
  else if d.base = R.MEM_SPARE 0 then (if on F.MEM_SPARE_GO then spareGo s k else s)
  else if d.base = R.MEM_PCFENCE 0 then (if on F.MEM_PCFENCE_FENCE then fencePch s k (s.fld off F.MEM_PCFENCE_PCH) else s)
  else if d.base = R.MEM_MARGIN 0 then (if on F.MEM_MARGIN_START then marginGo s k else s)
  else s

/-- The Spindles. -/
def spAct (s : State) (d : RegDesc) (off : Nat) (v wo m : Word) : State :=
  let on (f : Fld) := decide (getF wo f ≠ 0)
  if d.base = R.SPINDLE_TCTL 0 0 then
    let t := spThread off d.base 128
    let s := if on F.SPINDLE_TCTL_START then startThread s t else s
    if on F.SPINDLE_TCTL_HALT then haltThread s t else s
  else if d.base = R.SPINDLE_TSTAT 0 0 then
    (if getF (v &&& m) F.SPINDLE_TSTAT_REFUSED ≠ 0 then s.updThr (spThread off d.base 128) (fun x => { x with refused := false }) else s)
  else if d.base = R.SPINDLE_MTILE 0 0 then
    (if on F.SPINDLE_MTILE_FREL then doFrel (spAt off) (tileNo ((off % 0x100000 - 0x2000) / 8)) s else s)
  else if d.base = R.SPINDLE_MRES 0 then
    (if getF (v &&& m) F.SPINDLE_MRES_VALID ≠ 0 then s.setFld off F.SPINDLE_MRES_QSUSPECT 0 else s)
  else s

/-- SEC, MC, the monitors and the mailbox. -/
def serviceAct (s0 s : State) (who : Agent) (d : RegDesc) (off : Nat) (wo : Word) : State :=
  let on (f : Fld) := decide (getF wo f ≠ 0)
  if d.base = R.SEC_CMD then (if on F.SEC_CMD_GO then secGo s who else s)
  else if d.base = R.MC_REPCMD then (if on F.MC_REPCMD_GO then repairGo s else s)
  else if d.base = R.MC_ERRCFG ∨ d.base = R.MC_ERRBASE then (if mcUp s then drainRecords s else s)
  else if d.base = R.THERM_IRQ then alertAfter s0 s
  else if d.base = R.MON_DIETEMP 0 then (if on F.MON_DIETEMP_CLRMAX then s.setFld off F.MON_DIETEMP_MAX 0 else s)
  else if d.base = R.MON_VOLT 0 then
    (if on F.MON_VOLT_CLR then (s.setFld off F.MON_VOLT_MIN 0xFFFF).setFld off F.MON_VOLT_MAX 0 else s)
  else if d.base = R.MBOX_CTRL then
    (if on F.MBOX_CTRL_ABORT then let (s, n) := s.freeWord; doMboxAbort n.toNat s else s)
  else s

/-- A command register whose write is ignored while its command is in progress. -/
def busyCommand (s : State) (d : RegDesc) : Bool :=
  (decide (d.base = R.MC_REPCMD) && repairBusy s) || (decide (d.base = R.SEC_CMD) && s.flag R.SEC_CMD F.SEC_CMD_BUSY) ||
    (decide (d.base = R.SESS_CMD) && sessBusy s)

/-- The fields that are not staged take their values; then the write acts. -/
def fieldWrite (s0 s : State) (who : Agent) (d : RegDesc) (off : Nat) (v m : Word) : State :=
  let old := s0.reg off
  let new := clampReg off (s.reg off) (writeOnly d false (s.reg off) v m)
  let wo := woBits d v m
  if d.base = R.SLUICE_QCFG 0 0 then (match queueAt off with | some (e, q) => writeQcfg s who e q old new | none => s)
  else if d.base = R.REEL_SCTL 0 then (match reelAt off with | some i => writeSctl s who i new wo | none => s)
  else if d.base = R.HANK_CTRL 0 then writeHankCtrl s (⟨(off - d.base) / 0x10000 % 16, Nat.mod_lt _ (by decide)⟩ : PortId) old new wo
  else if d.base = R.BEAT_CTRL then globalAct s who d old wo v m
  else
    let s := s.setReg off new
    if inRange off 0x2000000 0xC00000 then spAct s d off v wo m
    else if inRange off 0x1000000 0x180000 then stackAct s d off wo
    else if inRange off 0x400000 0x100000 then sluiceAct s d off wo
    else if alwaysOn off && decide (0x3400000 ≤ off) then serviceAct s0 s who d off wo
    else globalAct s who d old wo v m

/-- A write of `v` to the bits `m` of the 8 bytes at `off`, a multiple of 8, that `who` may make and that reaches a register. -/
def regWrite (s : State) (who : Agent) (d : RegDesc) (off : Nat) (v m : Word) : State :=
  match wholeWrite s who d off v m with
  | some s' => s'
  | none =>
    if d.anyStaged then
      match stageWrite s off v m with
      | (s1, true) => fieldWrite s s1 who d off v m
      | (s1, false) => s1
    else fieldWrite s s who d off v m

/-- A write by `who` of 8 bytes, or of the 4 bytes at `off`, naturally aligned (R6–R8, R105, R107). -/
def mmioWrite (s : State) (who : Agent) (off : Nat) (size8 : Bool) (v : Word) : State :=
  let r := off / 8 * 8
  let hi := decide (off % 8 = 4)
  let m := accessMask size8 hi
  let v := if !size8 && hi then v <<< 32 else v
  if off % (if size8 then 8 else 4) ≠ 0 ∨ answersTo s who r = false ∨ mayCtl s who = false then s
  else if msixTable r then writeMsixEntry s r v m
  else
    match regDesc r with
    | none => s
    | some d =>
      if (d.atomic64 && !size8) || (sealedOwned s r && !sealedSup s who) || busyCommand s d then s
      else regWrite s who d r v m

/-! ### The commands that are register writes -/

/-- STAGED_WRITE and REGISTER_WRITE. -/
def execStagedWrite (who : Agent) (off : Nat) (size8 : Bool) (v : Word) (s : State) : Host.Outcome State Fault Refusal :=
  powered s (fun s => mmioWrite s who off size8 v)
def execRegisterWrite (who : Agent) (off : Nat) (size8 : Bool) (v : Word) (s : State) : Host.Outcome State Fault Refusal :=
  powered s (fun s => mmioWrite s who off size8 v)

end Sys2Proof.Machine
end

