-- ==== Sys2Proof/Machine/HostIf.lean ====
section
/-! DEFINITION. Host requests on the BARs (R6, R524, R528–R530): what reaches the device, and how it completes. -/

namespace Sys2Proof.Machine
open Sys2Proof

/-- A request on a BAR reaches the device: power is on and PERST_L is high. -/
def reached (s : State) : Bool := !s.dead && !s.power.perst

/-- A BAR access of any kind in D3hot completes with Unsupported Request (R524). -/
def onBar (s : State) (f : State → State) : State :=
  if !reached s then s else if s.host.d3hot then s.emit .unsupportedRequest else f s

/-- A host request to BAR0 of `size` bytes at `off` (R6): one that is not a naturally aligned 4-byte or 8-byte access completes
with Completer Abort and has no effect. -/
def doBar0Access (write : Bool) (off size : Nat) (v : Word) (s : State) : State :=
  if Config.ctlBytes ≤ off then s
  else onBar s (fun s =>
    if (size ≠ 4 ∧ size ≠ 8) ∨ off % size ≠ 0 then s.emit .completerAbort
    else if write then mmioWrite s .host off (decide (size = 8)) v
    else s.emit (.completion (leBytes size (mmioRead s .host off (decide (size = 8))).toNat) false))

def execBar0Access (write : Bool) (off size : Nat) (v : Word) (s : State) : Host.Outcome State Fault Refusal :=
  powered s (doBar0Access write off size v)

/-- BAR2_READ. A stopped device answers on its BAR0 blocks alone (R571). -/
def execBar2Read (off len : Nat) (up : List Upset) (s : State) : Host.Outcome State Fault Refusal :=
  running s (fun s => onBar s (fun s => doBar2Read s off len up))
/-- BAR2_WRITE. -/
def execBar2Write (off : Nat) (data : List Byte) (poisoned : Bool) (up : List Upset) (s : State) : Host.Outcome State Fault Refusal :=
  running s (fun s => onBar s (fun s => doBar2Write s off data poisoned up))

end Sys2Proof.Machine
end

