-- ==== Sys2Proof/Machine/ScalarMem.lean ====
section
/-! DEFINITION. Loads, stores and atomics of a thread (R55, R63–R68, R82–R86, R95, R305, R316, R357–R362), and the data of a
cache line that returns (R311). -/

namespace Sys2Proof.Machine
open Sys2Proof

/-- The effective address (R63). -/
def eaOf (s : State) (t : Thr) (ra : Reg6) (imm : Imm14) : Word := (s.thr t).rg ra + BitVec.ofInt 64 imm.sext

/-! ### Inside a transaction (R82, R86) -/

/-- DESIGN CHOICE: assumption 31. -/
def txLine (tx : Tx) (line : Nat) : Option TxLine := tx.wset.find? (fun l => decide (l.line = line))

/-- A line joins the read set, unless the write set holds it; none when it would be the 65th. -/
def joinRead (tx : Tx) (line : Nat) : Option Tx :=
  if (txLine tx line).isSome ∨ line ∈ tx.rset then some tx
  else if 64 ≤ tx.rset.length then none
  else some { tx with rset := tx.rset ++ [line] }

/-- The buffer's bytes of address `a` on, over the bytes of memory. -/
def overBuffer (tx : Tx) (a : Nat) (bs : List (Byte × Bool)) : List (Byte × Bool) :=
  match txLine tx (a / 64) with
  | none => bs
  | some l =>
    let d := lineBytes l.data
    bs.mapIdx (fun i b => if l.mask.getLsbD (a % 64 + i) then (d.getD (a % 64 + i) 0, false) else b)

/-- Bytes stored at `a`, within one line, enter the buffer; none when the line would be the 17th of the write set. -/
def joinWrite (tx : Tx) (a : Nat) (data : List Byte) : Option Tx :=
  let o := a % 64
  let put (l : TxLine) : TxLine :=
    let old := lineBytes l.data
    { l with data := lineOf ((List.range 64).map (fun i => if o ≤ i ∧ i < o + data.length then data.getD (i - o) 0 else old.getD i 0)),
             mask := l.mask ||| BitVec.ofNat 64 ((2 ^ data.length - 1) * 2 ^ o) }
  match txLine tx (a / 64) with
  | some _ => some { tx with wset := tx.wset.map (fun l => if l.line = a / 64 then put l else l) }
  | none =>
    if 16 ≤ tx.wset.length then none
    else some { tx with wset := tx.wset ++ [put { line := a / 64, data := 0, mask := 0 }] }

/-! ### Loads -/

/-- The halves that L1D does not hold. -/
def missing (s : State) (t : Thr) (ps : List Part) : List Part :=
  ps.filter (fun p => ((s.cache (spindleOf t) true).find (p.ea / 64)).isNone)

/-- A cached load waits while its misses would be more than 4 (R55), while a row that it must read is copied (R342), or while the
store queue holds a byte of it (R317). -/
def loadWaits (s : State) (t : Thr) (ps : List Part) : Bool :=
  let ms := missing s t ps
  (!ms.isEmpty && decide (4 < missCount s t + ms.length)) || ms.any (fun p => anyRowBusy s p.ea p.n) ||
    ps.any (fun p => queueHits (s.thr t).storeQ p.ea p.n)

/-- The bytes of cacheable halves through L1D. -/
def l1Load (s : State) (t : Thr) (ps : List Part) : State × List (Byte × Bool) :=
  ps.foldl (fun acc p =>
    let (s, bs) := l1Read acc.1 t p.ea p.n
    (s, acc.2 ++ bs)) (s, [])

/-- Some word of a pan line is marked Deferred (R305). -/
def lineDeferred (s : State) (line : Nat) : Bool := (List.range 8).any (fun i => SMap.get false s.marks (64 * line + 8 * i))

/-- A load inside a transaction: a line of the read set that holds a Deferred word aborts it with ECC, wherever the word lies (R86, R305).
DESIGN CHOICE: assumption 31. -/
def txLoad (s : State) (t : Thr) (ps : List Part) (fin : State → List Byte → Res) (ea : Word) : Res :=
  if loadWaits s t ps then .wait s
  else
    let (s, bs) := l1Load s t ps
    match (s.thr t).tx with
    | none => .left s     -- an uncorrectable error struck the read set
    | some tx =>
      match ps.foldlM (fun x p => joinRead x (p.ea / 64)) tx with
      | none => .left (txAbort s t 3 0 false)
      | some tx' =>
        let s := s.updThr t (fun x => { x with tx := some tx' })
        let cut := (ps.foldl (fun (acc : Nat × List (Byte × Bool)) p =>
          (acc.1 + p.n, acc.2 ++ overBuffer tx' p.ea ((bs.drop acc.1).take p.n))) (0, [])).2
        if ps.any (fun p => decide (p.ea / 64 ∈ tx'.rset) && (lineDeferred s (p.ea / 64) || cut.any (·.2))) then .left (txAbort s t 12 0 false)
        else if cut.any (·.2) then .trap s ⟨Cause.POISON, 0, ea⟩
        else fin s (cut.map (·.1))

/-- A load outside a transaction from device addresses. -/
def devLoad (s : State) (t : Thr) (ps : List Part) (ea : Word) (n : Nat) (fin : State → List Byte → Res) : Res :=
  let a := ea.toNat
  match windowOf a with
  | .control => fin s (leBytes n (mmioRead s (.thread t) (a - Config.ctlBase) (decide (n = 8))).toNat)
  | .tstore => let (s, bs) := tstoreRead s a n; fin s bs
  | .session =>
    let (s, bs) := memRead s (.thread t) 0 a n
    if bs.any (·.2) then .trap s ⟨Cause.POISON, 0, ea⟩ else fin s (bs.map (·.1))
  | .hbm | .pan _ | .openHandler | .sealedHandler | .unmapped =>
    if loadWaits s t ps then .wait s
    else
      let (s, bs) := l1Load s t ps
      if bs.any (·.2) then .trap s ⟨Cause.POISON, 0, ea⟩ else fin s (bs.map (·.1))

def ldBody (is : Issue) (k : LdKind) (rd ra : Reg6) (imm : Imm14) (up : List Upset) (word : Word) (s : State) : Res :=
  let t := is.thr
  let s := strikes s up
  let x := s.thr t
  let ea := eaOf s t ra imm
  let n := k.bytes
  let fin (s : State) (bs : List Byte) : Res :=
    let v := if k.signed then BitVec.ofInt 64 (sextNat (ofLe bs) (8 * n)) else BitVec.ofNat 64 (ofLe bs)
    .done (s.updThr t (fun y => y.wg rd v)) none
  if x.tx.isSome && !(halves ea n).all (ownPan t) then .left (txAbort s t 4 0 false)
  else
    match checkAccess s x .load ea n with
    | .error i => .trap s i
    | .ok ps =>
      if x.tx.isSome then txLoad s t ps fin ea
      else if isSva ea.toNat then
        match hostParts s t word .load ps with
        | (s, .ok l) =>
          match hostRead s t l with
          | (s, .data bs) => fin s bs
          | (s, .wait) => .wait s
          | (s, .trap i) => .trap s i
        | (s, .wait) => .wait s
        | (s, .trap i) => .trap s i
      else devLoad s t ps ea n fin

/-- ld.b, ld.h, ld.w, ld.d, ld.bu, ld.hu and ld.wu (R65). -/
def execLd (is : Issue) (k : LdKind) (rd ra : Reg6) (imm : Imm14) (up : List Upset) (s : State) : Host.Outcome State Fault Refusal :=
  let i : Insn := { word := immWord imm ra.toNat rd.toNat k.major, len := imm.len, cls := .mem, reads := [ra.toNat], writes := [rd.toNat],
                    inTx := true }
  .next (issue s is i (ldBody is k rd ra imm up i.word))

/-! ### Stores (R55, R66) -/

/-- The store of `data` at device address `a` outside control space: each half leaves the store queue for its home at once, or
stays in it; a store that finds too little room waits with all of it (R55, R67). -/
def devStore (s : State) (t : Thr) (ps : List Part) (a : Nat) (data : List Byte) : Res :=
  match ps.foldlM (fun z p => storePart z t p.ea ((data.drop (p.ea - a)).take p.n)) s with
  | some s1 => .done s1 none
  | none => .wait s

/-- A store inside a transaction. -/
def txStore (s : State) (t : Thr) (ps : List Part) (a : Nat) (data : List Byte) : Res :=
  match (s.thr t).tx with
  | none => .left s
  | some tx =>
    match ps.foldlM (fun x p => joinWrite x p.ea ((data.drop (p.ea - a)).take p.n)) tx with
    | none => .left (txAbort s t 2 0 false)
    | some tx' => .done (s.updThr t (fun x => { x with tx := some tx' })) none

/-- DESIGN CHOICE: assumption 28. -/
def stBody (is : Issue) (k : StKind) (rs ra : Reg6) (imm : Imm14) (up : List Upset) (word : Word) (s : State) : Res :=
  let t := is.thr
  let s := strikes s up
  let x := s.thr t
  let ea := eaOf s t ra imm
  let n := k.bytes
  let data := leBytes n (x.rg rs).toNat
  if x.tx.isSome && !(halves ea n).all (ownPan t) then .left (txAbort s t 4 0 false)
  else
    match checkAccess s x .store ea n with
    | .error i => .trap s i
    | .ok ps =>
      if x.tx.isSome then txStore s t ps ea.toNat data
      else if isSva ea.toNat then
        match translateParts s t word .store ps with
        | (s, .ok l) =>
          .done (l.foldl (fun z h => hostWrite z h ((data.drop ((BitVec.ofNat 64 h.part.ea - ea).toNat)).take h.part.n)) s) none
        | (s, .wait) => .wait s
        | (s, .trap i) => .trap s i
      else if windowOf ea.toNat = .control then (if x.storeQ.isEmpty then .done s none else .wait s)
      else devStore s t ps ea.toNat data

/-- The offset in control space that a store of `n` bytes reaches, if it reaches one (R4). DESIGN CHOICE: assumption 15. -/
def ctlStore (ea : Word) : Option Nat :=
  if isDevice ea.toNat ∧ windowOf ea.toNat = .control then some (ea.toNat - Config.ctlBase) else none

/-- st.b, st.h, st.w and st.d (R65). A store to control space acts on the register once the instruction has completed, so that
a thread that halts itself keeps the next PC (R101). -/
def execSt (is : Issue) (k : StKind) (rs ra : Reg6) (imm : Imm14) (up : List Upset) (s : State) : Host.Outcome State Fault Refusal :=
  let i : Insn := { word := immWord imm ra.toNat rs.toNat k.major, len := imm.len, cls := .mem, reads := [ra.toNat, rs.toNat], inTx := true }
  let s1 := issue s is i (stBody is k rs ra imm up i.word)
  let x := s.thr is.thr
  match ctlStore (eaOf s is.thr ra imm) with
  | some off => if (s1.thr is.thr).instret = x.instret then .next s1
      else done (mmioWrite s1 (.thread is.thr) off (decide (k = .d)) (x.rg rs))
  | none => .next s1

/-! ### Atomics -/

/-- An atomic on a shared virtual address leaves as an AtomicOp; the instruction runs again when its completion has come (R362). -/
def svaAtomic (s : State) (t : Thr) (word ea : Word) (n : Nat) (op : AtomOp) (operand compare : Word) (ps : List Part)
    (fin : State → Nat → Res) : Res :=
  match (s.thr t).host.find? (fun r => decide (r.va = ea.toNat) && decide (r.len = n)) with
  | some r =>
    match r.reply with
    | .waiting => .wait s
    | .failed => .trap (s.bump R.FQ_REFUSED 1) ⟨Cause.TRANSLATE, 2, ea⟩
    | .data _ true => .trap s ⟨Cause.POISON, 0, ea⟩
    | .data bs false => fin s (ofLe bs)
  | none =>
    match translateParts s t word .atomic ps with
    | (s, .wait) => .wait s
    | (s, .trap i) => .trap s i
    | (s, .ok []) => .wait s
    | (s, .ok (h :: _)) =>
      let (s, tag) := s.newTag
      let s := s.emit (.hostAtomic tag h.pa op (decide (n = 8)) operand compare (!h.untr) h.ns (pasidOf s))
      .wait (s.updThr t (fun x => { x with host := x.host ++ [{ tag := tag, va := ea.toNat, len := n, reply := .waiting }] }))

/-- The operations that PCIe carries (R362). -/
def pcieAtomic (op : AtomOp) : Bool := match op with
  | .swap | .add | .cas => true
  | .and | .or | .xor | .min | .max | .minu | .maxu => false

def atomicBody (is : Issue) (op : AtomOp) (dbl : Bool) (rd ra rb : Reg6) (up : List Upset) (word : Word) (s : State) : Res :=
  let t := is.thr
  let s := strikes s up
  let x := s.thr t
  let ea := x.rg ra
  let n := if dbl then 8 else 4
  let fin (s : State) (old : Nat) : Res := .done (s.updThr t (fun y => y.wg rd (BitVec.ofInt 64 (sextNat old (8 * n))))) none
  if isSva ea.toNat && !pcieAtomic op then .trap s ⟨Cause.DEV_ADDR, 0, ea⟩
  else
    match checkAccess s x .atomic ea n with
    | .error i => .trap s i
    | .ok ps =>
      if isSva ea.toNat then svaAtomic s t word ea n op (x.rg rb) (x.rg rd) ps fin
      else if anyWriteBusy s ea.toNat n || queueHits x.storeQ ea.toNat n then .wait s
      else
        match memAtomic (invalLine s (spindleOf t) true (ea.toNat / 64)) (.atomic t) ea.toNat op dbl (x.rg rb) (x.rg rd) with
        | (s, _, true) => .trap s ⟨Cause.POISON, 0, ea⟩
        | (s, old, false) => fin s old

/-- The ATOM group (R68, R95). -/
def execAtomic (is : Issue) (op : AtomOp) (dbl : Bool) (rd ra rb : Reg6) (up : List Upset) (s : State) : Host.Outcome State Fault Refusal :=
  let i : Insn := { word := word1 (fmtR (op.func + 16 * boolNat dbl) rb.toNat ra.toNat rd.toNat 0x17), cls := .mem,
                    reads := [ra.toNat, rb.toNat] ++ (if op = .cas then [rd.toNat] else []), writes := [rd.toNat] }
  .next (issue s is i (atomicBody is op dbl rd ra rb up i.word))

/-! ### Line fills (R308, R311) -/

/-- The data of the oldest outstanding request for `line` returns: it is allocated unless R311 drops it. A fill whose row is
being copied stays outstanding (R342). DESIGN CHOICE: assumption 29. -/
def doLineFill (sp : SpindleId) (d : Bool) (line : Nat) (up : List Upset) (s : State) : State :=
  match (s.cache sp d).fills.find? (fun f => decide (f.line = line)) with
  | none => s
  | some f =>
    let s := strikes s up
    if (underMapping s f.map (fun z => (z, anyRowBusy z (64 * line) 64))).2 then s
    else
      let c := s.cache sp d
      let s := s.setCache sp d { c with fills := c.fills.erase f }
      let (s, bs) := underMapping s f.map (fun z => memRead z (.fill sp) 0 (64 * line) 64)
      if f.drop || bs.any (·.2) then s else allocate s sp d f (lineOf (bs.map (·.1)))

def execLineFill (sp : SpindleId) (isData : Bool) (line : Nat) (up : List Upset) (s : State) : Host.Outcome State Fault Refusal :=
  running s (doLineFill sp isData line up)

end Sys2Proof.Machine
end

