-- ==== Sys2Proof/Machine/Units.lean ====
section
/-! DEFINITION. The commands on the units around the Spindles: stacks, translation, the Sluice, Hank, the Reel, sessions, security,
reliability and power. Each meaning is one call of the operation that its chapter's file defines. -/

namespace Sys2Proof.Machine
open Sys2Proof

/-- The operation behind the register at `off`, when that register answers. -/
def whenUp (s : State) (off : Nat) (f : State → State) : State := if answers s off then f s else s

/-- A write by `who` of the register at `off` takes effect: the register answers, and its owner's rules admit the writer (R105,
R107, R554). DESIGN CHOICE: assumption 16. -/
def reaches (s : State) (who : Agent) (off : Nat) : Bool :=
  answersTo s who off && mayCtl s who && (!sealedOwned s off || sealedSup s who)

/-- A command that is a write by `who` of the whole register at `off`, with the effect `f`. -/
def writes (s : State) (who : Agent) (off : Nat) (f : State → State) : State := if reaches s who off then f s else s

/-! ### Doorbells and routes (R135, R144), L1 controls (R314, R315) -/

/-- FQ.TDOOR. DESIGN CHOICE: assumption 16. -/
def execTdoor (who : Agent) (t : Thr) (v : BitVec 4) (s : State) : Host.Outcome State Fault Refusal :=
  running s (fun s => writes s who (R.FQ_TDOOR t) (fun s => ringDoor s who t v.toNat))

/-- FQ.TROUTE with the fields of `v`; a thread above 47 or a line above 23 leaves its field as it was. -/
def routeWord (old v : Word) : Word :=
  let w := old &&& ~~~0x1FFF ||| (v &&& 0x1FFF)
  let w := if getF v F.FQ_TROUTE_THREAD < 48 then w else putF w F.FQ_TROUTE_THREAD (getF old F.FQ_TROUTE_THREAD)
  if getF v F.FQ_TROUTE_LINE < 24 then w else putF w F.FQ_TROUTE_LINE (getF old F.FQ_TROUTE_LINE)

/-- A route of or to the Sealed world is the Sealed supervisor's alone (R144). -/
def setRoute (s : State) (who : Agent) (i : Fin 256) (v : Word) : State :=
  let old := s.reg (R.FQ_TROUTE i)
  let new := routeWord old v
  if !sealedSup s who && (decide (getF old F.FQ_TROUTE_WORLD ≠ 0) || decide (getF new F.FQ_TROUTE_WORLD ≠ 0)) then s
  else s.setReg (R.FQ_TROUTE i) new

def execTrouteWrite (who : Agent) (i : Fin 256) (v : Word) (s : State) : Host.Outcome State Fault Refusal :=
  running s (fun s => writes s who (R.FQ_TROUTE i) (fun s => setRoute s who i v))

/-- L1DCTL or L1ICTL, whole or by halves. -/
def execL1CtlWrite (who : Agent) (sp : SpindleId) (isData size8 hi : Bool) (v : Word) (s : State) : Host.Outcome State Fault Refusal :=
  running s (fun s => writes s who (ctlOff sp isData) (fun s =>
    writeL1Ctl s sp isData (if !size8 && hi then v <<< 32 else v) (accessMask size8 hi)))

/-! ### Pan scrub and stacks (08, 09) -/

def execPanScrub (sp : SpindleId) (up : List Upset) (s : State) : Host.Outcome State Fault Refusal :=
  running s (fun s => scrubPan (strikes s up) sp)

def execHbmWrite (who : Agent) (addr : Nat) (data : List Byte) (up : List Upset) (s : State) : Host.Outcome State Fault Refusal :=
  running s (fun s => hbmAccess s (.hbmWrite who addr data up))
def execHbmRead (who : Agent) (addr len : Nat) (up : List Upset) (s : State) : Host.Outcome State Fault Refusal :=
  running s (fun s => hbmAccess s (.hbmRead who addr len up))
def execHbmAtomic (who : Agent) (addr : Nat) (op : AtomOp) (dbl : Bool) (operand compare : Word) (up : List Upset) (s : State) :
    Host.Outcome State Fault Refusal :=
  running s (fun s => hbmAccess s (.hbmAtomic who addr op dbl operand compare up))

def execWcbAgeFlush (k : StackId) (up : List Upset) (s : State) : Host.Outcome State Fault Refusal :=
  running s (fun s => ageFlush (strikes s up) k)
/-- MEM.CTRL.FLUSH. -/
def execFlush (k : StackId) (up : List Upset) (s : State) : Host.Outcome State Fault Refusal :=
  running s (fun s => whenUp (strikes s up) (R.MEM_CTRL k) (fun s => flushAll s k))
def execHbmScrub (k : StackId) (up : List Upset) (s : State) : Host.Outcome State Fault Refusal :=
  running s (fun s => scrubStack (strikes s up) k)

/-- The fields of MEM.RETIRE that name a row. -/
def rowFields (w : Word) (pch : BitVec 6) (sid bg ba : BitVec 2) (row : BitVec 15) : Word :=
  putF (putF (putF (putF (putF w F.MEM_RETIRE_PCH pch.toNat) F.MEM_RETIRE_SID sid.toNat) F.MEM_RETIRE_BG bg.toNat)
    F.MEM_RETIRE_BA ba.toNat) F.MEM_RETIRE_ROW row.toNat
/-- MEM.RETIRE with GO. -/
def execRetire (k : StackId) (pch : BitVec 6) (sid bg ba : BitVec 2) (row : BitVec 15) (s : State) : Host.Outcome State Fault Refusal :=
  running s (fun s => writes s .mc (R.MEM_RETIRE k) (fun s => retireGo (s.setReg (R.MEM_RETIRE k) (rowFields (s.reg (R.MEM_RETIRE k)) pch sid bg ba row)) k))
def execRetireDone (k : StackId) (s : State) : Host.Outcome State Fault Refusal := running s (fun s => retireEnd s k)
/-- MEM.SPARE with GO. -/
def execSpare (k : StackId) (pch : BitVec 6) (s : State) : Host.Outcome State Fault Refusal :=
  running s (fun s => writes s .mc (R.MEM_SPARE k) (fun s => spareGo (s.setFld (R.MEM_SPARE k) F.MEM_SPARE_PCH pch.toNat) k))
def execSpareDone (k : StackId) (s : State) : Host.Outcome State Fault Refusal := running s (fun s => spareEnd s k)
/-- MEM.PCFENCE with FENCE. -/
def execPcfence (k : StackId) (pch : BitVec 6) (s : State) : Host.Outcome State Fault Refusal :=
  running s (fun s => writes s .mc (R.MEM_PCFENCE k) (fun s => fencePch (s.setFld (R.MEM_PCFENCE k) F.MEM_PCFENCE_PCH pch.toNat) k pch.toNat))

def execStackTempSample (k : StackId) (bd : List (BitVec 10)) (dr : List (BitVec 10)) (s : State) : Host.Outcome State Fault Refusal :=
  powered s (fun s => stackSample s k bd dr)
/-- MEM.CTRL.RESUME. -/
def execResume (k : StackId) (s : State) : Host.Outcome State Fault Refusal :=
  running s (fun s => whenUp s (R.MEM_CTRL k) (fun s => resumeGo s k))
/-- The bits of MEM.MARGIN that a write sets: PCH, MODE, OFFSET, PATTERN and BURSTS. -/
def marginMask : Word := 0x00FFFFFFFFF0FFFF
/-- MEM.MARGIN with START; `v` holds its other fields. -/
def execMarginStart (k : StackId) (v : Word) (s : State) : Host.Outcome State Fault Refusal :=
  running s (fun s => writes s .mc (R.MEM_MARGIN k) (fun s => marginGo (s.setReg (R.MEM_MARGIN k) (maskMerge (s.reg (R.MEM_MARGIN k)) v marginMask)) k))
def execMarginDone (k : StackId) (errBursts : Nat) (lanes : BitVec 32) (s : State) : Host.Outcome State Fault Refusal :=
  running s (fun s => marginEnd s k errBursts lanes)

/-! ### Translation (10) -/

def execAtsTranslationCompletion (req : Nat) (ts : List Translation) (up : List Upset) (s : State) : Host.Outcome State Fault Refusal :=
  running s (fun s => translationCompletion (strikes s up) req ts)
def execAtsInvalidationRequest (itag : BitVec 5) (va size : Nat) (pasid : Option (BitVec 20)) (global : Bool) (s : State) :
    Host.Outcome State Fault Refusal :=
  running s (fun s => invalidationRequest s itag va size pasid global)
def execInvalidationCompletion (itag : BitVec 5) (s : State) : Host.Outcome State Fault Refusal :=
  running s (fun s => completeInvalidation s itag)

/-- The bytes lie in the translation store. -/
def inTstore (a n : Nat) : Bool := decide (Config.tstoreBase ≤ a ∧ a + n ≤ Config.tstoreBase + Config.tstoreBytes)
def execTranslationStoreWrite (who : Agent) (addr : Nat) (data : List Byte) (s : State) : Host.Outcome State Fault Refusal :=
  running s (fun s => if mayCtl s who && inTstore addr data.length then tstoreWrite s addr data else s)
/-- RTT.CTRL.FLUSHALL. -/
def execFlushall (s : State) : Host.Outcome State Fault Refusal := running s (fun s => whenUp s R.RTT_CTRL flushRtt)
/-- RTT.CTRL.EN cleared. -/
def execRttDisable (s : State) : Host.Outcome State Fault Refusal :=
  running s (fun s => whenUp s R.RTT_CTRL (fun s => rttOff (s.setFlag R.RTT_CTRL F.RTT_CTRL_EN false)))
def execBatchWindowExpiry (s : State) : Host.Outcome State Fault Refusal := running s windowEnd
def execPageRequestGroupResponse (idx : BitVec 9) (code : PrgCode) (s : State) : Host.Outcome State Fault Refusal :=
  running s (fun s => groupResponse s idx code)
def execPriTimeout (batch : BitVec 32) (s : State) : Host.Outcome State Fault Refusal := running s (fun s => responseTimeout s batch)
def execFqHeadWrite (v : BitVec 32) (s : State) : Host.Outcome State Fault Refusal :=
  running s (fun s => writes s .mc R.FQ_HEAD (fun s => writeFqHead s v.toNat))
/-- A write of 1 to FQ.STAT.PRI_FAILED. -/
def execPriFailedClear (s : State) : Host.Outcome State Fault Refusal :=
  running s (fun s => writes s .mc R.FQ_STAT (fun s => sendBatches (s.setFlag R.FQ_STAT F.FQ_STAT_PRI_FAILED false)))
def execHostReadCompletion (tag : Nat) (st : CplStatus) (data : List Byte) (poisoned : Bool) (s : State) : Host.Outcome State Fault Refusal :=
  running s (fun s => hostCompletion s tag st data poisoned)
def execCompletionTimeout (tag : Nat) (s : State) : Host.Outcome State Fault Refusal := running s (fun s => hostTimeout s tag)

/-! ### The Sluice (11) -/

def execQtailWrite (who : Agent) (e : EngineId) (q : QueueId) (v : BitVec 32) (s : State) : Host.Outcome State Fault Refusal :=
  running s (fun s => writes s who (R.SLUICE_QTAIL e q) (fun s => writeTail s e q v.toNat))
def execDescriptorFetch (e : EngineId) (q : QueueId) (up : List Upset) (s : State) : Host.Outcome State Fault Refusal :=
  running s (fun s => fetchNext (strikes s up) e q)
def execSluiceCopy (e : EngineId) (q : QueueId) (up : List Upset) (s : State) : Host.Outcome State Fault Refusal :=
  running s (fun s => copyTurn (strikes s up) e q)
def execSluiceRunComplete (e : EngineId) (q : QueueId) (s : State) : Host.Outcome State Fault Refusal :=
  running s (fun s => completeRun s e q)

/-- The queue runs a descriptor of operation `op`. -/
def runsOp (s : State) (e : EngineId) (q : QueueId) (op : Nat) : Option Desc :=
  match (s.slq e q).desc with
  | some d => if d.op = op ∧ qState s e q = QS.RUNNING then some d else none
  | none => none

def execSluiceNop (e : EngineId) (q : QueueId) (s : State) : Host.Outcome State Fault Refusal :=
  running s (fun s => match runsOp s e q 0 with | some _ => endDesc s e q ST.OK | none => s)

/-- QLOOP0 or QLOOP1: the register of a loop level. -/
def loopReg (e : EngineId) (q : QueueId) (lvl : Nat) : Nat := if lvl = 0 then R.SLUICE_QLOOP0 e q else R.SLUICE_QLOOP1 e q

/-- A LOOP (R407): ITER in COUNT0, BACK in COUNT1, the level in bit 0 of COUNT2. -/
def runLoop (s : State) (e : EngineId) (q : QueueId) (d : Desc) : State :=
  let iter := d.cnt.1
  let r := loopReg e q (d.cnt.2.2.1 % 2)
  let w := s.reg r
  let n := if bit w 32 then field w 31 0 else iter
  if n ≠ 0 then
    let left := if iter = 0xFFFFFFFF then n else n - 1
    endDesc (s.setReg r (BitVec.ofNat 64 (left + 2 ^ 32))) e q ST.OK none (some d.cnt.2.1)
  else endDesc (s.setReg r 0) e q ST.OK

def execSluiceLoop (e : EngineId) (q : QueueId) (s : State) : Host.Outcome State Fault Refusal :=
  running s (fun s => match runsOp s e q 2 with | some d => runLoop s e q d | none => s)

/-- A WAIT ends when its counter has reached TARGET, and waits otherwise (R406). -/
def execSluiceWait (e : EngineId) (q : QueueId) (s : State) : Host.Outcome State Fault Refusal :=
  running s (fun s => match runsOp s e q 3 with
    | some d => if waitMet s d then endDesc s e q ST.OK else setQState s e q QS.WAIT_COUNTER
    | none => s)

/-- A SIGNAL ends, and its counter grows by VALUE; the queue leaves the descriptor before the addition reaches a WAIT. -/
def execSluiceSignal (e : EngineId) (q : QueueId) (s : State) : Host.Outcome State Fault Refusal :=
  running s (fun s => match runsOp s e q 4 with
    | some d => addCounter (endDesc s e q ST.OK) d.cnt.1 d.cnt.2.1
    | none => s)

def execQctlResume (who : Agent) (e : EngineId) (q : QueueId) (s : State) : Host.Outcome State Fault Refusal :=
  running s (fun s => writes s who (R.SLUICE_QCTL e q) (fun s => resumeQueue s e q))
def execQctlRetry (who : Agent) (e : EngineId) (q : QueueId) (s : State) : Host.Outcome State Fault Refusal :=
  running s (fun s => writes s who (R.SLUICE_QCTL e q) (fun s => retryQueue s e q))
def execQctlAbort (who : Agent) (e : EngineId) (q : QueueId) (s : State) : Host.Outcome State Fault Refusal :=
  running s (fun s => writes s who (R.SLUICE_QCTL e q) (fun s => abortQueue s e q))
/-- A write of QCFG that clears EN and keeps the rest. -/
def execQueueDisable (who : Agent) (e : EngineId) (q : QueueId) (s : State) : Host.Outcome State Fault Refusal :=
  running s (fun s => writes s who (R.SLUICE_QCFG e q) (fun s => disableQueue s e q))
/-- A write of QCFG that sets EN and keeps the rest. -/
def execQueueEnable (who : Agent) (e : EngineId) (q : QueueId) (s : State) : Host.Outcome State Fault Refusal :=
  running s (fun s => writes s who (R.SLUICE_QCFG e q) (fun s => enableQueue s e q))

/-! ### Hank (12) -/

/-- A message of kind `k` has arrived whole on virtual lane `vl`. -/
def receive (s : State) (m : Msg) (k vl : Nat) : State := onMessage s (msgWithKind m k) vl

def execPut (m : Msg) (s : State) : Host.Outcome State Fault Refusal := running s (fun s => receive s m MK.PUT 1)
def execGet (m : Msg) (s : State) : Host.Outcome State Fault Refusal := running s (fun s => receive s m MK.GET 1)
def execGetwaitExpiry (chan : BitVec 16) (s : State) : Host.Outcome State Fault Refusal := running s (fun s => getExpires s chan)
def execGetdata (m : Msg) (s : State) : Host.Outcome State Fault Refusal := running s (fun s => receive s m MK.GETDATA 1)
def execAck (m : Msg) (s : State) : Host.Outcome State Fault Refusal := running s (fun s => receive s m MK.ACK 0)
def execNack (m : Msg) (s : State) : Host.Outcome State Fault Refusal := running s (fun s => receive s m MK.NACK 0)
def execMessageTimeout (xid : BitVec 32) (s : State) : Host.Outcome State Fault Refusal := running s (fun s => requestTimeout s xid)

/-- A write of GCTL.CHCMD with GO. -/
def chCommand (s : State) (who : Agent) (op : Nat) (chan : BitVec 16) (count : Nat) : State :=
  writes s who R.GCTL_CHCMD (fun s => channelGo (s.setReg R.GCTL_CHCMD
    (putF (putF (putF (s.reg R.GCTL_CHCMD) F.GCTL_CHCMD_CHAN chan.toNat) F.GCTL_CHCMD_OP op) F.GCTL_CHCMD_COUNT count)) who)

def execOpenChannel (who : Agent) (chan : BitVec 16) (s : State) : Host.Outcome State Fault Refusal := running s (fun s => chCommand s who 1 chan 0)
def execCloseChannel (who : Agent) (chan : BitVec 16) (s : State) : Host.Outcome State Fault Refusal := running s (fun s => chCommand s who 2 chan 0)
def execQuery (who : Agent) (chan : BitVec 16) (s : State) : Host.Outcome State Fault Refusal := running s (fun s => chCommand s who 3 chan 0)
def execConsume (who : Agent) (chan : BitVec 16) (count : BitVec 21) (s : State) : Host.Outcome State Fault Refusal :=
  running s (fun s => chCommand s who 4 chan count.toNat)

def execFlitReceive (p : PortId) (flit : List Byte) (fec : PairFec) (rx : Word) (s : State) : Host.Outcome State Fault Refusal :=
  running s (doFlitReceive p flit fec rx)
def execReplayTimeout (p : PortId) (s : State) : Host.Outcome State Fault Refusal := running s (doReplayTimeout p)
def execPortEnable (p : PortId) (s : State) : Host.Outcome State Fault Refusal := running s (fun s => whenUp s (R.HANK_CTRL p) (doPortEnable p))
def execPortDisable (p : PortId) (s : State) : Host.Outcome State Fault Refusal := running s (fun s => whenUp s (R.HANK_CTRL p) (doPortDisable p))
def execRetrain (p : PortId) (s : State) : Host.Outcome State Fault Refusal := running s (fun s => whenUp s (R.HANK_CTRL p) (doRetrain p))
def execTest (p : PortId) (errs : Nat) (s : State) : Host.Outcome State Fault Refusal :=
  running s (fun s => whenUp s (R.HANK_CTRL p) (doTest p errs))
def execTrainingComplete (p : PortId) (peer : BitVec 12) (peerPort : BitVec 4) (peerBond : Bool) (s : State) : Host.Outcome State Fault Refusal :=
  running s (doTrainingComplete p peer peerPort peerBond)
def execTrainfail (p : PortId) (s : State) : Host.Outcome State Fault Refusal := running s (doTrainfail p)
def execSignalLoss (p : PortId) (s : State) : Host.Outcome State Fault Refusal := running s (doSignalLoss p)

/-! ### The Reel (13) -/

/-- A write of REEL.SCTL that sets GO and keeps WORLD. -/
def execReelGo (who : Agent) (i : SlotId) (s : State) : Host.Outcome State Fault Refusal :=
  running s (fun s => writes s who (R.REEL_SCTL i) (fun s => reelFetch s i))
/-- A write of REEL.SCTL that sets ABORT and keeps WORLD. -/
def execReelAbort (who : Agent) (i : SlotId) (s : State) : Host.Outcome State Fault Refusal :=
  running s (fun s => writes s who (R.REEL_SCTL i) (fun s => reelStop s i))

/-- The Reel message with type `t` in bits [3:0] of its header (R474). -/
def reelTyped (m : Msg) (t : Nat) : Msg :=
  { m with data := match m.data with | b :: l => BitVec.ofNat 8 (b.toNat / 16 * 16 + t) :: l | [] => [] }
def receiveReel (s : State) (m : Msg) (t : Nat) : State := receive s (reelTyped m t) MK.REEL 1

def execGrant (m : Msg) (s : State) : Host.Outcome State Fault Refusal := running s (fun s => receiveReel s m RT.GRANT)
def execData (m : Msg) (s : State) : Host.Outcome State Fault Refusal := running s (fun s => receiveReel s m RT.DATA)
def execPrepass (m : Msg) (s : State) : Host.Outcome State Fault Refusal := running s (fun s => receiveReel s m RT.PREPASS)
def execBkreq (m : Msg) (s : State) : Host.Outcome State Fault Refusal := running s (fun s => receiveReel s m RT.BKREQ)
def execTakeover (m : Msg) (s : State) : Host.Outcome State Fault Refusal := running s (fun s => receiveReel s m RT.TAKEOVER)
def execNone (m : Msg) (s : State) : Host.Outcome State Fault Refusal := running s (fun s => receiveReel s m RT.NONE)
def execAbort (m : Msg) (s : State) : Host.Outcome State Fault Refusal := running s (fun s => receiveReel s m RT.ABORT)
def execRetreq (m : Msg) (s : State) : Host.Outcome State Fault Refusal := running s (fun s => receiveReel s m RT.RETREQ)
def execGrantDeadline (i : SlotId) (receiver : Nat) (s : State) : Host.Outcome State Fault Refusal :=
  running s (fun s => onGrantDeadline s i receiver)
def execHopDeadline (i : SlotId) (hop : Nat) (s : State) : Host.Outcome State Fault Refusal := running s (fun s => onHopDeadline s i hop)
def execBkwaitExpiry (i : SlotId) (hop : Nat) (s : State) : Host.Outcome State Fault Refusal := running s (fun s => onBkwait s i hop)

/-! ### Sessions (14) -/

def execScheduleRead (up : List Upset) (s : State) : Host.Outcome State Fault Refusal := running s (fun s => scheduleTurn (strikes s up))
def execSchtailWrite (v : BitVec 32) (s : State) : Host.Outcome State Fault Refusal :=
  running s (fun s => writes s .mc R.SESS_SCHTAIL (fun s => writeSchTail s v.toNat))
/-- SESS.CMD ACTIVATE; ignored while a move is in progress (R510). -/
def execActivate (slot : BitVec 12) (sid : BitVec 16) (s : State) : Host.Outcome State Fault Refusal :=
  running s (fun s => writes s .mc R.SESS_CMD (fun s => if sessBusy s then s else sessCommand (s.setReg R.SESS_CMD
    (putF (putF (putF (s.reg R.SESS_CMD) F.SESS_CMD_SLOT slot.toNat) F.SESS_CMD_SID sid.toNat) F.SESS_CMD_OP 1))))
/-- SESS.CMD SPILL; ignored while a move is in progress (R510). -/
def execSpill (slot : BitVec 12) (s : State) : Host.Outcome State Fault Refusal :=
  running s (fun s => writes s .mc R.SESS_CMD (fun s => if sessBusy s then s else sessCommand (s.setReg R.SESS_CMD
    (putF (putF (s.reg R.SESS_CMD) F.SESS_CMD_SLOT slot.toNat) F.SESS_CMD_OP 2))))
def execLdone (lanes : BitVec 24) (s : State) : Host.Outcome State Fault Refusal :=
  running s (fun s => writes s .mc R.SESS_LDONE (fun s => writeLdone s lanes.toNat))

/-! ### Security (16) -/

def execLoadSealed (who : Agent) (arg : Byte) (s : State) : Host.Outcome State Fault Refusal := powered s (fun s => doLoadSealed s who arg.toNat)
def execTeardown (who : Agent) (s : State) : Host.Outcome State Fault Refusal := powered s (fun s => secTeardown s who)
def execAddRegion (who : Agent) (i : Byte) (s : State) : Host.Outcome State Fault Refusal := powered s (fun s => doAddRegion s who i.toNat)
def execRemoveRegion (who : Agent) (i : Byte) (s : State) : Host.Outcome State Fault Refusal := powered s (fun s => doRemoveRegion s who i.toNat)
def execAdvance (who : Agent) (ctr : Byte) (s : State) : Host.Outcome State Fault Refusal := powered s (fun s => doAdvance s who ctr.toNat)
def execAddPan (who : Agent) (n : Byte) (s : State) : Host.Outcome State Fault Refusal := powered s (fun s => doAddPan s who n.toNat)
def execRemovePan (who : Agent) (n : Byte) (s : State) : Host.Outcome State Fault Refusal := powered s (fun s => doRemovePan s who n.toNat)
def execTkeyWrite (who : Agent) (k : Fin 16) (i : Fin 4) (v : Word) (s : State) : Host.Outcome State Fault Refusal :=
  powered s (fun s => writes s who (R.SEC_TKEY_KEY k i) (fun s => setTkeyWord s k i v))
def execSpdmRequest (session : Option (BitVec 32)) (req : List Byte) (s : State) : Host.Outcome State Fault Refusal :=
  powered s (fun s => if mcUp s then answerSpdm s session req else s)
def execSetTkey (session : Option (BitVec 32)) (slot : Byte) (fixed : BitVec 32) (key : BitVec 256) (s : State) :
    Host.Outcome State Fault Refusal :=
  powered s (fun s => doSetTkey s session slot fixed key)
def execSetFkey (session : Option (BitVec 32)) (slot : Byte) (fixed : BitVec 32) (key : BitVec 256) (s : State) :
    Host.Outcome State Fault Refusal :=
  powered s (fun s => doSetFkey s session slot fixed key)
def execDebugUnlock (pubkey : List Byte) (sigR sigS : List Byte) (s : State) : Host.Outcome State Fault Refusal :=
  powered s (fun s => doDebugUnlock s pubkey sigR sigS)

/-! ### Reliability (17) -/

/-- A report that reaches the MC's channel (R575): settle merges it, or sends it to the collector. -/
def execFaultReport (r : Report) (s : State) : Host.Outcome State Fault Refusal := powered s (fun s => pushReport s r)
def execMergeWindowExpiry (e : Fin 256) (s : State) : Host.Outcome State Fault Refusal :=
  powered s (fun s => if mcUp s then windowExpires s e.val else s)
def execFmfree (e : Fin 256) (s : State) : Host.Outcome State Fault Refusal := powered s (fun s => writes s .mc R.MC_FMFREE (fun s => if mcUp s then freeMerge s e.val else s))
/-- DESIGN CHOICE: assumption 16. -/
def execErrheadWrite (v : BitVec 32) (s : State) : Host.Outcome State Fault Refusal :=
  powered s (fun s => writes s .mc R.MC_ERRHEAD (fun s => writeErrHead s v.toNat))
def execWatchdogExpiry (s : State) : Host.Outcome State Fault Refusal := powered s watchdogFires
def execKick (who : Agent) (s : State) : Host.Outcome State Fault Refusal := powered s (fun s => writes s who R.MC_WDOG (fun s => kickDog s who))
def execFenceSpindle (arg : BitVec 12) (scope persist : Bool) (s : State) : Host.Outcome State Fault Refusal :=
  powered s (fun s => repairCommand s 1 arg.toNat scope persist)
def execUnfenceSpindle (arg : BitVec 12) (s : State) : Host.Outcome State Fault Refusal :=
  powered s (fun s => repairCommand s 2 arg.toNat false false)
def execStageFw (arg : BitVec 12) (s : State) : Host.Outcome State Fault Refusal := powered s (fun s => repairCommand s 3 arg.toNat false false)
def execClearlog (s : State) : Host.Outcome State Fault Refusal := powered s (fun s => repairCommand s 4 0 false false)
/-- 50 ms after the edge at which the swap began (R589). -/
def execSwapFallback (s : State) : Host.Outcome State Fault Refusal :=
  powered s (fun s => if s.mc.swapTo.isNone then s else swapFails (elapseTo s (s.mc.kickAt + 50000000)))
def execNewFirmwareReady (s : State) : Host.Outcome State Fault Refusal := powered s firmwareReady
def execWeftPacketFailure (link : Nat) (retries : Nat) (s : State) : Host.Outcome State Fault Refusal :=
  powered s (fun s => weftFails s link retries)
def execRepairCommandEnd (ok : Bool) (s : State) : Host.Outcome State Fault Refusal := powered s (fun s => repairDone s ok)

/-! ### Power and temperature (18) -/

def execDieTempSample (temps : List (Option (BitVec 10))) (s : State) : Host.Outcome State Fault Refusal := powered s (fun s => dieSample s temps)
def execEnergyUpdate (uj : List Nat) (amps : List Nat) (s : State) : Host.Outcome State Fault Refusal := powered s (fun s => energyStep s uj amps)
def execMonitorSample (mv : List (BitVec 16)) (proc : List (BitVec 24)) (s : State) : Host.Outcome State Fault Refusal :=
  powered s (fun s => monitorStep s mv proc)

end Sys2Proof.Machine
end

