-- ==== Sys2Proof/Machine/VecRun.lean ====
section
/-! DEFINITION. How the long-vector unit runs an instruction (05_vector_unit.md): operands and element groups (R188–R192), the
VEC_CONFIG checks (R193), resumption, stops and faults (R221–R223), and what an instruction waits for (R197). -/

namespace Sys2Proof.Machine
open Sys2Proof

/-- CR.VCFG (R189, R230): VL, the registers of the widest operand, the two policies. -/
structure VCfg where
  vl : Nat
  sp : Nat
  mpol : Bool
  tpol : Bool
  deriving DecidableEq, Repr

def vcfgOf (x : Thread) : VCfg :=
  let w := x.ucr CR.VCFG
  { vl := field w 12 0, sp := 2 ^ field w 14 13, mpol := bit w 20, tpol := bit w 21 }

/-- A vector operand: its first register and its element width; `one` for one that is a single register whatever the span. -/
structure Opnd where
  base : Nat
  w : Nat
  one : Bool := false
  deriving DecidableEq, Repr

/-- The registers of an operand (R191). -/
def Opnd.span (o : Opnd) (c : VCfg) (wmax : Nat) : Nat := if o.one then 1 else max 1 (c.sp * o.w / wmax)
def Opnd.meets (a b : Opnd) (c : VCfg) (wmax : Nat) : Bool :=
  decide (a.base < b.base + b.span c wmax) && decide (b.base < a.base + a.span c wmax)

/-- Elements in one group, and groups below VL (R191). -/
def groupLen (wmax : Nat) : Nat := 8192 / wmax
def groupCount (c : VCfg) (wmax : Nat) : Nat := (c.vl + groupLen wmax - 1) / groupLen wmax

/-! ### Register groups (R188) -/

def vregBits (x : Thread) (i : Nat) : Nat := if h : i < 32 then (x.v[i]).toNat else 0
/-- `n` registers as one number, least significant byte first. -/
def spanBits (x : Thread) (base n : Nat) : Nat := (List.range n).foldl (fun a i => a + vregBits x (base + i) * 2 ^ (32768 * i)) 0
/-- Elements i0 to i0 + n − 1 of a group. -/
def elems (x : Thread) (base span w i0 n : Nat) : List Nat :=
  let chunk := spanBits x base span / 2 ^ (w * i0) % 2 ^ (w * n)
  (List.range n).map (elemAt chunk w)
/-- Elements from i0 on take values; i0·w and the elements' bits are whole bytes. -/
def setElems (x : Thread) (base w i0 : Nat) (es : List Nat) : Thread :=
  writeVregs x (base * 4096 + i0 * w / 8) (leBytes (es.length * w / 8) (packElems w es))
/-- Elements that a group of `span` registers holds. -/
def spanLen (span w : Nat) : Nat := span * 32768 / w

/-- Element `i` is active under governing field `mg` (R192). -/
def active (x : Thread) (c : VCfg) (mg : BitVec 3) (i : Nat) : Bool := decide (i < c.vl) && (decide (mg = 0) || (x.m[mg.toFin]).getLsbD i)

/-- Elements of a destination from i0 on: an active one takes its value, a masked-off one follows MPOL, one at or above VL stays. -/
def putElems (x : Thread) (c : VCfg) (mg : BitVec 3) (d : Opnd) (span i0 : Nat) (vals : List Nat) : Thread :=
  let old := elems x d.base span d.w i0 vals.length
  setElems x d.base d.w i0 ((old.zip vals).mapIdx (fun k e =>
    if c.vl ≤ i0 + k then e.1 else if active x c mg (i0 + k) then e.2 else if c.mpol then 0 else e.1))

/-- The tail of a destination under TPOL (R192). -/
def zeroTail (x : Thread) (c : VCfg) (d : Opnd) (span : Nat) : Thread :=
  if c.tpol then writeVregs x (d.base * 4096) (leBytes (span * 4096) (spanBits x d.base span % 2 ^ (d.w * c.vl))) else x

/-! ### VEC_CONFIG (R193) -/

/-- What an instruction names: its destinations and sources, the greatest width, whether no destination may overlap a source
at all, and the conditions of reasons 4, 6 and 7. -/
structure VForm where
  wmax : Nat
  dsts : List Opnd
  srcs : List Opnd
  strict : Bool := false
  /-- Sources that the destination may not overlap at all although the others may share its group (the index group). -/
  strictSrcs : List Opnd := []
  rangeReg : Bool := false
  plyLen : Bool := false
  bucketPos : Bool := false
  deriving DecidableEq, Repr

def VForm.opnds (f : VForm) : List Opnd := f.dsts ++ f.srcs ++ f.strictSrcs

/-- A destination overlaps a source in a way that is not allowed. -/
def badOverlap (c : VCfg) (f : VForm) : Bool :=
  f.dsts.any (fun d =>
    f.srcs.any (fun o => d.meets o c f.wmax && (f.strict || decide (d.base ≠ o.base ∨ d.span c f.wmax ≠ o.span c f.wmax))) ||
    f.strictSrcs.any (fun o => d.meets o c f.wmax))

/-- The lowest-numbered reason that applies, reason 5 apart. DESIGN CHOICE: assumption 37. -/
def vecReason (c : VCfg) (f : VForm) : Option Nat :=
  if spanLen c.sp f.wmax < c.vl then some 1
  else if f.opnds.any (fun o => decide (o.base % o.span c f.wmax ≠ 0)) then some 2
  else if badOverlap c f then some 3
  else if f.rangeReg then some 4
  else if f.plyLen then some 6
  else if f.bucketPos then some 7
  else none

def vecConfig (s : State) (reason stage : Nat) : Res :=
  .trap s ⟨Cause.VEC_CONFIG, reason, BitVec.ofNat 64 (reason + stage % 256 * 256)⟩

/-! ### Waiting for the matrix unit (R197) -/

/-- Bytes [a, a + n) of the register file that an incomplete drain of thread `t` targets. -/
def drainTargets (s : State) (t : Thr) : List (Nat × Nat) :=
  (List.finRange 4).flatMap (fun j =>
    let y := s.tile (spindleOf t) j
    let queued := match y.drain with
      | some d =>
        if d.thr = threadIn t then
          (typedStages (startTy (tileAcc s y) (progIraw d.prog)) (stagesOf d.prog)).filterMap (fun e =>
            if e.1.op = 5 ∧ e.1.mode = 1 then some (e.1.p1 * 4096, shapeRows y.shape.toNat * e.2.rowBytes (shapeCols y.shape.toNat)) else none)
        else []
      | none => []
    let going := match y.running with
      | some g => if g.thr = threadIn t then g.out.filterMap (fun e => match e with | .vreg o data => some (o, data.length) | _ => none) else []
      | none => []
    queued ++ going)

/-- Bytes of the register file from which an issued mop of thread `t` has yet to read its activations. -/
def mopSources (s : State) (t : Thr) : List (Nat × Nat) :=
  (s.mx (spindleOf t)).mops.filterMap (fun m =>
    let a := actDesc m.a (mopRows m.shape m.pair)
    match mopFmt m.level1 m.afmt.toNat m.wfmt.toNat with
    | some mf => if !m.started && decide (m.thr = threadIn t) && a.vr then some (a.loc * 4096, a.len (mopDepth m.b) mf.a.width) else none
    | none => none)

def touches (l : List (Nat × Nat)) (regs : List (Nat × Nat)) : Bool :=
  regs.any (fun r => l.any (fun e => decide (e.1 < (r.1 + r.2) * 4096) && decide (r.1 * 4096 < e.1 + e.2)))

/-- The instruction waits: a register that it names is a drain's target, or one that it writes is still to be read by a mop. -/
def vecHeldRegs (s : State) (t : Thr) (writes reads : List (Nat × Nat)) : Bool :=
  touches (drainTargets s t) (writes ++ reads) || touches (mopSources s t) writes

def vecHeld (s : State) (t : Thr) (c : VCfg) (f : VForm) : Bool :=
  let regs (l : List Opnd) := l.map (fun o => (o.base, o.span c f.wmax))
  vecHeldRegs s t (regs f.dsts) (regs (f.srcs ++ f.strictSrcs))

/-! ### Groups, stops and faults (R221–R223) -/

/-- How one element group ends. -/
inductive GroupRes where
  | ok (s : State)
  | trap (s : State) (i : TrapInfo)
  | wait (s : State)
  deriving DecidableEq, Repr

/-- The group at which the instruction starts (R222). -/
def startGroup (x : Thread) : Nat := let r := x.ucr CR.VRES; if bit r 32 then field r 31 0 else 0
/-- DESIGN CHOICE: assumption 43. -/
def setVres (s : State) (t : Thr) (g : Nat) : State := s.updThr t (fun x => x.setUcr CR.VRES (BitVec.ofNat 64 (g % 2 ^ 32 + 2 ^ 32)))
/-- DESIGN CHOICE: assumption 42. -/
def countGroups (s : State) (t : Thr) (n : Nat) : State := s.bump (R.SPINDLE_VGROUPS (spindleOf t)) n

/-- Groups `k` to `k` + fuel − 1 in order; `start` is the first group of this issue, `stop` a boundary at which R221 stops it. DESIGN CHOICE: assumption 43. -/
def runGroups (t : Thr) (stop : Option Nat) (start : Nat) (grp : Nat → State → GroupRes) (fin : State → State) : Nat → Nat → State → Res
  | 0, _, s => .done (fin s) none
  | n + 1, k, s =>
    if start < k ∧ stop = some k then .wait (setVres (s.bump (R.SPINDLE_VSTOPS (spindleOf t)) 1) t k)
    else
      match grp k s with
      | .ok s => runGroups t stop start grp fin n (k + 1) (countGroups s t 1)
      | .trap s i => .trap (setVres s t k) i
      | .wait s => .wait (setVres s t k)

/-- A command that waits is a HALT of thread `t` (R101). -/
def haltsThread (t : Thr) (c : Instr) : Bool :=
  let off := R.SPINDLE_TCTL (spindleOf t) (threadIn t)
  match c with
  | .halt u => decide (u = t)
  | .registerWrite _ o _ v => decide (o = off) && v.getLsbD 1
  | .bar0Access w o _ v => w && decide (o = off) && v.getLsbD 1
  | _ => false

/-- What stops an interruptible instruction of thread `t` at a group boundary (R221): a takeable interrupt, a pending BEAT_OVERRUN,
or a HALT, which waits for the thread or is the command that comes next. DESIGN CHOICE: assumption 43. -/
def stopCause (s : State) (t : Thr) : Bool :=
  let x := s.thr t
  (topLine s x).isSome || (x.overrun.isSome && !x.inh x.world) || x.haltReq ||
    (match s.pending with | c :: _ => haltsThread t c | [] => false)

/-- An interruptible instruction, its encoding allowed: its checks, then its groups, then its destinations' tails. -/
def runVec (vi : VIssue) (f : VForm) (grp : VCfg → Nat → State → GroupRes) (s : State) : Res :=
  let t := vi.is.thr
  let x := s.thr t
  let c := vcfgOf x
  let st := startGroup x
  match vecReason c f with
  | some r => vecConfig (setVres s t st) r 0
  | none =>
    if vecHeld s t c f then .wait s
    else
      runGroups t (if stopCause s t then vi.stop else none) st (grp c)
        (fun z => z.updThr t (fun y => f.dsts.foldl (fun y d => if d.one then y else zeroTail y c d (d.span c f.wmax)) y))
        (groupCount c f.wmax - st) st s

/-- A whole-vector instruction, its encoding allowed: its checks, then its effect (R195). DESIGN CHOICE: assumption 42. -/
def runWhole (is : Issue) (f : VForm) (eff : VCfg → State → State) (s : State) : Res :=
  let t := is.thr
  let c := vcfgOf (s.thr t)
  match vecReason c f with
  | some r => vecConfig s r 0
  | none => if vecHeld s t c f then .wait s else .done (eff c (countGroups s t (groupCount c f.wmax))) none

/-! ### Element-wise groups -/

/-- An element-wise operation: its result for element `i` from the elements of its sources. -/
structure EwOp where
  form : VForm
  dst : Opnd
  mg : BitVec 3
  fn : Nat → List Nat → FRes

/-- Lists of columns as a list of rows. -/
def rowsOf (n : Nat) (cols : List (List Nat)) : List (List Nat) :=
  cols.foldr (fun c acc => (c.zip acc).map (fun e => e.1 :: e.2)) (List.replicate n [])

def ewGroup (t : Thr) (e : EwOp) (c : VCfg) (k : Nat) (s : State) : GroupRes :=
  let x := s.thr t
  let wm := e.form.wmax
  let n := groupLen wm
  let i0 := k * n
  let cols := e.form.srcs.map (fun o => elems x o.base (o.span c wm) o.w i0 n)
  let rs := (rowsOf n cols).mapIdx (fun j r => if active x c e.mg (i0 + j) then e.fn (i0 + j) r else { bits := 0 })
  let x := putElems x c e.mg e.dst (e.dst.span c wm) i0 (rs.map (·.bits))
  .ok (s.setThr t (addVFlags x (rs.foldl (fun a r => a ||| r.fl) 0)))

/-- An element-wise instruction; `ok` says that its encoding is allowed (R193). -/
def runEw (vi : VIssue) (ok : Bool) (e : EwOp) (s : State) : Res :=
  if ok then runVec vi e.form (ewGroup vi.is.thr e) s else illegal s

end Sys2Proof.Machine
end

