-- ==== Sys2Proof/Machine/VecElem.lean ====
section
/-! DEFINITION. The element-wise vector instructions (R198–R202, R225, R227–R229): arithmetic, fused forms, conversion, keys, random
values and the Ply conversions. -/

namespace Sys2Proof.Machine
open Sys2Proof

/-- An instruction for issue of class VM (R57); `vint` for one that R221 lets stop. -/
def vecInsn (w : Nat) (reads writes : List Nat) (vint : Bool) : Insn :=
  { word := word1 w, cls := .vm, reads := reads, writes := writes, vint := vint }

def vun (f : Nat) (mg : BitVec 3) (dty sty : Nat) (vd va : VReg) : Nat :=
  f * 2 ^ 27 + mg.toNat * 2 ^ 24 + dty * 2 ^ 20 + sty * 2 ^ 16 + va.toNat * 2 ^ 11 + vd.toNat * 2 ^ 6 + 0x34
def vspec (f fields : Nat) : Nat := f * 2 ^ 27 + fields + 0x37

/-- The type of a TY3 code (R229). -/
def ty3Of (c : Nat) : ElemTy := elemTy (match c % 8 with | 0 => 0 | 1 => 1 | 2 => 2 | 3 => 3 | 4 => 6 | 5 => 7 | 6 => 8 | _ => 9)
def is4bit (ty : BitVec 4) : Bool := decide (ty = 14 ∨ ty = 15)
def isFp8 (ty : BitVec 4) : Bool := decide (ty = 4 ∨ ty = 5)

def elOf (t : ElemTy) (bits : Nat) : Nat := bits % 2 ^ t.width

/-! ### VV and VS (R199, R229) -/

/-- FUNC of the VV and VS groups is assigned for the type. -/
def vvOk (ty : ElemTy) (f : Nat) : Bool := match ty with | .float _ => decide (f < 10) | .int _ _ => decide (f ≠ 4)

def vvFp (f : FFmt) (rm : Rm) (op a b : Nat) : FRes :=
  match op with
  | 0 => fAdd f rm a b
  | 1 => fSub f rm a b
  | 2 => fSub f rm b a
  | 3 => fMul f rm a b
  | 4 => fDiv f rm a b
  | 5 => fMinMax f false a b
  | 6 => fMinMax f true a b
  | 7 => { bits := f.withSign (f.neg? b) (f.mag a) }
  | 8 => { bits := f.withSign (!f.neg? b) (f.mag a) }
  | _ => { bits := f.withSign (f.neg? a != f.neg? b) (f.mag a) }

/-- DESIGN CHOICE: assumption 38. -/
def vvInt (w : Nat) (op a b : Nat) : Nat :=
  let sa := sextNat a w
  let sb := sextNat b w
  let sh := b % w
  match op with
  | 0 => (a + b) % 2 ^ w
  | 1 => intBits w (sa - sb)
  | 2 => intBits w (sb - sa)
  | 3 => a * b % 2 ^ w
  | 5 => intBits w (min sa sb)
  | 6 => intBits w (max sa sb)
  | 7 => a &&& b
  | 8 => a ||| b
  | 9 => a ^^^ b
  | 10 => a * 2 ^ sh % 2 ^ w
  | 11 => a / 2 ^ sh
  | 12 => intBits w (sa / (2 ^ sh : Nat))
  | 13 => intBits w (sa * sb / (2 ^ w : Nat))
  | 14 => min a b
  | _ => max a b

def vvFn (ty : ElemTy) (rm : Rm) (op a b : Nat) : FRes :=
  match ty with
  | .float f => vvFp f rm op a b
  | .int _ w => { bits := vvInt w op a b }

def op0 (l : List Nat) : Nat := l.getD 0 0
def op1 (l : List Nat) : Nat := l.getD 1 0
def op2 (l : List Nat) : Nat := l.getD 2 0

def vvOpBody (vi : VIssue) (f : BitVec 4) (mg ty3 : BitVec 3) (vd va vb : VReg) (s : State) : Res :=
  let ty := ty3Of ty3.toNat
  let w := ty.width
  let d : Opnd := { base := vd.toNat, w := w }
  let fm : VForm := { wmax := w, dsts := [d], srcs := [{ base := va.toNat, w := w }, { base := vb.toNat, w := w }] }
  let rm := dynRm (s.thr vi.is.thr)
  runEw vi (vvOk ty f.toNat) { form := fm, dst := d, mg := mg, fn := fun _ l => vvFn ty rm f.toNat (op0 l) (op1 l) } s

/-- The VV group. -/
def execVvOp (vi : VIssue) (f : BitVec 4) (mg ty3 : BitVec 3) (vd va vb : VReg) (s : State) : Host.Outcome State Fault Refusal :=
  let w := f.toNat * 2 ^ 28 + mg.toNat * 2 ^ 25 + ty3.toNat * 2 ^ 22 + vb.toNat * 2 ^ 16 + va.toNat * 2 ^ 11 + vd.toNat * 2 ^ 6 + 0x30
  .next (issue s vi.is (vecInsn w [] [] true) (vvOpBody vi f mg ty3 vd va vb))

def vsOpBody (vi : VIssue) (f : BitVec 4) (mg ty3 : BitVec 3) (vd va : VReg) (gb : Reg6) (s : State) : Res :=
  let ty := ty3Of ty3.toNat
  let w := ty.width
  let d : Opnd := { base := vd.toNat, w := w }
  let fm : VForm := { wmax := w, dsts := [d], srcs := [{ base := va.toNat, w := w }] }
  let x := s.thr vi.is.thr
  let rm := dynRm x
  let b := elOf ty (x.rg gb).toNat
  runEw vi (vvOk ty f.toNat) { form := fm, dst := d, mg := mg, fn := fun _ l => vvFn ty rm f.toNat (op0 l) b } s

/-- The VS group. -/
def execVsOp (vi : VIssue) (f : BitVec 4) (mg ty3 : BitVec 3) (vd va : VReg) (gb : Reg6) (s : State) : Host.Outcome State Fault Refusal :=
  let w := f.toNat * 2 ^ 28 + mg.toNat * 2 ^ 25 + ty3.toNat * 2 ^ 22 + gb.toNat * 2 ^ 16 + va.toNat * 2 ^ 11 + vd.toNat * 2 ^ 6 + 0x31
  .next (issue s vi.is (vecInsn w [gb.toNat] [] true) (vsOpBody vi f mg ty3 vd va gb))

/-! ### VF: the fused forms (R200) -/

/-- A sum of two products and an addend of format `d`, rounded once; the products' elements are in format `f`. -/
def fDot2 (f d : FFmt) (rm : Rm) (a0 b0 a1 b1 c : Nat) : FRes :=
  let srcs := [a0, b0, a1, b1]
  let ps := [prodOf (f.unpack a0) (f.unpack b0), prodOf (f.unpack a1) (f.unpack b1)]
  let nan := srcs.any f.isNan || d.isNan c
  if nan then
    let bad (x y : Nat) : Bool := !f.isNan x && !f.isNan y && decide (prodOf (f.unpack x) (f.unpack y) = .nan)
    let nv := srcs.any f.isSnan || d.isSnan c || bad a0 b0 || bad a1 b1
    let bits := match srcs.find? f.isNan with
      | some x => d.quiet (cvtFF f d rm .ieee x).bits
      | none => d.quiet c
    { bits := bits, fl := if nv then NV else 0 }
  else sumTerms d rm (ps ++ [termOf (d.unpack c)])

/-- The result format of VF OP, and the source format of the fdot2 forms. -/
def vfFmt (op : Nat) : FFmt × Option FFmt :=
  match op % 8 with
  | 0 => (fp64, none) | 1 => (fp32, none) | 2 => (fp16, none) | 3 => (bf16, none) | 4 => (fp32, none)
  | 5 => (fp16, some e4m3) | 6 => (fp16, some e5m2) | _ => (fp32, some bf16)

def vfFn (op : Nat) (rm : Rm) (l : List Nat) : FRes :=
  match vfFmt op with
  | (d, none) => fFma d rm (decide (op = 4)) false (op0 l) (op1 l) (op2 l)
  | (d, some f) =>
    let a := op0 l
    let b := op1 l
    fDot2 f d rm (elemAt a f.width 0) (elemAt b f.width 0) (elemAt a f.width 1) (elemAt b f.width 1) (op2 l)

def vfOpBody (vi : VIssue) (op : BitVec 3) (mg : BitVec 3) (vd va vb vc : VReg) (s : State) : Res :=
  let (df, sf) := vfFmt op.toNat
  let w := df.width
  -- a source of fdot2 counts as twice its element width (R191)
  let sw := match sf with | some f => 2 * f.width | none => w
  let d : Opnd := { base := vd.toNat, w := w }
  let fm : VForm := { wmax := max w sw, dsts := [d], srcs := [{ base := va.toNat, w := sw }, { base := vb.toNat, w := sw }, { base := vc.toNat, w := w }] }
  let rm := dynRm (s.thr vi.is.thr)
  runEw vi true { form := fm, dst := d, mg := mg, fn := fun _ l => vfFn op.toNat rm l } s

/-- The VF group. -/
def execVfOp (vi : VIssue) (op : BitVec 3) (mg : BitVec 3) (vd va vb vc : VReg) (s : State) : Host.Outcome State Fault Refusal :=
  let w := op.toNat * 2 ^ 29 + mg.toNat * 2 ^ 26 + vc.toNat * 2 ^ 21 + vb.toNat * 2 ^ 16 + va.toNat * 2 ^ 11 + vd.toNat * 2 ^ 6 + 0x32
  .next (issue s vi.is (vecInsn w [] [] true) (vfOpBody vi op mg vd va vb vc))

/-! ### VUN: one source -/

def unForm (dty sty : ElemTy) (vd va : VReg) : VForm :=
  { wmax := max dty.width sty.width, dsts := [{ base := vd.toNat, w := dty.width }], srcs := [{ base := va.toNat, w := sty.width }] }

/-- A one-source element-wise instruction. -/
def unBody (vi : VIssue) (ok : Bool) (mg : BitVec 3) (dty sty : ElemTy) (vd va : VReg) (fn : Nat → FRes) (s : State) : Res :=
  runEw vi ok { form := unForm dty sty vd va, dst := { base := vd.toNat, w := dty.width }, mg := mg, fn := fun _ l => fn (op0 l) } s

def vcvtBody (vi : VIssue) (mg : BitVec 3) (dty sty : BitVec 4) (vd va : VReg) (s : State) : Res :=
  let x := s.thr vi.is.thr
  let rm := dynRm x
  let sat := satOn s x
  let dt := elemTy dty.toNat
  let st := elemTy sty.toNat
  unBody vi true mg dt st vd va (convert st dt rm sat) s

/-- vcvt (R201). -/
def execVcvt (vi : VIssue) (mg : BitVec 3) (dty sty : BitVec 4) (vd va : VReg) (s : State) : Host.Outcome State Fault Refusal :=
  .next (issue s vi.is (vecInsn (vun 0 mg dty.toNat sty.toNat vd va) [] [] true) (vcvtBody vi mg dty sty vd va))

/-- DESIGN CHOICE: assumption 36. -/
def vsqrtBody (vi : VIssue) (mg : BitVec 3) (ty : BitVec 4) (vd va : VReg) (s : State) : Res :=
  let rm := dynRm (s.thr vi.is.thr)
  let t := elemTy ty.toNat
  unBody vi (decide (ty.toNat < 4)) mg t t vd va (fun a => match t with | .float f => fSqrt f rm a | .int _ _ => { bits := a }) s

/-- vsqrt (R166, R199). -/
def execVsqrt (vi : VIssue) (mg : BitVec 3) (ty : BitVec 4) (vd va : VReg) (s : State) : Host.Outcome State Fault Refusal :=
  .next (issue s vi.is (vecInsn (vun 1 mg ty.toNat ty.toNat vd va) [] [] true) (vsqrtBody vi mg ty vd va))

def absFn (t : ElemTy) (a : Nat) : FRes :=
  match t with
  | .float f => { bits := f.mag a }
  | .int sg w => { bits := if sg then intBits w (sextNat a w).natAbs else a }
def negFn (t : ElemTy) (a : Nat) : FRes :=
  match t with
  | .float f => { bits := f.flip a }
  | .int _ w => { bits := intBits w (-(sextNat a w)) }

/-- DESIGN CHOICE: assumption 36. -/
def vabsBody (vi : VIssue) (mg : BitVec 3) (ty : BitVec 4) (vd va : VReg) (s : State) : Res :=
  let t := elemTy ty.toNat
  unBody vi (!isFp8 ty) mg t t vd va (absFn t) s
/-- vabs. -/
def execVabs (vi : VIssue) (mg : BitVec 3) (ty : BitVec 4) (vd va : VReg) (s : State) : Host.Outcome State Fault Refusal :=
  .next (issue s vi.is (vecInsn (vun 2 mg ty.toNat ty.toNat vd va) [] [] true) (vabsBody vi mg ty vd va))

/-- DESIGN CHOICE: assumption 36. -/
def vnegBody (vi : VIssue) (mg : BitVec 3) (ty : BitVec 4) (vd va : VReg) (s : State) : Res :=
  let t := elemTy ty.toNat
  unBody vi (!isFp8 ty) mg t t vd va (negFn t) s
/-- vneg. -/
def execVneg (vi : VIssue) (mg : BitVec 3) (ty : BitVec 4) (vd va : VReg) (s : State) : Host.Outcome State Fault Refusal :=
  .next (issue s vi.is (vecInsn (vun 3 mg ty.toNat ty.toNat vd va) [] [] true) (vnegBody vi mg ty vd va))

def vexp2Body (vi : VIssue) (mg : BitVec 3) (vd va : VReg) (s : State) : Res :=
  unBody vi true mg (.float fp32) (.float fp32) vd va fExp2 s
/-- vexp2.f32 (R202). -/
def execVexp2 (vi : VIssue) (mg : BitVec 3) (vd va : VReg) (s : State) : Host.Outcome State Fault Refusal :=
  .next (issue s vi.is (vecInsn (vun 4 mg 1 1 vd va) [] [] true) (vexp2Body vi mg vd va))

def vlog2Body (vi : VIssue) (mg : BitVec 3) (vd va : VReg) (s : State) : Res :=
  unBody vi true mg (.float fp32) (.float fp32) vd va fLog2 s
/-- vlog2.f32 (R202). -/
def execVlog2 (vi : VIssue) (mg : BitVec 3) (vd va : VReg) (s : State) : Host.Outcome State Fault Refusal :=
  .next (issue s vi.is (vecInsn (vun 5 mg 1 1 vd va) [] [] true) (vlog2Body vi mg vd va))

/-- The key of an f32 element (R225). -/
def floatKey (a : Nat) : Nat :=
  if fp32.isNan a then 0
  else if fp32.mag a = 0 then 0x80000000
  else if fp32.neg? a then 0xFFFFFFFF - a
  else a + 0x80000000

def vkeyBody (vi : VIssue) (mg : BitVec 3) (vd va : VReg) (s : State) : Res :=
  unBody vi true mg (.int false 32) (.float fp32) vd va (fun a => { bits := floatKey a }) s
/-- vkey.u32.f32. -/
def execVkey (vi : VIssue) (mg : BitVec 3) (vd va : VReg) (s : State) : Host.Outcome State Fault Refusal :=
  .next (issue s vi.is (vecInsn (vun 6 mg 11 1 vd va) [] [] true) (vkeyBody vi mg vd va))

/-- DESIGN CHOICE: assumption 36. -/
def vmvBody (vi : VIssue) (mg : BitVec 3) (ty : BitVec 4) (vd va : VReg) (s : State) : Res :=
  let t := elemTy ty.toNat
  unBody vi true mg t t vd va (fun a => { bits := a }) s
/-- vmv. -/
def execVmv (vi : VIssue) (mg : BitVec 3) (ty : BitVec 4) (vd va : VReg) (s : State) : Host.Outcome State Fault Refusal :=
  .next (issue s vi.is (vecInsn (vun 7 mg ty.toNat ty.toNat vd va) [] [] true) (vmvBody vi mg ty vd va))

/-! ### Random values (R227) -/

def w64 (n : Nat) : Nat := n % 2 ^ 64
def rotl64 (n k : Nat) : Nat := w64 (n * 2 ^ k) + w64 n / 2 ^ (64 - k)

/-- Rounds of twist on (a, b, k). -/
def twistRounds : Nat → Nat → Nat → Nat → Nat
  | 0, a, b, _ => (a ^^^ b) / 2 ^ 32
  | n + 1, a, b, k =>
    let a := w64 (a + (b ^^^ k))
    let a := w64 (rotl64 a 29 * 0xc2a16f3d8b54e907)
    let b := b ^^^ (a / 2 ^ 31)
    let b := w64 (rotl64 b 17 + k)
    twistRounds n a b (w64 (k + 0x9e3779b97f4a7c15))

def twist (x : Nat) : Nat := twistRounds 6 (w64 x) (w64 (x / 2 ^ 64)) 0x7b4d19e2a6c358f1

def vrandFn (f32 : Bool) (c i : Nat) : FRes :=
  let r := twist ((c + i) % 2 ^ 128)
  { bits := if f32 then (roundMag fp32 .rne .ieee false (r / 2 ^ 8) (-24)).bits else r }

def vrandBody (vi : VIssue) (f32 : Bool) (ga gb : Reg6) (vd : VReg) (s : State) : Res :=
  let x := s.thr vi.is.thr
  let c := (x.rg gb).toNat * 2 ^ 64 + (x.rg ga).toNat
  let d : Opnd := { base := vd.toNat, w := 32 }
  runEw vi true { form := { wmax := 32, dsts := [d], srcs := [] }, dst := d, mg := 0, fn := fun i _ => vrandFn f32 c i } s

/-- vrand.u32 and vrand.f32. -/
def execVrand (vi : VIssue) (f32 : Bool) (ga gb : Reg6) (vd : VReg) (s : State) : Host.Outcome State Fault Refusal :=
  let w := vspec 10 (boolNat f32 * 2 ^ 23 + gb.toNat * 2 ^ 17 + ga.toNat * 2 ^ 11 + vd.toNat * 2 ^ 6)
  .next (issue s vi.is (vecInsn w [ga.toNat, gb.toNat] [] true) (vrandBody vi f32 ga gb vd))

/-! ### Ply-F8 and Ply-I4 (R228) -/

/-- The operands of an encoding or decoding between f32 elements and blocks at `ply`, whose scale bytes lie in the register after. -/
structure PlyForm where
  f8 : Bool
  wide : Opnd
  narrow : Opnd
  scale : Opnd
  deriving DecidableEq, Repr

/-- DESIGN CHOICE: assumption 34. -/
def plyForm (c : VCfg) (f8 : Bool) (wide ply : VReg) : PlyForm :=
  let n : Opnd := { base := ply.toNat, w := if f8 then 8 else 4 }
  { f8 := f8, wide := { base := wide.toNat, w := 32 }, narrow := n, scale := { base := ply.toNat + n.span c 32, w := 8, one := true } }

def PlyForm.form (p : PlyForm) (c : VCfg) (enc : Bool) : VForm :=
  let pl := [p.narrow, p.scale]
  { wmax := 32, dsts := if enc then pl else [p.wide], srcs := if enc then [p.wide] else pl, strict := true,
    rangeReg := decide (31 < p.scale.base), plyLen := decide (c.vl % 32 ≠ 0) }

/-- The flags of a block's active elements: `vs` with whether each is active. -/
def plyActiveFlags (f8 : Bool) (b : PlyBlk) (vs : List (FVal × Bool)) : Flags :=
  let act := vs.filterMap (fun e => if e.2 then some e.1 else none)
  if act.length = vs.length then b.fl
  else if b.elems.isSome then act.foldl (fun a v => a ||| (plyElem f8 ((b.scale : Int) - 127) v).fl) 0
  else if b.scale = 255 ∧ act.any (fun v => match v with | .inf _ => true | .nan _ _ => !f8 | .fin _ _ _ => false) then NV
  else 0

/-- One block encoded: its element codes, scale byte and flags; the codes of a zero or NaN block are free. DESIGN CHOICE: assumption 34. DESIGN CHOICE: assumption 35. -/
def encBlock (f8 : Bool) (free : Nat) (vs : List (FVal × Bool)) : List Nat × Nat × Flags :=
  let b := plyEncode f8 (vs.map (·.1))
  (match b.elems with
  | some es => es
  | none => (List.range 32).map (fun i => (Config.freeByte (free + i)).toNat), b.scale, plyActiveFlags f8 b vs)

/-- A block's scale byte: unchanged, or zero under MPOL, where the mask governs every element off. -/
def putScale (x : Thread) (c : VCfg) (r blk : Nat) (any : Bool) (v : Nat) : Thread :=
  if any then writeVregs x (r * 4096 + blk) [BitVec.ofNat 8 v] else if c.mpol then writeVregs x (r * 4096 + blk) [0] else x

/-- One group of an encoding: 256 elements, 8 blocks. -/
def encGroup (t : Thr) (p : PlyForm) (mg : BitVec 3) (c : VCfg) (k : Nat) (s : State) : GroupRes :=
  let x := s.thr t
  let i0 := k * groupLen 32
  let n := min (groupLen 32) (c.vl - i0)
  let xs := (elems x p.wide.base (p.wide.span c 32) 32 i0 n).mapIdx (fun j b => (fp32.unpack b, active x c mg (i0 + j)))
  let bs := (chunksOf 32 (n / 32) xs).mapIdx (fun j l => (encBlock p.f8 (s.free + 32 * j) l, l.any (·.2)))
  let x := putElems x c mg p.narrow (p.narrow.span c 32) i0 (bs.flatMap (fun e => e.1.1))
  let x := (bs.foldl (fun (a : Thread × Nat) (e : (List Nat × Nat × Flags) × Bool) => (putScale a.1 c p.scale.base (i0 / 32 + a.2) e.2 e.1.2.1, a.2 + 1)) (x, 0)).1
  .ok ({ s with free := s.free + 256 }.setThr t (addVFlags x (bs.foldl (fun a (e : (List Nat × Nat × Flags) × Bool) => a ||| e.1.2.2) 0)))

/-- One group of a decoding (R156). DESIGN CHOICE: assumption 34. -/
def decGroup (t : Thr) (p : PlyForm) (mg : BitVec 3) (c : VCfg) (k : Nat) (s : State) : GroupRes :=
  let x := s.thr t
  let i0 := k * groupLen 32
  let sc := leBytes 4096 (vregBits x p.scale.base)
  let rs := (elems x p.narrow.base (p.narrow.span c 32) p.narrow.w i0 (groupLen 32)).mapIdx (fun j b =>
    if active x c mg (i0 + j) then plyDecode p.f8 fp32 (sc.getD ((i0 + j) / 32) 0).toNat b else { bits := 0 })
  let x := putElems x c mg p.wide (p.wide.span c 32) i0 (rs.map (·.bits))
  .ok (s.setThr t (addVFlags x (rs.foldl (fun a r => a ||| r.fl) 0)))

/-- vply.encf8 and vply.enci4: STY is f32 and DTY the element type, or the encoding is not allowed. -/
def plyEncBody (vi : VIssue) (f8 : Bool) (mg : BitVec 3) (dty sty : BitVec 4) (vd va : VReg) (s : State) : Res :=
  if sty = 1 ∧ dty = (if f8 then 4 else 14) then
    let c := vcfgOf (s.thr vi.is.thr)
    let p := plyForm c f8 va vd
    runVec vi (p.form c true) (encGroup vi.is.thr p mg) s
  else illegal s

/-- vply.decf8 and vply.deci4. -/
def plyDecBody (vi : VIssue) (f8 : Bool) (mg : BitVec 3) (dty sty : BitVec 4) (vd va : VReg) (s : State) : Res :=
  if dty = 1 ∧ sty = (if f8 then 4 else 14) then
    let c := vcfgOf (s.thr vi.is.thr)
    let p := plyForm c f8 vd va
    runVec vi (p.form c false) (decGroup vi.is.thr p mg) s
  else illegal s

def execVplyEncf8 (vi : VIssue) (mg : BitVec 3) (dty sty : BitVec 4) (vd va : VReg) (s : State) : Host.Outcome State Fault Refusal :=
  .next (issue s vi.is (vecInsn (vun 8 mg dty.toNat sty.toNat vd va) [] [] true) (plyEncBody vi true mg dty sty vd va))
def execVplyEnci4 (vi : VIssue) (mg : BitVec 3) (dty sty : BitVec 4) (vd va : VReg) (s : State) : Host.Outcome State Fault Refusal :=
  .next (issue s vi.is (vecInsn (vun 9 mg dty.toNat sty.toNat vd va) [] [] true) (plyEncBody vi false mg dty sty vd va))
def execVplyDecf8 (vi : VIssue) (mg : BitVec 3) (dty sty : BitVec 4) (vd va : VReg) (s : State) : Host.Outcome State Fault Refusal :=
  .next (issue s vi.is (vecInsn (vun 10 mg dty.toNat sty.toNat vd va) [] [] true) (plyDecBody vi true mg dty sty vd va))
def execVplyDeci4 (vi : VIssue) (mg : BitVec 3) (dty sty : BitVec 4) (vd va : VReg) (s : State) : Host.Outcome State Fault Refusal :=
  .next (issue s vi.is (vecInsn (vun 11 mg dty.toNat sty.toNat vd va) [] [] true) (plyDecBody vi false mg dty sty vd va))

/-! ### Ply-W16 (R158, R160) -/

/-- An f32 element under scale exponent `sc`, saturated to s16. -/
def encW16 (sc : Int) (a : Nat) : FRes :=
  match fp32.unpack a with
  | .nan _ _ => { bits := 0, fl := NV }
  | .inf n => { bits := intBits 16 (if n then -32768 else 32767), fl := OF ||| NX }
  | .fin n m e =>
    let (k, inx) := roundAt .rne n m (e - sc) false 0
    let i : Int := if n then -(k : Int) else k
    if i < -32768 then { bits := intBits 16 (-32768), fl := OF ||| NX }
    else if 32767 < i then { bits := 32767, fl := OF ||| NX }
    else { bits := intBits 16 i, fl := if inx then NX else 0 }

/-- An s16 element × 2^sc in f32. -/
def decW16 (sc : Int) (a : Nat) : FRes :=
  let i := sextNat a 16
  roundMag fp32 .rne .ieee (decide (i < 0)) i.natAbs sc

/-- The scale exponent in gb [7:0], signed. -/
def w16Scale (x : Thread) (gb : Reg6) : Int := sextNat (x.rg gb).toNat 8

def w16Form (c : VCfg) (dty sty : ElemTy) (vd va : VReg) : VForm :=
  { unForm dty sty vd va with strict := true, plyLen := decide (c.vl % 32 ≠ 0) }

def w16Body (vi : VIssue) (enc : Bool) (vd va : VReg) (gb : Reg6) (s : State) : Res :=
  let x := s.thr vi.is.thr
  let c := vcfgOf x
  let sc := w16Scale x gb
  let f : ElemTy := .float fp32
  let i : ElemTy := .int true 16
  let (dty, sty) := if enc then (i, f) else (f, i)
  runEw vi true { form := w16Form c dty sty vd va, dst := { base := vd.toNat, w := dty.width }, mg := 0,
                  fn := fun _ l => if enc then encW16 sc (op0 l) else decW16 sc (op0 l) } s

def execVplyEncw16 (vi : VIssue) (vd va : VReg) (gb : Reg6) (s : State) : Host.Outcome State Fault Refusal :=
  let w := vspec 8 (gb.toNat * 2 ^ 16 + va.toNat * 2 ^ 11 + vd.toNat * 2 ^ 6)
  .next (issue s vi.is (vecInsn w [gb.toNat] [] true) (w16Body vi true vd va gb))
def execVplyDecw16 (vi : VIssue) (vd va : VReg) (gb : Reg6) (s : State) : Host.Outcome State Fault Refusal :=
  let w := vspec 9 (gb.toNat * 2 ^ 16 + va.toNat * 2 ^ 11 + vd.toNat * 2 ^ 6)
  .next (issue s vi.is (vecInsn w [gb.toNat] [] true) (w16Body vi false vd va gb))

end Sys2Proof.Machine
end

