-- ==== Sys2Proof/Machine/VecWhole.lean ====
section
/-! DEFINITION. The whole-vector instructions (R190, R203, R204, R214–R220, R224, R226, R229): configuration, compares and masks,
broadcast and move, reductions with their summary word, permutes, prefix sums and buckets. -/

namespace Sys2Proof.Machine
open Sys2Proof

/-! ### vcfg (R190) -/

def vcfgWord (vl span etype : Nat) (mpol tpol : Bool) : Word :=
  BitVec.ofNat 64 (vl + span * 2 ^ 13 + etype * 2 ^ 16 + boolNat mpol * 2 ^ 20 + boolNat tpol * 2 ^ 21)

def vcfgBody (is : Issue) (rd ra : Reg6) (span : BitVec 2) (etype : BitVec 4) (mpol tpol : Bool) (s : State) : Res :=
  let x := s.thr is.thr
  let vl := min (x.rg ra).toNat (vlLimit span.toNat etype.toNat)
  .done (s.setThr is.thr ((x.setUcr CR.VCFG (vcfgWord vl span.toNat etype.toNat mpol tpol)).wg rd (BitVec.ofNat 64 vl))) none

def execVcfg (is : Issue) (rd ra : Reg6) (span : BitVec 2) (etype : BitVec 4) (mpol tpol : Bool) (s : State) : Host.Outcome State Fault Refusal :=
  let w := vspec 0 (boolNat tpol * 2 ^ 25 + boolNat mpol * 2 ^ 24 + etype.toNat * 2 ^ 20 + span.toNat * 2 ^ 18 + ra.toNat * 2 ^ 12 + rd.toNat * 2 ^ 6)
  .next (issue s is (vecInsn w [ra.toNat] [rd.toNat] false) (vcfgBody is rd ra span etype mpol tpol))

/-! ### Compares (R203) -/

def setMask (x : Thread) (j : BitVec 3) (v : BitVec 4096) : Thread := { x with m := x.m.set j.toFin v }
/-- Bit i of a mask from the i-th entry, zero beyond. -/
def maskOf (l : List Bool) : BitVec 4096 := BitVec.ofNat 4096 (packElems 1 (l.map boolNat))

/-- DESIGN CHOICE: assumption 45. -/
def cmpElem (t : ElemTy) (f a b : Nat) : Bool × Flags :=
  match t with
  | .float g =>
    match f with
    | 0 => fCmp g .eq a b
    | 1 => let r := fCmp g .eq a b; (!r.1, r.2)
    | 2 => fCmp g .lt a b
    | 3 => fCmp g .le a b
    | 4 => fCmp g .lt b a
    | 5 => fCmp g .le b a
    | _ => (g.isNan a || g.isNan b, if g.isSnan a || g.isSnan b then NV else 0)
  | .int sg w =>
    let x := intVal sg w a
    let y := intVal sg w b
    (match f with
    | 0 => decide (x = y) | 1 => decide (x ≠ y) | 2 => decide (x < y) | 3 => decide (x ≤ y) | 4 => decide (y < x) | 5 => decide (y ≤ x)
    | _ => false, 0)

/-- DESIGN CHOICE: assumption 45. -/
def vcmpBody (is : Issue) (f : Fin 7) (mg : BitVec 3) (ty : BitVec 4) (sc : Bool) (b : Reg6) (va : VReg) (md : BitVec 3) (s : State) : Res :=
  if is4bit ty || (!sc && decide (32 ≤ b.toNat)) then illegal s
  else
    let t := elemTy ty.toNat
    let w := t.width
    let oa : Opnd := { base := va.toNat, w := w }
    let ob : Opnd := { base := b.toNat, w := w }
    let fm : VForm := { wmax := w, dsts := [], srcs := if sc then [oa] else [oa, ob] }
    runWhole is fm (fun c s =>
      let x := s.thr is.thr
      let as := elems x oa.base (oa.span c w) w 0 c.vl
      let bs := if sc then List.replicate c.vl (elOf t (x.rg b).toNat) else elems x ob.base (ob.span c w) w 0 c.vl
      let rs := (as.zip bs).mapIdx (fun i e =>
        if active x c mg i then cmpElem t f.val e.1 e.2 else (if c.mpol then false else (x.m[md.toFin]).getLsbD i, 0))
      s.setThr is.thr (addVFlags (setMask x md (maskOf (rs.map (·.1)))) (rs.foldl (fun a r => a ||| r.2) 0))) s

def vcmpWord (f : Nat) (mg : BitVec 3) (ty b va : Nat) (sc : Bool) (md : BitVec 3) : Nat :=
  f * 2 ^ 28 + mg.toNat * 2 ^ 25 + ty * 2 ^ 21 + b * 2 ^ 15 + va * 2 ^ 10 + boolNat sc * 2 ^ 9 + md.toNat * 2 ^ 6 + 0x33

def execVcmp (is : Issue) (f : Fin 7) (mg : BitVec 3) (ty : BitVec 4) (s' : Bool) (b : Reg6) (va : VReg) (md : BitVec 3) (s : State) :
    Host.Outcome State Fault Refusal :=
  .next (issue s is (vecInsn (vcmpWord f.val mg ty.toNat b.toNat va.toNat s' md) (if s' then [b.toNat] else []) [] false)
    (vcmpBody is f mg ty s' b va md))

/-! ### Masks (R204) -/

def maskFn (f : Fin 5) (a b : BitVec 4096) : BitVec 4096 :=
  match f with
  | 0 => a &&& b
  | 1 => a ||| b
  | 2 => a ^^^ b
  | 3 => a &&& ~~~b
  | 4 => ~~~a

def maskOpBody (is : Issue) (f : Fin 5) (md ma mb : BitVec 3) (s : State) : Res :=
  .done ((countGroups s is.thr 1).updThr is.thr (fun x => setMask x md (maskFn f (x.m[ma.toFin]) (x.m[mb.toFin])))) none
/-- mand, mor, mxor, mandn and mnot. -/
def execMaskOp (is : Issue) (f : Fin 5) (md ma mb : BitVec 3) (s : State) : Host.Outcome State Fault Refusal :=
  .next (issue s is (vecInsn (vcmpWord (8 + f.val) 0 0 mb.toNat ma.toNat false md) [] [] false) (maskOpBody is f md ma mb))

def mfromvBody (is : Issue) (md : BitVec 3) (va : VReg) (s : State) : Res :=
  if vecHeldRegs s is.thr [] [(va.toNat, 1)] then .wait s
  else .done ((countGroups s is.thr 1).updThr is.thr (fun x => setMask x md (BitVec.ofNat 4096 (vregBits x va.toNat)))) none
def execMfromv (is : Issue) (md : BitVec 3) (va : VReg) (s : State) : Host.Outcome State Fault Refusal :=
  .next (issue s is (vecInsn (vcmpWord 14 0 0 0 va.toNat false md) [] [] false) (mfromvBody is md va))

def mtovBody (is : Issue) (vd : VReg) (ma : BitVec 3) (s : State) : Res :=
  if vecHeldRegs s is.thr [(vd.toNat, 1)] [] then .wait s
  else .done ((countGroups s is.thr 1).updThr is.thr (fun x => writeVregs x (vd.toNat * 4096) (leBytes 512 (x.m[ma.toFin]).toNat))) none
def execMtov (is : Issue) (vd : VReg) (ma : BitVec 3) (s : State) : Host.Outcome State Fault Refusal :=
  .next (issue s is (vecInsn (vcmpWord 15 0 0 0 vd.toNat false ma) [] [] false) (mtovBody is vd ma))

/-! ### Reductions (R214–R220) -/

/-- One level of the tree: neighbours combine, an absent operand passes the other. -/
def pairLevel (op : Nat → Nat → FRes) : List (Option Nat) → List (Option Nat) × Flags
  | some a :: some b :: l =>
    let r := op a b
    let t := pairLevel op l
    (some r.bits :: t.1, r.fl ||| t.2)
  | some a :: none :: l => let t := pairLevel op l; (some a :: t.1, t.2)
  | none :: b :: l => let t := pairLevel op l; (b :: t.1, t.2)
  | [a] => ([a], 0)
  | [] => ([], 0)

/-- The whole tree, at most `n` levels. -/
def treeOf (op : Nat → Nat → FRes) : Nat → List (Option Nat) → Option Nat × Flags
  | 0, l => (l.headD none, 0)
  | n + 1, l =>
    if l.length ≤ 1 then (l.headD none, 0)
    else
      let t := pairLevel op l
      let u := treeOf op n t.1
      (u.1, t.2 ||| u.2)

/-- A reduction's result: the word for gd, the flags, SUMV, MMV and SAT. -/
structure RedRes where
  val : Word
  fl : Flags := 0
  sumv : Bool := false
  mmv : Bool := false
  sat : Bool := false
  deriving DecidableEq, Repr

/-- FP sum, product, max and min: the tree, with f16 and bf16 elements in f32. -/
def redFloat (f : FFmt) (rm : Rm) (op : Nat) (els : List (Option Nat)) : RedRes :=
  let g := if f.width = 16 then fp32 else f
  let cs := els.map (fun o => o.map (fun a => if f.width = 16 then cvtFF f fp32 .rne .ieee a else { bits := a }))
  let cfl := cs.foldl (fun (a : Flags) o => match o with | some r => a ||| r.fl | none => a) 0
  let comb : Nat → Nat → FRes := match op with | 0 => fAdd g rm | 1 => fMul g rm | 2 => fMinMax g true | _ => fMinMax g false
  let ident := match op with | 0 => 0 | 1 => oneBits g | 2 => g.withSign true g.infBits | _ => g.infBits
  let (r, fl) := treeOf comb 13 (cs.map (fun o => o.map (·.bits)))
  let v := r.getD ident
  let fin := match g.unpack v with | .fin _ _ _ => true | _ => false
  { val := BitVec.ofNat 64 v, fl := cfl ||| fl, sumv := decide (op < 2) && fin, mmv := decide (2 ≤ op) && !g.isNan v }

/-- Integer sum, product, max, min, and, or, xor of elements of `w` bits. DESIGN CHOICE: assumption 38. -/
def redInt (sg : Bool) (w op : Nat) (bits : List Nat) : RedRes :=
  let xs := bits.map (intVal sg w)
  let clamp (i : Int) : RedRes :=
    if intMax sg 64 < i then { val := BitVec.ofInt 64 (intMax sg 64), sat := true }
    else if i < intMin sg 64 then { val := BitVec.ofInt 64 (intMin sg 64), sat := true }
    else { val := BitVec.ofInt 64 i, sumv := true }
  let wide (n : Nat) : RedRes := { val := BitVec.ofInt 64 (intVal sg w n) }
  match op with
  | 0 => clamp (xs.foldl (· + ·) 0)
  | 1 => clamp (xs.foldl (· * ·) 1)
  | 2 => { val := BitVec.ofInt 64 (xs.foldl max (intMin sg w)), mmv := true }
  | 3 => { val := BitVec.ofInt 64 (xs.foldl min (intMax sg w)), mmv := true }
  | 6 => wide (bits.foldl (· &&& ·) (2 ^ w - 1))
  | 7 => wide (bits.foldl (· ||| ·) 0)
  | _ => wide (bits.foldl (· ^^^ ·) 0)

/-- a ranks below b: as numbers, with −0 below +0. -/
def ranksBelow (t : ElemTy) (a b : Nat) : Bool :=
  match t with
  | .float f => let x := f.unpack a; let y := f.unpack b; x.lt y || (x.eqv y && f.neg? a && !f.neg? b)
  | .int sg w => decide (intVal sg w a < intVal sg w b)
def elemNan (t : ElemTy) (a : Nat) : Bool := match t with | .float f => f.isNan a | .int _ _ => false
def elemZero (t : ElemTy) (a : Nat) : Bool := match t with | .float f => decide (f.mag a = 0) | .int _ w => decide (a % 2 ^ w = 0)

/-- The index of the greatest (or least) non-NaN element of a list with indices in order (R217). -/
def argBest (t : ElemTy) (greatest : Bool) (l : List (Nat × Nat)) : Option (Nat × Nat) :=
  l.foldl (fun (best : Option (Nat × Nat)) e =>
    if elemNan t e.2 then best
    else match best with
      | none => some e
      | some b => if (if greatest then ranksBelow t b.2 e.2 else ranksBelow t e.2 b.2) then some e else best) none

/-- DESIGN CHOICE: assumption 39. -/
def redArg (t : ElemTy) (greatest : Bool) (l : List (Nat × Nat)) : RedRes :=
  match argBest t greatest l with
  | some (i, _) => { val := BitVec.ofNat 64 i, mmv := true }
  | none => { val := BitVec.allOnes 64 }

/-- The summary word (R219) of active elements given as (index, nonzero, NaN). DESIGN CHOICE: assumption 39. -/
def summaryWord (l : List (Nat × Bool × Bool)) (r : RedRes) : Word :=
  let nz := l.filter (fun e => e.2.1)
  BitVec.ofNat 64 (l.length + boolNat l.isEmpty * 2 ^ 13 + boolNat (!nz.isEmpty) * 2 ^ 14 + boolNat (l.all (fun e => e.2.1)) * 2 ^ 15 +
    boolNat r.sumv * 2 ^ 16 + boolNat r.mmv * 2 ^ 17 + boolNat (l.any (fun e => e.2.2)) * 2 ^ 18 + boolNat r.sat * 2 ^ 19 +
    (match nz with | e :: _ => e.1 | [] => 0x1FFF) * 2 ^ 32)

/-- gd takes the value and g(d + 1) the summary (R214). -/
def redDone (x : Thread) (gd : Reg6) (v sum : Word) : Thread := (x.wg gd v).wg (gd + 1) sum

/-- A reduction of type `t` over its elements with their activity. -/
def redOf (t : ElemTy) (rm : Rm) (op : Nat) (els : List (Nat × Bool)) : RedRes :=
  let act := (els.mapIdx (fun i e => (i, e))).filterMap (fun e => if e.2.2 then some (e.1, e.2.1) else none)
  if op = 4 ∨ op = 5 then redArg t (decide (op = 4)) act
  else match t with
    | .float f => redFloat f rm op (els.map (fun e => if e.2 then some e.1 else none))
    | .int sg w => redInt sg w op (act.map (·.2))

def vredBody (is : Issue) (f : Fin 9) (mg : BitVec 3) (ty : BitVec 4) (va : VReg) (gd : Reg6) (s : State) : Res :=
  let t := elemTy ty.toNat
  let float := match t with | .float _ => true | .int _ _ => false
  if is4bit ty || isFp8 ty || (float && decide (6 ≤ f.val)) || decide (gd.toNat % 2 = 1) then illegal s
  else
    let w := t.width
    let o : Opnd := { base := va.toNat, w := w }
    runWhole is { wmax := w, dsts := [], srcs := [o] } (fun c s =>
      let x := s.thr is.thr
      let els := (elems x o.base (o.span c w) w 0 c.vl).mapIdx (fun i a => (a, active x c mg i))
      let r := redOf t (dynRm x) f.val els
      let act := (els.mapIdx (fun i e => (i, e))).filterMap (fun e => if e.2.2 then some (e.1, !elemZero t e.2.1, elemNan t e.2.1) else none)
      s.setThr is.thr (redDone (addVFlags x r.fl) gd r.val (summaryWord act r))) s

/-- vred.sum, prod, max, min, argmax, argmin, and, or and xor. -/
def execVred (is : Issue) (f : Fin 9) (mg : BitVec 3) (ty : BitVec 4) (va : VReg) (gd : Reg6) (s : State) : Host.Outcome State Fault Refusal :=
  let w := f.val * 2 ^ 24 + mg.toNat * 2 ^ 21 + ty.toNat * 2 ^ 17 + va.toNat * 2 ^ 12 + gd.toNat * 2 ^ 6 + 0x35
  .next (issue s is (vecInsn w [] [gd.toNat, gd.toNat + 1] false) (vredBody is f mg ty va gd))

def mredBody (is : Issue) (mg ma : BitVec 3) (gd : Reg6) (s : State) : Res :=
  if gd.toNat % 2 = 1 then illegal s
  else
    let s := countGroups s is.thr 1
    let x := s.thr is.thr
    let c := vcfgOf x
    let act := (List.range c.vl).filterMap (fun i => if active x c mg i then some (i, (x.m[ma.toFin]).getLsbD i, false) else none)
    let n := (act.filter (fun e => e.2.1)).length
    .done (s.setThr is.thr (redDone x gd (BitVec.ofNat 64 n) (summaryWord act { val := 0 }))) none

/-- mred (R220). -/
def execMred (is : Issue) (mg : BitVec 3) (ma : BitVec 3) (gd : Reg6) (s : State) : Host.Outcome State Fault Refusal :=
  let w := 9 * 2 ^ 24 + mg.toNat * 2 ^ 21 + ma.toNat * 2 ^ 12 + gd.toNat * 2 ^ 6 + 0x35
  .next (issue s is (vecInsn w [] [gd.toNat, gd.toNat + 1] false) (mredBody is mg ma gd))

/-! ### Broadcast and move (R229) -/

/-- A destination whose elements below VL take the values of `f`, subject to the mask, and whose tail follows TPOL. -/
def writeDest (x : Thread) (c : VCfg) (mg : BitVec 3) (d : Opnd) (wmax : Nat) (vals : List Nat) : Thread :=
  let n := groupCount c wmax * groupLen wmax
  let sp := d.span c wmax
  zeroTail (putElems x c mg d sp 0 (vals ++ List.replicate (n - vals.length) 0)) c d sp

/-- vbcast is not among the whole-vector instructions of R195, and goes group by group. DEDUCED: assumption 36. -/
def vbcastBody (vi : VIssue) (ty : BitVec 4) (gb : Reg6) (vd : VReg) (s : State) : Res :=
  let t := elemTy ty.toNat
  let d : Opnd := { base := vd.toNat, w := t.width }
  let v := elOf t ((s.thr vi.is.thr).rg gb).toNat
  runEw vi true { form := { wmax := t.width, dsts := [d], srcs := [] }, dst := d, mg := 0, fn := fun _ _ => { bits := v } } s

def execVbcast (vi : VIssue) (ty : BitVec 4) (gb : Reg6) (vd : VReg) (s : State) : Host.Outcome State Fault Refusal :=
  let w := vspec 1 (ty.toNat * 2 ^ 22 + gb.toNat * 2 ^ 16 + vd.toNat * 2 ^ 6)
  .next (issue s vi.is (vecInsn w [gb.toNat] [] true) (vbcastBody vi ty gb vd))

/-- An element as 64 bits: an integer extended by its type's signedness, any other zero-extended. DESIGN CHOICE: assumption 41. -/
def elemWord (t : ElemTy) (a : Nat) : Word := match t with | .float _ => BitVec.ofNat 64 a | .int sg w => BitVec.ofInt 64 (intVal sg w a)

def vmvxBody (is : Issue) (ty : BitVec 4) (gb : Reg6) (va : VReg) (gd : Reg6) (s : State) : Res :=
  let t := elemTy ty.toNat
  let w := t.width
  let o : Opnd := { base := va.toNat, w := w }
  let c := vcfgOf (s.thr is.thr)
  match vecReason c { wmax := w, dsts := [], srcs := [o] } with
  | some r => vecConfig s r 0
  | none =>
    if vecHeld s is.thr c { wmax := w, dsts := [], srcs := [o] } then .wait s
    else
      .done ((countGroups s is.thr 1).updThr is.thr (fun x =>
        let i := (x.rg gb).toNat
        x.wg gd (if i < c.vl then elemWord t (op0 (elems x o.base (o.span c w) w i 1)) else 0))) none

def execVmvx (is : Issue) (ty : BitVec 4) (gb : Reg6) (va : VReg) (gd : Reg6) (s : State) : Host.Outcome State Fault Refusal :=
  let w := vspec 2 (ty.toNat * 2 ^ 23 + gb.toNat * 2 ^ 17 + va.toNat * 2 ^ 12 + gd.toNat * 2 ^ 6)
  .next (issue s is (vecInsn w [gb.toNat] [gd.toNat] false) (vmvxBody is ty gb va gd))

/-! ### Permutes (R224) -/

def vcompressBody (is : Issue) (ty : BitVec 4) (ma : BitVec 3) (vd va : VReg) (s : State) : Res :=
  let w := (elemTy ty.toNat).width
  let d : Opnd := { base := vd.toNat, w := w }
  let o : Opnd := { base := va.toNat, w := w }
  runWhole is { wmax := w, dsts := [d], srcs := [o], strict := true } (fun c s =>
    s.updThr is.thr (fun x =>
      let els := (elems x o.base (o.span c w) w 0 c.vl).mapIdx (fun i a => (a, (x.m[ma.toFin]).getLsbD i))
      writeDest x c 0 d w (els.filterMap (fun e => if e.2 then some e.1 else none)))) s

def execVcompress (is : Issue) (ty : BitVec 4) (ma : BitVec 3) (vd va : VReg) (s : State) : Host.Outcome State Fault Refusal :=
  let w := vspec 3 (ty.toNat * 2 ^ 22 + ma.toNat * 2 ^ 16 + va.toNat * 2 ^ 11 + vd.toNat * 2 ^ 6)
  .next (issue s is (vecInsn w [] [] false) (vcompressBody is ty ma vd va))

def vpermBody (is : Issue) (ty : BitVec 4) (vd va vb : VReg) (s : State) : Res :=
  let w := (elemTy ty.toNat).width
  let wm := max w 32
  let d : Opnd := { base := vd.toNat, w := w }
  let o : Opnd := { base := va.toNat, w := w }
  let ix : Opnd := { base := vb.toNat, w := 32 }
  runWhole is { wmax := wm, dsts := [d], srcs := [o, ix], strict := true } (fun c s =>
    s.updThr is.thr (fun x =>
      let src := spanBits x o.base (o.span c wm)
      writeDest x c 0 d wm ((elems x ix.base (ix.span c wm) 32 0 c.vl).map (fun i => if i < c.vl then elemAt src w i else 0)))) s

def execVperm (is : Issue) (ty : BitVec 4) (vd va vb : VReg) (s : State) : Host.Outcome State Fault Refusal :=
  let w := vspec 4 (ty.toNat * 2 ^ 22 + vb.toNat * 2 ^ 16 + va.toNat * 2 ^ 11 + vd.toNat * 2 ^ 6)
  .next (issue s is (vecInsn w [] [] false) (vpermBody is ty vd va vb))

/-- What vslidedn reads beyond the end of its source group is not stated: a free value. DESIGN CHOICE: assumption 40. -/
def slideFn (down : Bool) (free gb w len : Nat) (src : Nat) (i : Nat) : Nat :=
  if down then (if i + gb < len then elemAt src w (i + gb) else (Config.freeWord (free + i)).toNat % 2 ^ w)
  else if gb ≤ i then elemAt src w (i - gb) else 0

def slideBody (is : Issue) (down : Bool) (ty : BitVec 4) (gb : Reg6) (vd va : VReg) (s : State) : Res :=
  let w := (elemTy ty.toNat).width
  let d : Opnd := { base := vd.toNat, w := w }
  let o : Opnd := { base := va.toNat, w := w }
  runWhole is { wmax := w, dsts := [d], srcs := [o], strict := true } (fun c s =>
    let x := s.thr is.thr
    let sp := o.span c w
    let src := spanBits x o.base sp
    let vals := (List.range c.vl).map (slideFn down s.free (x.rg gb).toNat w (spanLen sp w) src)
    { s with free := s.free + 4096 }.setThr is.thr (writeDest x c 0 d w vals)) s

def execVslidedn (is : Issue) (ty : BitVec 4) (gb : Reg6) (vd va : VReg) (s : State) : Host.Outcome State Fault Refusal :=
  let w := vspec 5 (ty.toNat * 2 ^ 22 + gb.toNat * 2 ^ 16 + va.toNat * 2 ^ 11 + vd.toNat * 2 ^ 6)
  .next (issue s is (vecInsn w [gb.toNat] [] false) (slideBody is true ty gb vd va))
def execVslideup (is : Issue) (ty : BitVec 4) (gb : Reg6) (vd va : VReg) (s : State) : Host.Outcome State Fault Refusal :=
  let w := vspec 6 (ty.toNat * 2 ^ 22 + gb.toNat * 2 ^ 16 + va.toNat * 2 ^ 11 + vd.toNat * 2 ^ 6)
  .next (issue s is (vecInsn w [gb.toNat] [] false) (slideBody is false ty gb vd va))

/-- Inclusive prefix sums over the active elements. -/
def prefixSums (w : Nat) : Nat → List (Nat × Bool) → List Nat
  | _, [] => []
  | acc, (a, on) :: l => let acc := if on then (acc + a) % 2 ^ w else acc; acc :: prefixSums w acc l

def vscanBody (is : Issue) (ty : BitVec 4) (mg : BitVec 3) (vd va : VReg) (s : State) : Res :=
  match elemTy ty.toNat with
  | .float _ => illegal s
  | .int _ w =>
    let d : Opnd := { base := vd.toNat, w := w }
    let o : Opnd := { base := va.toNat, w := w }
    runWhole is { wmax := w, dsts := [d], srcs := [o], strict := true } (fun c s =>
      s.updThr is.thr (fun x =>
        let els := (elems x o.base (o.span c w) w 0 c.vl).mapIdx (fun i a => (a, active x c mg i))
        writeDest x c mg d w (prefixSums w 0 els))) s

def execVscanAdd (is : Issue) (ty : BitVec 4) (mg : BitVec 3) (vd va : VReg) (s : State) : Host.Outcome State Fault Refusal :=
  let w := vspec 7 (ty.toNat * 2 ^ 22 + mg.toNat * 2 ^ 16 + va.toNat * 2 ^ 11 + vd.toNat * 2 ^ 6)
  .next (issue s is (vecInsn w [] [] false) (vscanBody is ty mg vd va))

/-! ### vbucket (R226) -/

/-- The 32 u64 elements of the destination after the active (key, weight) pairs. -/
def bucketSums (old : List Nat) (pre pos : Nat) (pairs : List (Nat × Nat)) : List Nat :=
  let hit := pairs.filter (fun e => decide (e.1 / 2 ^ (pos + 4) = pre / 2 ^ (pos + 4)))
  old.mapIdx (fun i o =>
    let mine := hit.filter (fun e => decide (e.1 / 2 ^ pos % 16 = i % 16))
    (o + (if i < 16 then mine.length else mine.foldl (fun a e => a + e.2) 0)) % 2 ^ 64)

def vbucketBody (is : Issue) (mg : BitVec 3) (gb : Reg6) (vd va : VReg) (s : State) : Res :=
  let x := s.thr is.thr
  let g := x.rg gb
  let pre := field g 31 0
  let pos := field g 36 32
  let c0 := vcfgOf x
  let d : Opnd := { base := vd.toNat, w := 64, one := true }
  let ks : Opnd := { base := va.toNat, w := 32 }
  let ws : Opnd := { base := va.toNat + c0.sp, w := 32 }
  runWhole is { wmax := 32, dsts := [d], srcs := [ks, ws], strict := true, rangeReg := decide (32 < va.toNat + 2 * c0.sp),
                bucketPos := decide (pos % 4 ≠ 0 ∨ 28 < pos) } (fun c s =>
    s.updThr is.thr (fun x =>
      let keys := elems x ks.base (ks.span c 32) 32 0 c.vl
      let wts := elems x ws.base (ws.span c 32) 32 0 c.vl
      let pairs := ((keys.zip wts).mapIdx (fun i e => (active x c mg i, e))).filterMap (fun e => if e.1 then some e.2 else none)
      let old := if bit g 37 then List.replicate 32 0 else elems x d.base 1 64 0 32
      setElems x d.base 64 0 (bucketSums old pre pos pairs))) s

def execVbucket (is : Issue) (mg : BitVec 3) (gb : Reg6) (vd va : VReg) (s : State) : Host.Outcome State Fault Refusal :=
  let w := vspec 11 (mg.toNat * 2 ^ 22 + gb.toNat * 2 ^ 16 + va.toNat * 2 ^ 11 + vd.toNat * 2 ^ 6)
  .next (issue s is (vecInsn w [gb.toNat] [] false) (vbucketBody is mg gb vd va))

end Sys2Proof.Machine
end

