-- ==== Sys2Proof/Machine/VecMem.lean ====
section
/-! DEFINITION. Vector loads and stores (R205–R208, R223) and vchain (R209–R213). -/

namespace Sys2Proof.Machine
open Sys2Proof

/-! ### Addresses and checks (R205, R206) -/

/-- Address of element `i` of `n` bytes; `idx` is its index in indexed mode. -/
def vecAddr (mode : Fin 3) (ga gb : Word) (n i idx : Nat) : Word :=
  match mode with
  | 0 => ga + BitVec.ofNat 64 (i * n)
  | 1 => ga + BitVec.ofNat 64 i * gb
  | 2 => ga + BitVec.ofNat 64 (idx * n)

/-- The windows that no vector access may reach (R206). -/
def vecBarred (a : Nat) : Bool := isDevice a && (match windowOf a with | .control | .tstore | .session => true | _ => false)

/-- The checks of one element's access: address, alignment, rights. -/
def vecAccess (s : State) (x : Thread) (k : AccKind) (ea : Word) (n : Nat) : Except TrapInfo Part :=
  let p : Part := ⟨ea.toNat, n⟩
  if badAddr k p || vecBarred p.ea then .error ⟨Cause.DEV_ADDR, 0, ea⟩
  else if p.ea % n ≠ 0 then .error ⟨Cause.ALIGN, 0, ea⟩
  else if !partRight s x k p then .error ⟨Cause.ACCESS, 0, ea⟩
  else .ok p

/-- An element's place: a device address, or a translated host address. -/
inductive VPlace where
  | dev (a : Nat)
  | host (h : HostPart)
  deriving DecidableEq, Repr

/-- The elements of a group in order: those placed, the misses, whether Bus Master Enable is off, and the first fault. -/
structure VScan where
  s : State
  placed : List (Nat × VPlace) := []
  misses : List Miss := []
  busOff : Bool := false
  fault : Option TrapInfo := none
  deriving DecidableEq, Repr

/-- Checks and translates elements (index within the group, address) up to the first that faults (R223, R358). -/
def scanEls (t : Thr) (k : AccKind) (n : Nat) : List (Nat × Word) → VScan → VScan
  | [], v => v
  | (j, ea) :: l, v =>
    match vecAccess v.s (v.s.thr t) k ea n with
    | .error i => { v with fault := some i }
    | .ok p =>
      if isSva p.ea then
        if !canSend v.s then { v with busOff := true }
        else
          match translate v.s (FAgent.cache (.thread t)) (p.ea % 2 ^ 57) (decide (k = .store)) false with
          | (s, .refused) => { v with s := s, fault := some ⟨Cause.TRANSLATE, 1, ea⟩ }
          | (s, .miss) =>
            scanEls t k n l { v with s := s, misses := v.misses ++ [{ va := p.ea, write := decide (k = .store), atomic := false, elem := j, vec := true }] }
          | (s, .ok pa untr ns) => scanEls t k n l { v with s := s, placed := v.placed ++ [(j, .host { part := p, pa := pa, untr := untr, ns := ns })] }
      else scanEls t k n l { v with placed := v.placed ++ [(j, .dev p.ea)] }

/-- One miss for each distinct page, the lowest element's. -/
def distinctMisses (ms : List Miss) : List Miss :=
  ms.foldl (fun acc m => if acc.any (fun a => decide (a.va / 4096 = m.va / 4096)) then acc else acc ++ [m]) []

/-- A scanned group that cannot go on yet, or that faults: `below` takes the elements before the one whose address faulted, one of
which may fault on its data first (R223). -/
def scanEnd (t : Thr) (k : AccKind) (word : Word) (v : VScan) (below : State → List (Nat × VPlace) → (State → GroupRes) → GroupRes)
    (go : State → List (Nat × VPlace) → GroupRes) : GroupRes :=
  let ms := distinctMisses v.misses
  if !ms.isEmpty then
    let s := ms.foldl (fun z m => askAts z (m.va % 2 ^ 57 / 4096) (decide (k = .load))) v.s
    .wait (stallThread s t (.ats (ms.map (fun m => m.va % 2 ^ 57 / 4096))) ms word)
  else if v.busOff then .wait (stallThread v.s t .busMaster [] word)
  else
    match v.fault with
    | some i => below v.s v.placed (fun s => .trap (if i.cause = Cause.TRANSLATE then s.bump R.FQ_REFUSED 1 else s) i)
    | none => go v.s v.placed

/-! ### Loads -/

/-- The host parts, in element order: their data by element, or that one waits, or the first that fails. -/
def hostEls (t : Thr) : List (Nat × VPlace) → State → State × List (Nat × List Byte) × Bool × Option (Nat × TrapInfo)
  | [], s => (s, [], false, none)
  | (_, .dev _) :: l, s => hostEls t l s
  | (j, .host h) :: l, s =>
    match hostRead s t [h] with
    | (s, .data bs) => let r := hostEls t l s; (r.1, (j, bs) :: r.2.1, r.2.2)
    | (s, .wait) => let r := hostEls t l s; (r.1, r.2.1, true, r.2.2.2)
    | (s, .trap i) => (s, [], false, some (j, i))

/-- Device reads of the elements below `lim`, in order, up to the first that consumes Deferred data. -/
def devEls (t : Thr) (n lim : Nat) : List (Nat × VPlace) → State → State × List (Nat × List Byte) × Option TrapInfo
  | [], s => (s, [], none)
  | (_, .host _) :: l, s => devEls t n lim l s
  | (j, .dev a) :: l, s =>
    if lim ≤ j then (s, [], none)
    else
      let (s, bs) := memRead s (.vector t) 0 a n
      if bs.any (·.2) then (s, [], some ⟨Cause.POISON, 0, BitVec.ofNat 64 a⟩)
      else let r := devEls t n lim l s; (r.1, (j, bs.map (·.1)) :: r.2.1, r.2.2)

/-- An element lies in a row, or for a store in a granule, that is being copied (R342, R345), or shares a byte with a queued store of
the thread (R317). -/
def busyEls (busy : State → Nat → Nat → Bool) (s : State) (t : Thr) (n : Nat) (l : List (Nat × VPlace)) : Bool :=
  l.any (fun e => match e.2 with | .dev a => busy s a n || queueHits (s.thr t).storeQ a n | .host _ => false)

/-- The data of a group's active elements. -/
def loadEls (t : Thr) (n : Nat) (l : List (Nat × VPlace)) (s : State) (fin : State → List (Nat × List Byte) → GroupRes) : GroupRes :=
  match hostEls t l s with
  | (s, _, true, _) => .wait s
  | (s, hs, false, bad) =>
    if busyEls anyRowBusy s t n l then .wait s
    else
      match devEls t n (match bad with | some (j, _) => j | none => 8192) l s, bad with
      | (s, _, some i), _ => .trap s i
      | (s, _, none), some (_, i) => .trap s i
      | (s, ds, none), none => fin s (hs ++ ds)

/-- The operands of a vector access: the data group and, in indexed mode, the index group. -/
def vmemForm (mode : Fin 3) (n : Nat) (b : Reg6) (vd : VReg) (store : Bool) : VForm :=
  let d : Opnd := { base := vd.toNat, w := 8 * n }
  let ix : List Opnd := if mode = 2 then [{ base := b.toNat % 32, w := 32 }] else []
  { wmax := if mode = 2 then max (8 * n) 32 else 8 * n, dsts := if store then [] else [d], srcs := if store then [d] else [], strictSrcs := ix }

/-- The active elements of group `k`: index within the group, address. -/
def vmemEls (x : Thread) (c : VCfg) (f : VForm) (mode : Fin 3) (mg : BitVec 3) (n : Nat) (b ga : Reg6) (k : Nat) : List (Nat × Word) :=
  let g := groupLen f.wmax
  let i0 := k * g
  let idx := if mode = 2 then elems x (b.toNat % 32) ((⟨b.toNat % 32, 32, false⟩ : Opnd).span c f.wmax) 32 i0 g else List.replicate g 0
  (idx.mapIdx (fun j v => (j, v))).filterMap (fun e =>
    if active x c mg (i0 + e.1) then some (e.1, vecAddr mode (x.rg ga) (x.rg b) n (i0 + e.1) e.2) else none)

/-- Unassigned bits of B: all six in unit mode, the sixth in indexed mode (R229). -/
def vmemOk (mode : Fin 3) (b : Reg6) : Bool := match mode with | 0 => decide (b = 0) | 1 => true | 2 => decide (b.toNat < 32)

def vloadGroup (t : Thr) (f : VForm) (mode : Fin 3) (mg : BitVec 3) (n : Nat) (b ga : Reg6) (vd : VReg) (word : Word) (c : VCfg) (k : Nat) (s : State) : GroupRes :=
  let els := vmemEls (s.thr t) c f mode mg n b ga k
  scanEnd t .load word (scanEls t .load n els { s := s }) (fun s l f => loadEls t n l s (fun s _ => f s)) (fun s l =>
    loadEls t n l s (fun s ds =>
      let d : Opnd := { base := vd.toNat, w := 8 * n }
      let vals := (List.range (groupLen f.wmax)).map (fun j => match ds.find? (fun e => decide (e.1 = j)) with | some e => ofLe e.2 | none => 0)
      .ok (s.updThr t (fun x => putElems x c mg d (d.span c f.wmax) (k * groupLen f.wmax) vals))))

def vmemWord (st : Bool) (mode : Nat) (mg : BitVec 3) (w : BitVec 2) (b ga : Reg6) (vd : Nat) : Nat :=
  boolNat st * 2 ^ 30 + mode * 2 ^ 28 + mg.toNat * 2 ^ 25 + w.toNat * 2 ^ 23 + b.toNat * 2 ^ 17 + ga.toNat * 2 ^ 11 + vd * 2 ^ 6 + 0x36

def vloadBody (vi : VIssue) (mode : Fin 3) (mg : BitVec 3) (w : BitVec 2) (b ga : Reg6) (vd : VReg) (up : List Upset) (word : Word) (s : State) : Res :=
  let n := 2 ^ w.toNat
  let f := vmemForm mode n b vd false
  if vmemOk mode b then runVec vi f (vloadGroup vi.is.thr f mode mg n b ga vd word) (strikes s up) else illegal s

/-- The g registers that a vector access reads. -/
def vmemReads (mode : Fin 3) (b ga : Reg6) : List Nat := if mode = 1 then [ga.toNat, b.toNat] else [ga.toNat]

/-- A vector load (R205–R207). -/
def execVload (vi : VIssue) (mode : Fin 3) (mg : BitVec 3) (w : BitVec 2) (b ga : Reg6) (vd : VReg) (up : List Upset) (s : State) :
    Host.Outcome State Fault Refusal :=
  let i := { vecInsn (vmemWord false mode.val mg w b ga vd.toNat) (vmemReads mode b ga) [] true with vmem := true }
  .next (issue s vi.is i (vloadBody vi mode mg w b ga vd up i.word))

/-! ### Stores -/

/-- The store of one element: through to memory, the matching lines of L1D and L1I gone (R207). -/
def storeEl (t : Thr) (s : State) (p : VPlace) (data : List Byte) : State :=
  match p with
  | .dev a => memWrite (dropLines s (spindleOf t) a data.length) (.vector t) a data
  | .host h => hostWrite s h data

def vstoreGroup (t : Thr) (f : VForm) (mode : Fin 3) (mg : BitVec 3) (n : Nat) (b ga : Reg6) (vd : VReg) (word : Word) (c : VCfg) (k : Nat) (s : State) : GroupRes :=
  let x := s.thr t
  let d : Opnd := { base := vd.toNat, w := 8 * n }
  scanEnd t .store word (scanEls t .store n (vmemEls x c f mode mg n b ga k) { s := s }) (fun s _ f => f s) (fun s l =>
    if busyEls anyWriteBusy s t n l then .wait s
    else
      let chunk := packElems (8 * n) (elems x d.base (d.span c f.wmax) d.w (k * groupLen f.wmax) (groupLen f.wmax))
      .ok (l.foldl (fun z e => storeEl t z e.2 (leBytes n (elemAt chunk (8 * n) e.1))) s))

def vstoreBody (vi : VIssue) (mode : Fin 3) (mg : BitVec 3) (w : BitVec 2) (b ga : Reg6) (vd : VReg) (up : List Upset) (word : Word) (s : State) : Res :=
  let n := 2 ^ w.toNat
  let f := vmemForm mode n b vd true
  if vmemOk mode b then runVec vi f (vstoreGroup vi.is.thr f mode mg n b ga vd word) (strikes s up) else illegal s

/-- A vector store (R205–R208). -/
def execVstore (vi : VIssue) (mode : Fin 3) (mg : BitVec 3) (w : BitVec 2) (b ga : Reg6) (vd : VReg) (up : List Upset) (s : State) :
    Host.Outcome State Fault Refusal :=
  let i := { vecInsn (vmemWord true mode.val mg w b ga vd.toNat) (vmemReads mode b ga) [] true with vmem := true }
  .next (issue s vi.is i (vstoreBody vi mode mg w b ga vd up i.word))

/-! ### vchain (R209–R213) -/

/-- The descriptor's 64 bytes, read through L1D like a load. -/
def chainRead (t : Thr) (word ea : Word) (s : State) (fin : State → List Byte → Res) : Res :=
  match vecAccess s (s.thr t) .load ea 64 with
  | .error i => .trap s i
  | .ok p =>
    if isSva p.ea then
      match hostParts s t word .load [p] with
      | (s, .ok l) =>
        match hostRead s t l with
        | (s, .data bs) => fin s bs
        | (s, .wait) => .wait s
        | (s, .trap i) => .trap s i
      | (s, .wait) => .wait s
      | (s, .trap i) => .trap s i
    else if loadWaits s t [p] then .wait s
    else
      let (s, bs) := l1Load s t [p]
      if bs.any (·.2) then .trap s ⟨Cause.POISON, 0, ea⟩ else fin s (bs.map (·.1))

/-- The operands of a chain: the V fields that some stage selects. -/
def chainForm (d : ChainDesc) : VForm :=
  let iw := (elemTy d.itype).width
  let dw := (elemTy d.dtype).width
  let vs := (List.range 4).filter (fun i => selects d (i + 1))
  { wmax := if vs.isEmpty then dw else max iw dw, dsts := [{ base := d.vd, w := dw }],
    srcs := vs.map (fun i => { base := d.v.getD i 0, w := iw }) }

/-- The V inputs of an element, from its values of the selected groups: converted to WTYPE when ITYPE differs. DESIGN CHOICE: assumption 44. -/
def chainInputs (d : ChainDesc) (rm : Rm) (l : List Nat) : List Nat × Flags :=
  let vs := (List.range 4).filter (fun i => selects d (i + 1))
  let cv := l.map (fun a => if d.itype = d.wtype then { bits := a } else intoW d rm a)
  let at4 := (List.range 4).map (fun i => match (vs.zip cv).find? (fun e => decide (e.1 = i)) with | some e => e.2.bits | none => 0)
  (at4, cv.foldl (fun (a : Flags) r => a ||| r.fl) 0)

def chainFn (d : ChainDesc) (rm : Rm) (sat : Bool) (ks : List Nat) (l : List Nat) : FRes :=
  let i := chainInputs d rm l
  let r := evalChain d rm sat i.1 ks
  { r with fl := r.fl ||| i.2 }

/-- vchain: SAT is that of the moment at which it issued, though its descriptor comes later (R184). -/
def vchainBody (vi : VIssue) (mg : BitVec 3) (ga : Reg6) (up : List Upset) (word : Word) (s : State) : Res :=
  let t := vi.is.thr
  let s := strikes s up
  -- a fault at the descriptor comes before the first group that is left to run
  let st := startGroup (s.thr t)
  match chainRead t word ((s.thr t).rg ga) s (fun s bs =>
    let x := s.thr t
    let d := parseChain bs
    match chainFault d with
    | some j => vecConfig s 5 j
    | none =>
      let f := chainForm d
      let ks := d.k.map (fun r => elOf (elemTy d.wtype) (x.rg (BitVec.ofNat 6 r)).toNat)
      let rm := dynRm x
      let sat := x.satAt.getD (satOn s x)
      runVec vi f (ewGroup t { form := f, dst := { base := d.vd, w := (elemTy d.dtype).width }, mg := mg, fn := fun _ l => chainFn d rm sat ks l }) s) with
  | .trap s i => .trap (if bit ((s.thr t).ucr CR.VRES) 32 then s else setVres s t st) i
  | .wait s => .wait (s.updThr t (fun x => { x with satAt := if x.host.isEmpty then none else some (x.satAt.getD (satOn s x)) }))
  | .done s a => .done s a
  | .jump s pc => .jump s pc
  | .left s => .left s

/-- The g registers that the stages of the chain at `ga` read at issue (R58, R210). -/
def chainReads (s : State) (t : Thr) (ga : Reg6) : List Nat :=
  match vecAccess s (s.thr t) .load ((s.thr t).rg ga) 64 with
  | .error _ => []
  | .ok p =>
    if isSva p.ea then []
    else
      let d := parseChain ((l1Load s t [p]).2.map (·.1))
      ((List.range 4).filter (fun i => selects d (i + 5))).map (fun i => d.k.getD i 0)

/-- vchain. -/
def execVchain (vi : VIssue) (mg : BitVec 3) (ga : Reg6) (up : List Upset) (s : State) : Host.Outcome State Fault Refusal :=
  let i := { vecInsn (vmemWord false 3 mg 0 0 ga 0) (ga.toNat :: chainReads s vi.is.thr ga) [] true with vmem := true }
  .next (issue s vi.is i (vchainBody vi mg ga up i.word))

end Sys2Proof.Machine
end

