-- ==== Sys2Proof/Machine/Dispatch.lean ====
section
/-! DEFINITION. The meaning of every command: one arm for each constructor of `Instr`. -/

namespace Sys2Proof.Machine
open Sys2Proof

def exec (i : Instr) (s : State) : Host.Outcome State Fault Refusal :=
  match i with
  | .beatEdge => Sys2Proof.Machine.execBeatEdge s
  | .guardInstant acks => Sys2Proof.Machine.execGuardInstant acks s
  | .decisionInstant => Sys2Proof.Machine.execDecisionInstant s
  | .stretchReq port beat dev count => Sys2Proof.Machine.execStretchReq port beat dev count s
  | .beatMarker port m rx => Sys2Proof.Machine.execBeatMarker port m rx s
  | .markerInterval => Sys2Proof.Machine.execMarkerInterval s
  | .holdover => Sys2Proof.Machine.execHoldover s
  | .beatInEdge time8 => Sys2Proof.Machine.execBeatInEdge time8 s
  | .setRun => Sys2Proof.Machine.execSetRun s
  | .clearRun => Sys2Proof.Machine.execClearRun s
  | .sreq => Sys2Proof.Machine.execSreq s
  | .stagedWrite who off size8 v => Sys2Proof.Machine.execStagedWrite who off size8 v s
  | .arm => Sys2Proof.Machine.execArm s
  | .discard => Sys2Proof.Machine.execDiscard s
  | .cancel => Sys2Proof.Machine.execCancel s
  | .registerWrite who off size8 v => Sys2Proof.Machine.execRegisterWrite who off size8 v s
  | .bdone iis => Sys2Proof.Machine.execBdone iis s
  | .aluOp iis op w rd ra rb => Sys2Proof.Machine.execAluOp iis op w rd ra rb s
  | .mul iis op w rd ra rb => Sys2Proof.Machine.execMul iis op w rd ra rb s
  | .div iis op w rd ra rb => Sys2Proof.Machine.execDiv iis op w rd ra rb s
  | .aluImmediate iis op rd ra imm => Sys2Proof.Machine.execAluImmediate iis op rd ra imm s
  | .shiftImmediate iis op w rd ra amt => Sys2Proof.Machine.execShiftImmediate iis op w rd ra amt s
  | .lui iis rd imm => Sys2Proof.Machine.execLui iis rd imm s
  | .auipc iis rd imm => Sys2Proof.Machine.execAuipc iis rd imm s
  | .ld iis k rd ra imm up => Sys2Proof.Machine.execLd iis k rd ra imm up s
  | .st iis k rs ra imm up => Sys2Proof.Machine.execSt iis k rs ra imm up s
  | .atomic iis op dbl rd ra rb up => Sys2Proof.Machine.execAtomic iis op dbl rd ra rb up s
  | .branch iis c ra rb off => Sys2Proof.Machine.execBranch iis c ra rb off s
  | .jal iis rd off => Sys2Proof.Machine.execJal iis rd off s
  | .jalr iis rd ra imm => Sys2Proof.Machine.execJalr iis rd ra imm s
  | .loop iis lvl ra body => Sys2Proof.Machine.execLoop iis lvl ra body s
  | .loopi iis lvl body count ext => Sys2Proof.Machine.execLoopi iis lvl body count ext s
  | .fpOp iis op dbl rm rd ra rb => Sys2Proof.Machine.execFpOp iis op dbl rm rd ra rb s
  | .fdivFsqrt iis sqrt dbl rm rd ra rb => Sys2Proof.Machine.execFdivFsqrt iis sqrt dbl rm rd ra rb s
  | .fmadd iis op dbl rd ra rb rc rm => Sys2Proof.Machine.execFmadd iis op dbl rd ra rb rc rm s
  | .fcvt iis c rm rd ra => Sys2Proof.Machine.execFcvt iis c rm rd ra s
  | .crr iis rd num => Sys2Proof.Machine.execCrr iis rd num s
  | .crw iis rd ra num => Sys2Proof.Machine.execCrw iis rd ra num s
  | .crs iis rd ra num => Sys2Proof.Machine.execCrs iis rd ra num s
  | .crc iis rd ra num => Sys2Proof.Machine.execCrc iis rd ra num s
  | .swake iis rd ra => Sys2Proof.Machine.execSwake iis rd ra s
  | .csync iis => Sys2Proof.Machine.execCsync iis s
  | .isync iis => Sys2Proof.Machine.execIsync iis s
  | .tbegin iis rd off => Sys2Proof.Machine.execTbegin iis rd off s
  | .tcommit iis => Sys2Proof.Machine.execTcommit iis s
  | .tabort iis code => Sys2Proof.Machine.execTabort iis code s
  | .txTimeAbort t => Sys2Proof.Machine.execTxTimeAbort t s
  | .gcall iis gate => Sys2Proof.Machine.execGcall iis gate s
  | .gret iis => Sys2Proof.Machine.execGret iis s
  | .tret iis => Sys2Proof.Machine.execTret iis s
  | .wfi iis => Sys2Proof.Machine.execWfi iis s
  | .brk iis code => Sys2Proof.Machine.execBrk iis code s
  | .fence iis set => Sys2Proof.Machine.execFence iis set s
  | .icinvL iis ra imm => Sys2Proof.Machine.execIcinvL iis ra imm s
  | .icinvAll iis => Sys2Proof.Machine.execIcinvAll iis s
  | .dcinvL iis ra imm => Sys2Proof.Machine.execDcinvL iis ra imm s
  | .dcinvAll iis => Sys2Proof.Machine.execDcinvAll iis s
  | .pfD iis ra imm => Sys2Proof.Machine.execPfD iis ra imm s
  | .pfI iis ra imm => Sys2Proof.Machine.execPfI iis ra imm s
  | .lineFill sp isData line up => Sys2Proof.Machine.execLineFill sp isData line up s
  | .takeInterrupt t => Sys2Proof.Machine.execTakeInterrupt t s
  | .takeBeatOverrun t => Sys2Proof.Machine.execTakeBeatOverrun t s
  | .takeMatrixError t => Sys2Proof.Machine.execTakeMatrixError t s
  | .timerInterrupt t sealed => Sys2Proof.Machine.execTimerInterrupt t sealed s
  | .tdoor who t v => Sys2Proof.Machine.execTdoor who t v s
  | .trouteWrite who u v => Sys2Proof.Machine.execTrouteWrite who u v s
  | .start t => Sys2Proof.Machine.execStart t s
  | .halt t => Sys2Proof.Machine.execHalt t s
  | .vcfg iis rd ra span etype mpol tpol => Sys2Proof.Machine.execVcfg iis rd ra span etype mpol tpol s
  | .vvOp vi f mg ty3 vd va vb => Sys2Proof.Machine.execVvOp vi f mg ty3 vd va vb s
  | .vsOp vi f mg ty3 vd va gb => Sys2Proof.Machine.execVsOp vi f mg ty3 vd va gb s
  | .vfOp vi op mg vd va vb vc => Sys2Proof.Machine.execVfOp vi op mg vd va vb vc s
  | .vcmp iis f mg ty u b va md => Sys2Proof.Machine.execVcmp iis f mg ty u b va md s
  | .maskOp iis f md ma mb => Sys2Proof.Machine.execMaskOp iis f md ma mb s
  | .mfromv iis md va => Sys2Proof.Machine.execMfromv iis md va s
  | .mtov iis vd ma => Sys2Proof.Machine.execMtov iis vd ma s
  | .vcvt vi mg dty sty vd va => Sys2Proof.Machine.execVcvt vi mg dty sty vd va s
  | .vsqrt vi mg ty vd va => Sys2Proof.Machine.execVsqrt vi mg ty vd va s
  | .vabs vi mg ty vd va => Sys2Proof.Machine.execVabs vi mg ty vd va s
  | .vneg vi mg ty vd va => Sys2Proof.Machine.execVneg vi mg ty vd va s
  | .vexp2 vi mg vd va => Sys2Proof.Machine.execVexp2 vi mg vd va s
  | .vlog2 vi mg vd va => Sys2Proof.Machine.execVlog2 vi mg vd va s
  | .vkey vi mg vd va => Sys2Proof.Machine.execVkey vi mg vd va s
  | .vmv vi mg ty vd va => Sys2Proof.Machine.execVmv vi mg ty vd va s
  | .vplyEncf8 vi mg dty sty vd va => Sys2Proof.Machine.execVplyEncf8 vi mg dty sty vd va s
  | .vplyEnci4 vi mg dty sty vd va => Sys2Proof.Machine.execVplyEnci4 vi mg dty sty vd va s
  | .vplyDecf8 vi mg dty sty vd va => Sys2Proof.Machine.execVplyDecf8 vi mg dty sty vd va s
  | .vplyDeci4 vi mg dty sty vd va => Sys2Proof.Machine.execVplyDeci4 vi mg dty sty vd va s
  | .vplyEncw16 vi vd va gb => Sys2Proof.Machine.execVplyEncw16 vi vd va gb s
  | .vplyDecw16 vi vd va gb => Sys2Proof.Machine.execVplyDecw16 vi vd va gb s
  | .vred iis f mg ty va gd => Sys2Proof.Machine.execVred iis f mg ty va gd s
  | .mred iis mg ma gd => Sys2Proof.Machine.execMred iis mg ma gd s
  | .vload vi mode mg w b ga vd up => Sys2Proof.Machine.execVload vi mode mg w b ga vd up s
  | .vstore vi mode mg w b ga vd up => Sys2Proof.Machine.execVstore vi mode mg w b ga vd up s
  | .vchain vi mg ga up => Sys2Proof.Machine.execVchain vi mg ga up s
  | .vbcast vi ty gb vd => Sys2Proof.Machine.execVbcast vi ty gb vd s
  | .vmvx iis ty gb va gd => Sys2Proof.Machine.execVmvx iis ty gb va gd s
  | .vcompress iis ty ma vd va => Sys2Proof.Machine.execVcompress iis ty ma vd va s
  | .vperm iis ty vd va vb => Sys2Proof.Machine.execVperm iis ty vd va vb s
  | .vslidedn iis ty gb vd va => Sys2Proof.Machine.execVslidedn iis ty gb vd va s
  | .vslideup iis ty gb vd va => Sys2Proof.Machine.execVslideup iis ty gb vd va s
  | .vscanAdd iis ty mg vd va => Sys2Proof.Machine.execVscanAdd iis ty mg vd va s
  | .vrand vi f32 ga gb vd => Sys2Proof.Machine.execVrand vi f32 ga gb vd s
  | .vbucket iis mg gb vd va => Sys2Proof.Machine.execVbucket iis mg gb vd va s
  | .mop iis afmt wfmt shape pair wide t ga gb => Sys2Proof.Machine.execMop iis afmt wfmt shape pair wide t ga gb s
  | .mopAcc iis afmt wfmt shape pair wide t ga gb => Sys2Proof.Machine.execMopAcc iis afmt wfmt shape pair wide t ga gb s
  | .mopStart sp arr up mis => Sys2Proof.Machine.execMopStart sp arr up mis s
  | .mopComplete sp arr => Sys2Proof.Machine.execMopComplete sp arr s
  | .mfill iis a u ga gb => Sys2Proof.Machine.execMfill iis a u ga gb s
  | .fillComplete sp => Sys2Proof.Machine.execFillComplete sp s
  | .mtake iis t gd => Sys2Proof.Machine.execMtake iis t gd s
  | .mrel iis t => Sys2Proof.Machine.execMrel iis t s
  | .frel sp t => Sys2Proof.Machine.execFrel sp t s
  | .mdrain iis t ga => Sys2Proof.Machine.execMdrain iis t ga s
  | .drainStart sp t up => Sys2Proof.Machine.execDrainStart sp t up s
  | .drainComplete sp t => Sys2Proof.Machine.execDrainComplete sp t s
  | .mwait iis t c => Sys2Proof.Machine.execMwait iis t c s
  | .mstat iis t gd => Sys2Proof.Machine.execMstat iis t gd s
  | .panScrub sp up => Sys2Proof.Machine.execPanScrub sp up s
  | .l1CtlWrite who sp isData size8 hi v => Sys2Proof.Machine.execL1CtlWrite who sp isData size8 hi v s
  | .hbmWrite who addr data up => Sys2Proof.Machine.execHbmWrite who addr data up s
  | .hbmRead who addr len up => Sys2Proof.Machine.execHbmRead who addr len up s
  | .hbmAtomic who addr op dbl operand compare up => Sys2Proof.Machine.execHbmAtomic who addr op dbl operand compare up s
  | .wcbAgeFlush u up => Sys2Proof.Machine.execWcbAgeFlush u up s
  | .flush u up => Sys2Proof.Machine.execFlush u up s
  | .hbmScrub u up => Sys2Proof.Machine.execHbmScrub u up s
  | .retire u pch sid bg ba row => Sys2Proof.Machine.execRetire u pch sid bg ba row s
  | .retireDone u => Sys2Proof.Machine.execRetireDone u s
  | .spare u pch => Sys2Proof.Machine.execSpare u pch s
  | .spareDone u => Sys2Proof.Machine.execSpareDone u s
  | .pcfence u pch => Sys2Proof.Machine.execPcfence u pch s
  | .stackTempSample u bd dr => Sys2Proof.Machine.execStackTempSample u bd dr s
  | .resume u => Sys2Proof.Machine.execResume u s
  | .marginStart u v => Sys2Proof.Machine.execMarginStart u v s
  | .marginDone u errBursts lanes => Sys2Proof.Machine.execMarginDone u errBursts lanes s
  | .atsTranslationCompletion req ts up => Sys2Proof.Machine.execAtsTranslationCompletion req ts up s
  | .atsInvalidationRequest itag va size pasid global => Sys2Proof.Machine.execAtsInvalidationRequest itag va size pasid global s
  | .invalidationCompletion itag => Sys2Proof.Machine.execInvalidationCompletion itag s
  | .translationStoreWrite who addr data => Sys2Proof.Machine.execTranslationStoreWrite who addr data s
  | .flushall => Sys2Proof.Machine.execFlushall s
  | .rttDisable => Sys2Proof.Machine.execRttDisable s
  | .batchWindowExpiry => Sys2Proof.Machine.execBatchWindowExpiry s
  | .pageRequestGroupResponse idx code => Sys2Proof.Machine.execPageRequestGroupResponse idx code s
  | .priTimeout batch => Sys2Proof.Machine.execPriTimeout batch s
  | .fqHeadWrite v => Sys2Proof.Machine.execFqHeadWrite v s
  | .priFailedClear => Sys2Proof.Machine.execPriFailedClear s
  | .hostReadCompletion tag st data poisoned => Sys2Proof.Machine.execHostReadCompletion tag st data poisoned s
  | .completionTimeout tag => Sys2Proof.Machine.execCompletionTimeout tag s
  | .qtailWrite who e q v => Sys2Proof.Machine.execQtailWrite who e q v s
  | .descriptorFetch e q up => Sys2Proof.Machine.execDescriptorFetch e q up s
  | .sluiceCopy e q up => Sys2Proof.Machine.execSluiceCopy e q up s
  | .sluiceRunComplete e q => Sys2Proof.Machine.execSluiceRunComplete e q s
  | .sluiceNop e q => Sys2Proof.Machine.execSluiceNop e q s
  | .sluiceLoop e q => Sys2Proof.Machine.execSluiceLoop e q s
  | .sluiceWait e q => Sys2Proof.Machine.execSluiceWait e q s
  | .sluiceSignal e q => Sys2Proof.Machine.execSluiceSignal e q s
  | .qctlResume who e q => Sys2Proof.Machine.execQctlResume who e q s
  | .qctlRetry who e q => Sys2Proof.Machine.execQctlRetry who e q s
  | .qctlAbort who e q => Sys2Proof.Machine.execQctlAbort who e q s
  | .queueDisable who e q => Sys2Proof.Machine.execQueueDisable who e q s
  | .put m => Sys2Proof.Machine.execPut m s
  | .get m => Sys2Proof.Machine.execGet m s
  | .getwaitExpiry chan => Sys2Proof.Machine.execGetwaitExpiry chan s
  | .getdata m => Sys2Proof.Machine.execGetdata m s
  | .ack m => Sys2Proof.Machine.execAck m s
  | .nack m => Sys2Proof.Machine.execNack m s
  | .messageTimeout xid => Sys2Proof.Machine.execMessageTimeout xid s
  | .openChannel who chan => Sys2Proof.Machine.execOpenChannel who chan s
  | .closeChannel who chan => Sys2Proof.Machine.execCloseChannel who chan s
  | .query who chan => Sys2Proof.Machine.execQuery who chan s
  | .consume who chan count => Sys2Proof.Machine.execConsume who chan count s
  | .flitReceive p flit fec rx => Sys2Proof.Machine.execFlitReceive p flit fec rx s
  | .replayTimeout p => Sys2Proof.Machine.execReplayTimeout p s
  | .portEnable p => Sys2Proof.Machine.execPortEnable p s
  | .portDisable p => Sys2Proof.Machine.execPortDisable p s
  | .retrain p => Sys2Proof.Machine.execRetrain p s
  | .test p errs => Sys2Proof.Machine.execTest p errs s
  | .trainingComplete p peer peerPort peerBond => Sys2Proof.Machine.execTrainingComplete p peer peerPort peerBond s
  | .trainfail p => Sys2Proof.Machine.execTrainfail p s
  | .signalLoss p => Sys2Proof.Machine.execSignalLoss p s
  | .reelGo who u => Sys2Proof.Machine.execReelGo who u s
  | .reelAbort who u => Sys2Proof.Machine.execReelAbort who u s
  | .grant m => Sys2Proof.Machine.execGrant m s
  | .data m => Sys2Proof.Machine.execData m s
  | .prepass m => Sys2Proof.Machine.execPrepass m s
  | .bkreq m => Sys2Proof.Machine.execBkreq m s
  | .takeover m => Sys2Proof.Machine.execTakeover m s
  | .none m => Sys2Proof.Machine.execNone m s
  | .abort m => Sys2Proof.Machine.execAbort m s
  | .retreq m => Sys2Proof.Machine.execRetreq m s
  | .grantDeadline u receiver => Sys2Proof.Machine.execGrantDeadline u receiver s
  | .hopDeadline u hop => Sys2Proof.Machine.execHopDeadline u hop s
  | .bkwaitExpiry u hop => Sys2Proof.Machine.execBkwaitExpiry u hop s
  | .scheduleRead up => Sys2Proof.Machine.execScheduleRead up s
  | .schtailWrite v => Sys2Proof.Machine.execSchtailWrite v s
  | .activate slot sid => Sys2Proof.Machine.execActivate slot sid s
  | .spill slot => Sys2Proof.Machine.execSpill slot s
  | .ldone lanes => Sys2Proof.Machine.execLdone lanes s
  | .busMasterEnableSet ats pri alloc barLog2 => Sys2Proof.Machine.execBusMasterEnableSet ats pri alloc barLog2 s
  | .msixUnmask vec => Sys2Proof.Machine.execMsixUnmask vec s
  | .bar0Access write off size v => Sys2Proof.Machine.execBar0Access write off size v s
  | .bar2Read off len up => Sys2Proof.Machine.execBar2Read off len up s
  | .bar2Write off data poisoned up => Sys2Proof.Machine.execBar2Write off data poisoned up s
  | .pwrgdRise compat bootSel => Sys2Proof.Machine.execPwrgdRise compat bootSel s
  | .perstDeassert imageA imageB => Sys2Proof.Machine.execPerstDeassert imageA imageB s
  | .selftestEnd failStacks failPch failSpindles mcOk ms => Sys2Proof.Machine.execSelftestEnd failStacks failPch failSpindles mcOk ms s
  | .doorbell seq => Sys2Proof.Machine.execDoorbell seq s
  | .memtest fails corrected => Sys2Proof.Machine.execMemtest fails corrected s
  | .gemm elapsed mismatches => Sys2Proof.Machine.execGemm elapsed mismatches s
  | .linktest errs => Sys2Proof.Machine.execLinktest errs s
  | .mboxAbort done => Sys2Proof.Machine.execMboxAbort done s
  | .loadSealed who arg => Sys2Proof.Machine.execLoadSealed who arg s
  | .teardown who => Sys2Proof.Machine.execTeardown who s
  | .addRegion who idx => Sys2Proof.Machine.execAddRegion who idx s
  | .removeRegion who idx => Sys2Proof.Machine.execRemoveRegion who idx s
  | .advance who ctr => Sys2Proof.Machine.execAdvance who ctr s
  | .addPan who n => Sys2Proof.Machine.execAddPan who n s
  | .removePan who n => Sys2Proof.Machine.execRemovePan who n s
  | .tkeyWrite who k idx v => Sys2Proof.Machine.execTkeyWrite who k idx v s
  | .spdmRequest session req => Sys2Proof.Machine.execSpdmRequest session req s
  | .setTkey session slot fixed key => Sys2Proof.Machine.execSetTkey session slot fixed key s
  | .setFkey session slot fixed key => Sys2Proof.Machine.execSetFkey session slot fixed key s
  | .debugUnlock pubkey sigR sigS => Sys2Proof.Machine.execDebugUnlock pubkey sigR sigS s
  | .faultReport r => Sys2Proof.Machine.execFaultReport r s
  | .mergeWindowExpiry e => Sys2Proof.Machine.execMergeWindowExpiry e s
  | .fmfree e => Sys2Proof.Machine.execFmfree e s
  | .errheadWrite v => Sys2Proof.Machine.execErrheadWrite v s
  | .kick who => Sys2Proof.Machine.execKick who s
  | .fenceSpindle arg scope persist => Sys2Proof.Machine.execFenceSpindle arg scope persist s
  | .unfenceSpindle arg => Sys2Proof.Machine.execUnfenceSpindle arg s
  | .stageFw arg => Sys2Proof.Machine.execStageFw arg s
  | .weftPacketFailure link retries => Sys2Proof.Machine.execWeftPacketFailure link retries s
  | .dieTempSample temps => Sys2Proof.Machine.execDieTempSample temps s
  | .energyUpdate uj amps => Sys2Proof.Machine.execEnergyUpdate uj amps s
  | .monitorSample mv proc => Sys2Proof.Machine.execMonitorSample mv proc s
  | .queueEnable who e q => Sys2Proof.Machine.execQueueEnable who e q s
  | .msixEnableSet mask => Sys2Proof.Machine.execMsixEnableSet mask s
  | .repairCommandEnd ok => Sys2Proof.Machine.execRepairCommandEnd ok s
  | .linkTraining speed width => Sys2Proof.Machine.execLinkTraining speed width s
  | .d3hotTransition d3 => Sys2Proof.Machine.execD3hotTransition d3 s
  | .illegalInstruction iis w w2 => Sys2Proof.Machine.execIllegalInstruction iis w w2 s
  | .instructionFetchFault iis => Sys2Proof.Machine.execInstructionFetchFault iis s
  | .hotReset => Sys2Proof.Machine.execHotReset s
  | .busMasterEnableClear => Sys2Proof.Machine.execBusMasterEnableClear s
  | .pwrgdFall => Sys2Proof.Machine.execPwrgdFall s
  | .perstAssert => Sys2Proof.Machine.execPerstAssert s
  | .identify => Sys2Proof.Machine.execIdentify s
  | .mailboxCopy => Sys2Proof.Machine.execMailboxCopy s
  | .fill => Sys2Proof.Machine.execFill s
  | .check => Sys2Proof.Machine.execCheck s
  | .bootload => Sys2Proof.Machine.execBootload s
  | .commandEnd => Sys2Proof.Machine.execCommandEnd s
  | .watchdogExpiry => Sys2Proof.Machine.execWatchdogExpiry s
  | .clearlog => Sys2Proof.Machine.execClearlog s
  | .swapFallback => Sys2Proof.Machine.execSwapFallback s
  | .newFirmwareReady => Sys2Proof.Machine.execNewFirmwareReady s

end Sys2Proof.Machine
end

