-- ==== Sys2Proof/Safety.lean ====
section
/-! DEFINITION. What counts as a safe step: the block goes on; and what lets an instruction issue (R51, R57, R58, R86). -/

namespace Sys2Proof.Safety
open Sys2Proof.Machine

/-- The step of `s` ends in a next state: neither a fault nor a refusal. -/
def Goes (s : State) : Prop := ∃ t, step s = .next t

/-- The command `c` completes in `s`. -/
def Completes (c : Sys2Proof.Instr) (s : State) : Prop := ∃ t, exec c s = .next t

/-- The open group of the thread, if it has one, can take instruction `i` as its second (R57, R58). -/
def groupFits (x : Thread) (i : Insn) : Bool :=
  match x.group with
  | some g => fitsB g i
  | none => true

/-- Instruction `i` can issue: the clocks run, the thread is RUNNING (R51), its open group takes the instruction, the
instruction may stand in a transaction or there is none (R86), and no HALT waits for outstanding host accesses (R101). -/
def Issues (s : State) (is : Sys2Proof.Issue) (i : Insn) : Prop :=
  (s.thr is.thr).run = .running ∧ s.stopped = false ∧ groupFits (s.thr is.thr) i = true ∧
    ((s.thr is.thr).tx = none ∨ i.inTx = true) ∧ (s.thr is.thr).haltReq = false

end Sys2Proof.Safety
end

