-- ==== Sys2Proof/WellFormed.lean ====
section
/-! DEFINITION. Well-formed commands: what the rules say of an operand that the outside supplies. A command that fails a check is
one that cannot be sent; the meanings are total and answer it too. -/

namespace Sys2Proof

/-- `n` bytes from `a` lie in HBM (R2). -/
def inHbm (a n : Nat) : Bool := decide (a + n ≤ Config.hbmBytes)

/-- An error strikes a word of a pan or of the session table (R303), a codeword of 32 bytes of HBM (R340), one of the 512 entries
of a write-combining buffer, or one of the 524,288 range entries (R363). -/
def Upset.wf : Upset → Bool
  | .word a _ => decide (a % 8 = 0) &&
      (decide (Config.panBase ≤ a ∧ a < Config.panBase + 12 * Config.panBytes) ||
        decide (Config.sessBase ≤ a ∧ a < Config.sessBase + Config.sessBytes))
  | .codeword k _ => decide (k % 32 = 0) && inHbm k 32
  | .l1 _ _ _ _ _ => true
  | .wcb _ i => decide (i < 512)
  | .rtt i => decide (i < 524288)

/-- The flits of a message with `len` bytes of data (R441). -/
def flitsOf (len : Nat) : Nat := if len ≤ 212 then 1 else 1 + (len - 212 + 243) / 244

/-- LEN counts the data, at most 65,536 bytes, and each mark names one of the message's flits (R441, R446). -/
def Msg.wf (m : Msg) : Bool :=
  decide (m.len.toNat = m.data.length) && decide (m.data.length ≤ 65536) && m.marks.all (fun i => decide (i < flitsOf m.data.length))

/-- A GET names the bytes wanted in LEN and carries none (R442). -/
def Msg.wfGet (m : Msg) : Bool := m.data.isEmpty && decide (m.len.toNat ≤ 65536) && m.marks.all (fun i => decide (i = 0))

/-- A power-of-two number of 4 KiB pages, aligned to its size, as ATS gives translations and invalidations. -/
def pageSpan (va size : Nat) : Bool :=
  decide (4096 ≤ size) && decide (2 ^ Nat.log2 size = size) && decide (va % size = 0) && decide (va + size ≤ 2 ^ 64)

def Translation.wf (t : Translation) : Bool := pageSpan t.va t.size && decide (t.pa % 4096 = 0)

/-- An element of a tile in some shape: a row below 128, a column below 512 (R233). -/
def Mismatch.wf (m : Mismatch) : Bool := decide (m.row < 128 ∧ m.col < 512)

/-- A naturally aligned 4-byte or 8-byte place in control space (R2, R6). -/
def regPlace (off : Nat) (size8 : Bool) : Bool :=
  decide (off % (if size8 then 8 else 4) = 0) && decide (off + (if size8 then 8 else 4) ≤ Config.ctlBytes)

/-- Bytes of the longest image: the header and a body of up to 4 MiB (R550). -/
def imageMax : Nat := 0x400200

/-- The first word of a prefixed form (R88). -/
def prefixed (w : BitVec 32) : Bool := decide (w.toNat % 64 = 0x3F)

/-- The checks of one command. -/
def Instr.wf : Instr → Bool
  | .beatEdge => true
  | .guardInstant _ => true
  | .decisionInstant => true
  | .stretchReq _ _ _ _ => true
  | .beatMarker _ _ _ => true
  | .markerInterval => true
  | .holdover => true
  | .beatInEdge _ => true
  | .setRun => true
  | .clearRun => true
  | .sreq => true
  | .stagedWrite _ off size8 _ => regPlace off size8
  | .arm => true
  | .discard => true
  | .cancel => true
  | .registerWrite _ off size8 _ => regPlace off size8
  | .bdone _ => true
  | .aluOp _ _ _ _ _ _ => true
  | .mul _ _ _ _ _ _ => true
  | .div _ _ _ _ _ _ => true
  | .aluImmediate _ _ _ _ _ => true
  | .shiftImmediate _ _ _ _ _ _ => true
  | .lui _ _ _ => true
  | .auipc _ _ _ => true
  | .ld _ _ _ _ _ up => up.all Upset.wf
  | .st _ _ _ _ _ up => up.all Upset.wf
  | .atomic _ _ _ _ _ _ up => up.all Upset.wf
  | .branch _ _ _ _ _ => true
  | .jal _ _ _ => true
  | .jalr _ _ _ _ => true
  | .loop _ _ _ _ => true
  | .loopi _ _ _ _ _ => true
  | .fpOp _ _ _ _ _ _ _ => true
  | .fdivFsqrt _ _ _ _ _ _ _ => true
  | .fmadd _ _ _ _ _ _ _ _ => true
  | .fcvt _ _ _ _ _ => true
  | .crr _ _ _ => true
  | .crw _ _ _ _ => true
  | .crs _ _ _ _ => true
  | .crc _ _ _ _ => true
  | .swake _ _ _ => true
  | .csync _ => true
  | .isync _ => true
  | .tbegin _ _ _ => true
  | .tcommit _ => true
  | .tabort _ _ => true
  | .txTimeAbort _ => true
  | .gcall _ _ => true
  | .gret _ => true
  | .tret _ => true
  | .wfi _ => true
  | .brk _ _ => true
  | .fence _ _ => true
  | .icinvL _ _ _ => true
  | .icinvAll _ => true
  | .dcinvL _ _ _ => true
  | .dcinvAll _ => true
  | .pfD _ _ _ => true
  | .pfI _ _ _ => true
  | .lineFill _ _ line up => decide (line < 2 ^ 42) && up.all Upset.wf
  | .takeInterrupt _ => true
  | .takeBeatOverrun _ => true
  | .takeMatrixError _ => true
  | .timerInterrupt _ _ => true
  | .tdoor _ _ _ => true
  | .trouteWrite _ _ _ => true
  | .start _ => true
  | .halt _ => true
  | .vcfg _ _ _ _ _ _ _ => true
  | .vvOp _ _ _ _ _ _ _ => true
  | .vsOp _ _ _ _ _ _ _ => true
  | .vfOp _ _ _ _ _ _ _ => true
  | .vcmp _ _ _ _ _ _ _ _ => true
  | .maskOp _ _ _ _ _ => true
  | .mfromv _ _ _ => true
  | .mtov _ _ _ => true
  | .vcvt _ _ _ _ _ _ => true
  | .vsqrt _ _ _ _ _ => true
  | .vabs _ _ _ _ _ => true
  | .vneg _ _ _ _ _ => true
  | .vexp2 _ _ _ _ => true
  | .vlog2 _ _ _ _ => true
  | .vkey _ _ _ _ => true
  | .vmv _ _ _ _ _ => true
  | .vplyEncf8 _ _ _ _ _ _ => true
  | .vplyEnci4 _ _ _ _ _ _ => true
  | .vplyDecf8 _ _ _ _ _ _ => true
  | .vplyDeci4 _ _ _ _ _ _ => true
  | .vplyEncw16 _ _ _ _ => true
  | .vplyDecw16 _ _ _ _ => true
  | .vred _ _ _ _ _ _ => true
  | .mred _ _ _ _ => true
  | .vload _ _ _ _ _ _ _ up => up.all Upset.wf
  | .vstore _ _ _ _ _ _ _ up => up.all Upset.wf
  | .vchain _ _ _ up => up.all Upset.wf
  | .vbcast _ _ _ _ => true
  | .vmvx _ _ _ _ _ => true
  | .vcompress _ _ _ _ _ => true
  | .vperm _ _ _ _ _ => true
  | .vslidedn _ _ _ _ _ => true
  | .vslideup _ _ _ _ _ => true
  | .vscanAdd _ _ _ _ _ => true
  | .vrand _ _ _ _ _ => true
  | .vbucket _ _ _ _ _ => true
  | .mop _ _ _ _ _ _ _ _ _ => true
  | .mopAcc _ _ _ _ _ _ _ _ _ => true
  | .mopStart _ _ up mis => mis.all Mismatch.wf && up.all Upset.wf
  | .mopComplete _ _ => true
  | .mfill _ _ _ _ _ => true
  | .fillComplete _ => true
  | .mtake _ _ _ => true
  | .mrel _ _ => true
  | .frel _ _ => true
  | .mdrain _ _ _ => true
  | .drainStart _ _ up => up.all Upset.wf
  | .drainComplete _ _ => true
  | .mwait _ _ _ => true
  | .mstat _ _ _ => true
  | .panScrub _ up => up.all Upset.wf
  | .l1CtlWrite _ _ _ _ _ _ => true
  | .hbmWrite _ addr bs up => decide (bs ≠ []) && inHbm addr bs.length && up.all Upset.wf
  | .hbmRead _ addr len up => decide (0 < len) && inHbm addr len && up.all Upset.wf
  | .hbmAtomic _ addr _ dbl _ _ up => decide (addr % (if dbl then 8 else 4) = 0) && inHbm addr (if dbl then 8 else 4) && up.all Upset.wf
  | .wcbAgeFlush _ up => up.all Upset.wf
  | .flush _ up => up.all Upset.wf
  | .hbmScrub _ up => up.all Upset.wf
  | .retire _ _ _ _ _ _ => true
  | .retireDone _ => true
  | .spare _ _ => true
  | .spareDone _ => true
  | .pcfence _ _ => true
  | .stackTempSample _ bd dr => decide (bd.length = 4) && decide (dr.length = 16)
  | .resume _ => true
  | .marginStart _ _ => true
  | .marginDone _ _ _ => true
  | .atsTranslationCompletion _ ts up => ts.all Translation.wf && up.all Upset.wf
  | .atsInvalidationRequest _ va size _ _ => pageSpan va size
  | .invalidationCompletion _ => true
  | .translationStoreWrite _ _ bs => decide (bs ≠ [])
  | .flushall => true
  | .rttDisable => true
  | .batchWindowExpiry => true
  | .pageRequestGroupResponse _ _ => true
  | .priTimeout _ => true
  | .fqHeadWrite _ => true
  | .priFailedClear => true
  | .hostReadCompletion _ _ _ _ => true
  | .completionTimeout _ => true
  | .qtailWrite _ _ _ _ => true
  | .descriptorFetch _ _ up => up.all Upset.wf
  | .sluiceCopy _ _ up => up.all Upset.wf
  | .sluiceRunComplete _ _ => true
  | .sluiceNop _ _ => true
  | .sluiceLoop _ _ => true
  | .sluiceWait _ _ => true
  | .sluiceSignal _ _ => true
  | .qctlResume _ _ _ => true
  | .qctlRetry _ _ _ => true
  | .qctlAbort _ _ _ => true
  | .queueDisable _ _ _ => true
  | .put m => m.wf
  | .get m => m.wfGet
  | .getwaitExpiry _ => true
  | .getdata m => m.wf
  | .ack m => m.wf
  | .nack m => m.wf
  | .messageTimeout _ => true
  | .openChannel _ _ => true
  | .closeChannel _ _ => true
  | .query _ _ => true
  | .consume _ _ _ => true
  | .flitReceive _ flit _ _ => decide (flit.length = 256)
  | .replayTimeout _ => true
  | .portEnable _ => true
  | .portDisable _ => true
  | .retrain _ => true
  | .test _ _ => true
  | .trainingComplete _ _ _ _ => true
  | .trainfail _ => true
  | .signalLoss _ => true
  | .reelGo _ _ => true
  | .reelAbort _ _ => true
  | .grant m => m.wf
  | .data m => m.wf
  | .prepass m => m.wf
  | .bkreq m => m.wf
  | .takeover m => m.wf
  | .none m => m.wf
  | .abort m => m.wf
  | .retreq m => m.wf
  | .grantDeadline _ _ => true
  | .hopDeadline _ _ => true
  | .bkwaitExpiry _ _ => true
  | .scheduleRead up => up.all Upset.wf
  | .schtailWrite _ => true
  | .activate _ _ => true
  | .spill _ => true
  | .ldone _ => true
  | .hotReset => true
  | .busMasterEnableClear => true
  | .busMasterEnableSet _ _ _ barLog2 => decide (28 ≤ barLog2 ∧ barLog2 ≤ 41)
  | .msixUnmask _ => true
  | .bar0Access _ _ size _ => decide (0 < size)
  | .bar2Read _ len up => decide (0 < len) && up.all Upset.wf
  | .bar2Write _ bs _ up => decide (bs ≠ []) && up.all Upset.wf
  | .pwrgdRise _ _ => true
  | .pwrgdFall => true
  | .perstAssert => true
  | .perstDeassert imageA imageB => decide (imageA.length ≤ imageMax) && decide (imageB.length ≤ imageMax)
  | .selftestEnd _ _ _ _ _ => true
  | .doorbell _ => true
  | .identify => true
  | .memtest fails _ => fails.all (fun a => decide (a % 32 = 0) && inHbm a 32)
  | .mailboxCopy => true
  | .fill => true
  | .check => true
  | .gemm _ _ => true
  | .linktest errs => decide (errs.length = 16)
  | .bootload => true
  | .commandEnd => true
  | .mboxAbort _ => true
  | .loadSealed _ _ => true
  | .teardown _ => true
  | .addRegion _ _ => true
  | .removeRegion _ _ => true
  | .advance _ _ => true
  | .addPan _ _ => true
  | .removePan _ _ => true
  | .tkeyWrite _ _ _ _ => true
  | .spdmRequest _ _ => true
  | .setTkey _ _ _ _ => true
  | .setFkey _ _ _ _ => true
  | .debugUnlock _ _ _ => true
  | .faultReport r => decide (1 ≤ r.kind.toNat ∧ r.kind.toNat ≤ 13) && decide (r.code.toNat ≠ 0)
  | .mergeWindowExpiry _ => true
  | .fmfree _ => true
  | .errheadWrite _ => true
  | .watchdogExpiry => true
  | .kick _ => true
  | .fenceSpindle _ _ _ => true
  | .unfenceSpindle _ => true
  | .stageFw _ => true
  | .clearlog => true
  | .swapFallback => true
  | .weftPacketFailure _ _ => true
  | .dieTempSample temps => decide (temps.length = 160)
  | .energyUpdate uj amps => decide (uj.length = 12) && decide (amps.length = 4)
  | .monitorSample mv proc => decide (mv.length = 96) && decide (proc.length = 48)
  | .queueEnable _ _ _ => true
  | .msixEnableSet _ => true
  | .repairCommandEnd _ => true
  | .newFirmwareReady => true
  | .linkTraining speed width => decide (1 ≤ speed.toNat ∧ speed.toNat ≤ 6) && width.toNat ∈ [1, 2, 4, 8, 16]
  | .d3hotTransition _ => true
  | .illegalInstruction is w w2 => decide (w2.isSome = prefixed w) && (decodeInsn is w w2).isNone
  | .instructionFetchFault _ => true

end Sys2Proof
end

