-- ==== Sys2Proof/Certificates/Slice0/Obligations.lean ====
section
/-! DEFINITION. The statements for the provers, each from the numbered rules of the spec. The namespace `Claims` holds what they
are said with: the results that the rules give, written out beside the model's own. -/

namespace Sys2Proof.Claims
open Sys2Proof Sys2Proof.Machine Sys2Proof.Safety

/-- `s` with register `rd` of thread `t` holding `v`; g0 discards it (R60). -/
def writeG (s : State) (t : Thr) (rd : Reg6) (v : Word) : State := s.setThr t ((s.thr t).wg rd v)

/-- Bits of `b` as a word. -/
def bitWord (b : Bool) : Word := if b then 1 else 0

/-- A 32-bit result, sign-extended (R92). -/
def sx32 (v : BitVec 32) : Word := v.signExtend 64

/-- Memory reads in `u` as in `v`: the bytes at home, the write buffers over them, the latent errors and the Deferred marks. -/
def SameMem (u v : State) : Prop :=
  u.mem = v.mem ∧ u.marks = v.marks ∧ u.errs = v.errs ∧ ∀ k, (u.stack k).wcb = (v.stack k).wcb

/-! ### Integer instructions (R91–R93) -/

/-- The results of the OP group's one-cycle operations on a and b (R91); the 32-bit forms work on the low halves (R92). -/
def aluWord (op : AluOp) (w : Bool) (a b : Word) : Word :=
  let a32 := a.setWidth 32
  let b32 := b.setWidth 32
  match op with
  | .add => if w then sx32 (a32 + b32) else a + b
  | .sub => if w then sx32 (a32 - b32) else a - b
  | .and => a &&& b
  | .or => a ||| b
  | .xor => a ^^^ b
  | .andn => a &&& ~~~b
  | .sll => if w then sx32 (a32 <<< (b.toNat % 32)) else a <<< (b.toNat % 64)
  | .srl => if w then sx32 (a32 >>> (b.toNat % 32)) else a >>> (b.toNat % 64)
  | .sra => if w then sx32 (a32.sshiftRight (b.toNat % 32)) else a.sshiftRight (b.toNat % 64)
  | .rol => if w then sx32 (a32.rotateLeft (b.toNat % 32)) else a.rotateLeft (b.toNat % 64)
  | .ror => if w then sx32 (a32.rotateRight (b.toNat % 32)) else a.rotateRight (b.toNat % 64)
  | .slt => bitWord (a.slt b)
  | .sltu => bitWord (a.ult b)
  | .min => if b.slt a then b else a
  | .max => if a.slt b then b else a
  | .minu => if b.ult a then b else a
  | .maxu => if a.ult b then b else a
  | .clz => BitVec.ofNat 64 (((List.range 64).find? (fun i => a.getLsbD (63 - i))).getD 64)
  | .ctz => BitVec.ofNat 64 (((List.range 64).find? (fun i => a.getLsbD i)).getD 64)
  | .popc => BitVec.ofNat 64 ((List.range 64).countP (fun i => a.getLsbD i))
  | .rev8 => (List.range 8).foldl (fun r i => r ||| (((a >>> (8 * i)) &&& 0xFF) <<< (56 - 8 * i))) 0

/-- Signed overflow of an operation (R93): only add and sub have it. -/
def aluOverflows (op : AluOp) (w : Bool) (a b : Word) : Bool :=
  match op with
  | .add => if w then (a.setWidth 32).saddOverflow (b.setWidth 32) else a.saddOverflow b
  | .sub => if w then (a.setWidth 32).ssubOverflow (b.setWidth 32) else a.ssubOverflow b
  | _ => false

/-- The trap after completion that an event takes when its bit of CR.TCR (number 0x020) enables it; TVAL is the PC (R93, R111). -/
def eventTrap (x : Thread) (cause bitNo : Nat) (b : Bool) : Option (Nat × Word) :=
  if b && (x.bcr x.world 0x020).getLsbD bitNo then some (cause, x.pc.setWidth 64) else none

/-- The four products (R91). -/
def mulWord (op : MulOp) (w : Bool) (a b : Word) : Word :=
  match op with
  | .mul => if w then sx32 (a.setWidth 32 * b.setWidth 32) else a * b
  | .mulh => ((a.signExtend 128 * b.signExtend 128) >>> 64).setWidth 64
  | .mulhu => ((a.setWidth 128 * b.setWidth 128) >>> 64).setWidth 64
  | .mulhsu => ((a.signExtend 128 * b.setWidth 128) >>> 64).setWidth 64

def mulOverflows (op : MulOp) (w : Bool) (a b : Word) : Bool :=
  match op with
  | .mul => if w then (a.setWidth 32).smulOverflow (b.setWidth 32) else a.smulOverflow b
  | .mulh | .mulhu | .mulhsu => false

/-- Quotient and remainder with the results of R93 for a divisor of zero and for the most negative value divided by −1. -/
def divWord (op : DivOp) (w : Bool) (a b : Word) : Word :=
  let a32 := a.setWidth 32
  let b32 := b.setWidth 32
  match op with
  | .div => if w then (if b32 = 0 then BitVec.allOnes 64 else sx32 (a32.sdiv b32)) else (if b = 0 then BitVec.allOnes 64 else a.sdiv b)
  | .divu => if w then (if b32 = 0 then BitVec.allOnes 64 else sx32 (a32 / b32)) else (if b = 0 then BitVec.allOnes 64 else a / b)
  | .rem => if w then (if b32 = 0 then sx32 a32 else sx32 (a32.srem b32)) else (if b = 0 then a else a.srem b)
  | .remu => if w then (if b32 = 0 then sx32 a32 else sx32 (a32 % b32)) else (if b = 0 then a else a % b)

def divByZero (w : Bool) (b : Word) : Bool := if w then decide (b.setWidth 32 = 0) else decide (b = 0)

def divOverflows (op : DivOp) (w : Bool) (a b : Word) : Bool :=
  match op with
  | .div | .rem =>
    if w then decide (a.setWidth 32 = BitVec.intMin 32 ∧ b.setWidth 32 = BitVec.allOnes 32)
    else decide (a = BitVec.intMin 64 ∧ b = BitVec.allOnes 64)
  | .divu | .remu => false

def divTrap (x : Thread) (op : DivOp) (w : Bool) (a b : Word) : Option (Nat × Word) :=
  match eventTrap x Cause.OVERFLOW 0 (divOverflows op w a b) with
  | some e => some e
  | none => eventTrap x Cause.DIVZERO 1 (divByZero w b)

/-! Immediate forms (R89, R90). -/

/-- The immediate extended to 64 bits: 14 bits, or 40 with the EXT word. -/
def immS : Imm14 → Word
  | .short v => v.signExtend 64
  | .long e v => (e ++ v).signExtend 64
def immZ : Imm14 → Word
  | .short v => v.setWidth 64
  | .long e v => (e ++ v).setWidth 64

def immWordOf (op : ImmOp) (a : Word) (i : Imm14) : Word :=
  match op with
  | .addi => a + immS i
  | .andi => a &&& immZ i
  | .ori => a ||| immZ i
  | .xori => a ^^^ immZ i
  | .slti => bitWord (a.slt (immS i))
  | .sltiu => bitWord (a.ult (immS i))

def immOverflows (op : ImmOp) (a : Word) (i : Imm14) : Bool :=
  match op with
  | .addi => a.saddOverflow (immS i)
  | .andi | .ori | .xori | .slti | .sltiu => false

/-- The upper immediate: IMM20 sign-extended and shifted left by 14, or the 46-bit one shifted by 18 (R89, R90). -/
def upperWord : Imm20 → Word
  | .short v => v.signExtend 64 <<< 14
  | .long e v => (e ++ v).setWidth 64 <<< 18

def shiftImmInsn (op : ShiftOp) (w : Bool) (rd ra : Reg6) (amt : BitVec 6) : Insn :=
  { word := word1 (fmtI (amt.toNat + op.kind * 64 + boolNat w * 512) ra.toNat rd.toNat 9), cls := .int, reads := [ra.toNat],
    writes := [rd.toNat], inTx := true }

/-! Branches, jumps and loops (R70–R73). -/

def branchInsn (c : BrCond) (ra rb : Reg6) (off : Imm14) : Insn :=
  { word := immWord off rb.toNat ra.toNat c.major, len := off.len, cls := .br, reads := [ra.toNat, rb.toNat], inTx := true }
def jalInsn (rd : Reg6) (off : Imm20) : Insn :=
  { word := immWordJ off rd.toNat 0x1E, len := off.len, cls := .br, writes := [rd.toNat], inTx := true }
def jalrInsn (rd ra : Reg6) (imm : Imm14) : Insn :=
  { word := immWord imm ra.toNat rd.toNat 0x1F, len := imm.len, cls := .br, reads := [ra.toNat], writes := [rd.toNat], inTx := true }

/-- The condition of a branch (R89). -/
def taken (c : BrCond) (a b : Word) : Bool :=
  match c with
  | .eq => a == b
  | .ne => a != b
  | .lt => a.slt b
  | .ge => b.sle a
  | .ltu => a.ult b
  | .geu => b.ule a

/-- PC + 4·offset as a 64-bit address (R64, R73). -/
def jumpTarget (x : Thread) (off : Int) : Word := BitVec.ofInt 64 (x.pc.toNat + 4 * off)

def loopInsn (lvl : Fin 2) (ra : Reg6) (body : BitVec 14) : Insn :=
  { word := word1 (body.toNat * 2 ^ 18 + lvl.val * 2 ^ 12 + ra.toNat * 2 ^ 6 + 0x20), cls := .solo, reads := [ra.toNat] }
def loopiInsn (lvl : Fin 2) (body : BitVec 13) (count : BitVec 12) (e : Option (BitVec 20)) : Insn :=
  let base := body.toNat * 2 ^ 19 + lvl.val * 2 ^ 18 + count.toNat * 2 ^ 6 + 0x21
  match e with
  | none => { word := word1 base, cls := .solo }
  | some e => { word := word2 e.toNat base, len := 8, cls := .solo }

/-- The loop registers of level `lvl` after loop or loopi: LS the address after it, LE that of the last instruction, LC the count. -/
def loopSet (x : Thread) (lvl : Fin 2) (start last : Addr) (count : Nat) : Thread :=
  ((x.setUcr (0x011 + 3 * lvl.val) (start.setWidth 64)).setUcr (0x012 + 3 * lvl.val) (last.setWidth 64)).setUcr (0x010 + 3 * lvl.val)
    (BitVec.ofNat 64 count)

/-- A loop instruction may stand here and take this body (R72): it ends no active loop, and a level-1 body ends no later than an
active level-0 body. -/
def loopAllowed (x : Thread) (lvl : Fin 2) (last : Addr) : Prop :=
  atEnd x 0 x.pc = false ∧ atEnd x 1 x.pc = false ∧ ¬(lvl.val = 1 ∧ lcOf x 0 ≠ 0 ∧ (leOf x 0).toNat < last.toNat)

/-! ### Floating point (R61, R94, R163, R176, R177) -/

/-- `rd` takes a result, and FFLAGS of the thread's world (CR.FCSR, number 0x030, bits [4:0]) gain its flags (R177). -/
def writeFp (s : State) (t : Thr) (rd : Reg6) (v : Word) (fl : Flags) : State :=
  let x := s.thr t
  s.setThr t ((x.setBcr x.world 0x030 (x.bcr x.world 0x030 ||| fl.setWidth 64)).wg rd v)

def fmaInsn (op : FmaOp) (dbl : Bool) (rd ra rb rc : Reg6) (rm : Option (BitVec 3)) : Insn :=
  let w := fmtR4 op.op rc.toNat rb.toNat ra.toNat rd.toNat (if dbl then 0x23 else 0x24)
  { word := match rm with | none => word1 w | some r => word2 r.toNat w, len := if rm.isSome then 8 else 4, cls := .fpu,
    reads := [ra.toNat, rb.toNat, rc.toNat], writes := [rd.toNat], inTx := true }
def fcvtInsn (c : CvtCode) (rm : BitVec 3) (rd ra : Reg6) : Insn :=
  { word := word1 (fmtR (c.val + rm.toNat * 32) 0 ra.toNat rd.toNat 0x25), cls := .fpu, reads := [ra.toNat], writes := [rd.toNat],
    inTx := true }

/-- Exponent and fraction bits of FP64 and FP32. -/
def expBits (dbl : Bool) : Nat := if dbl then 11 else 8
def fracBits (dbl : Bool) : Nat := if dbl then 52 else 23
def nanBits (dbl : Bool) (a : Nat) : Bool :=
  decide (a / 2 ^ fracBits dbl % 2 ^ expBits dbl = 2 ^ expBits dbl - 1 ∧ a % 2 ^ fracBits dbl ≠ 0)
/-- The quiet bit is the highest fraction bit. -/
def quietBits (dbl : Bool) (a : Nat) : Nat := if a.testBit (fracBits dbl - 1) then a else a + 2 ^ (fracBits dbl - 1)
def signalling (dbl : Bool) (a : Nat) : Bool := nanBits dbl a && !a.testBit (fracBits dbl - 1)
/-- The first NaN operand, quieted, and NV (flag bit 0) if any operand is signalling (R163). -/
def nanAnswer (dbl : Bool) (ops : List Nat) : FRes :=
  { bits := quietBits dbl ((ops.find? (nanBits dbl)).getD 0), fl := if ops.any (signalling dbl) then 1 else 0 }

/-! ### System instructions -/

/-- A register whose writes are held pending (R76, R143). -/
def pendingReg (n : Nat) : Bool := n ∈ [0x100, 0x101, 0x104, 0x108, 0x109, 0x10A, 0x10B, 0x10C, 0x10D, 0x10E, 0x10F, 0x180]

/-- The thread's trap can be recorded: it has no transaction, its world is not in a handler, and its block can be written (R115,
R117); the pending writes of its own apply first (R76). -/
def CanTrap (s : State) (t : Thr) : Prop :=
  let y := applyPending (s.thr t)
  (s.thr t).tx = none ∧ (s.thr t).group = none ∧ y.inh y.world = false ∧ blockOk s y.world (tsbAddr y y.world) 512 = true

/-- Thread `t` stands at the entry for `cause` of world `w`: at supervisor level, running, with IE clear and INH set in that
world's status (bits 0 and 1 of number 0x101), at 32 × cause in the world's handlers (R115, R118). -/
def AtHandler (s : State) (t : Thr) (w : Bool) (cause : Nat) : Prop :=
  (s.thr t).pc = BitVec.ofNat 48 ((if w then 0xF18000100000 else 0xF18000000000) + 32 * cause) ∧
    (s.thr t).world = w ∧ (s.thr t).level = true ∧ (s.thr t).run = .running ∧
    ((s.thr t).bcr w 0x101).getLsbD 0 = false ∧ ((s.thr t).bcr w 0x101).getLsbD 1 = true

def illegalWord (w : BitVec 32) (w2 : Option (BitVec 32)) : Insn :=
  { word := match w2 with | some b => BitVec.ofNat 64 (w.toNat + b.toNat * 2 ^ 32) | none => BitVec.ofNat 64 w.toNat, cls := .solo,
    inTx := true }

def tbeginInsn (rd : Reg6) (off : Imm20) : Insn :=
  { word := immWordJ off rd.toNat 0x28, len := off.len, cls := .solo, writes := [rd.toNat], inTx := true }

/-- The status of an abort (R84): CAUSE, CODE, RETRY and the sizes of the write and read sets. -/
def abortWord (tx : Tx) (cause code : Nat) (retry : Bool) : Word :=
  BitVec.ofNat 64 (cause + code * 2 ^ 8 + (if retry then 2 ^ 16 else 0) + tx.wset.length % 32 * 2 ^ 17 + tx.rset.length % 128 * 2 ^ 22)

/-! ### Loads, stores and atomics (R65, R95) -/

def ldInsn (k : LdKind) (rd ra : Reg6) (imm : Imm14) : Insn :=
  { word := immWord imm ra.toNat rd.toNat k.major, len := imm.len, cls := .mem, reads := [ra.toNat], writes := [rd.toNat], inTx := true }
def stInsn (k : StKind) (rs ra : Reg6) (imm : Imm14) : Insn :=
  { word := immWord imm ra.toNat rs.toNat k.major, len := imm.len, cls := .mem, reads := [ra.toNat, rs.toNat], inTx := true }
def atomInsn (op : AtomOp) (dbl : Bool) (rd ra rb : Reg6) : Insn :=
  { word := word1 (fmtR (op.func + 16 * boolNat dbl) rb.toNat ra.toNat rd.toNat 0x17), cls := .mem,
    reads := [ra.toNat, rb.toNat] ++ (if op = .cas then [rd.toNat] else []), writes := [rd.toNat] }

/-- A loaded value: the bytes, least significant first (R9), extended by the load's sign (R65). -/
def loadWord (k : LdKind) (bs : List Byte) : Word :=
  let v : Word := BitVec.ofNat 64 (ofLe bs)
  match k with
  | .b => (v.setWidth 8).signExtend 64
  | .h => (v.setWidth 16).signExtend 64
  | .w => (v.setWidth 32).signExtend 64
  | .d | .bu | .hu | .wu => v

/-- A device address whose bytes an L1 caches or that lies in a handler window, outside control space (R2, R307). -/
def memoryAddr (a : Nat) : Prop :=
  isSva a = false ∧ (windowOf a = .hbm ∨ (∃ n, windowOf a = .pan n) ∨ windowOf a = .openHandler ∨ windowOf a = .sealedHandler)

/-! ### Gates and returns (R121, R136–R142) -/

/-- The descriptor that governs a gcall of gate `n` is `g`, in the table of world `tw`, when reading it leaves `s1` (R139): a valid
gate of the caller's own table that it may use, or, for a valid forwarding gate, the Sealed gate that it names. -/
def Governs (s : State) (t : Thr) (n : Nat) (s1 : State) (g : Gate) (tw : Bool) : Prop :=
  let x := s.thr t
  n < gateCount x x.world ∧
    ((readGate s t x.world n = (s1, some g) ∧ g.valid = true ∧ (x.level = true ∨ g.userok = true) ∧ g.fwd = false ∧ tw = x.world) ∨
      (∃ s0 f, readGate s t x.world n = (s0, some f) ∧ f.valid = true ∧ (x.level = true ∨ f.userok = true) ∧ f.fwd = true ∧
        x.world = false ∧ f.fwdgate < gateCount x true ∧ readGate s0 t true f.fwdgate = (s1, some g) ∧ g.valid = true ∧
        g.openok = true ∧ x.suspended = none ∧ tw = true))

/-- The governing gate opens to the caller (R138, R139): its level is not below the caller's in one world, it is well formed, it
keeps the caller's stack only within one world and level, and no argument fails. -/
def GateOpens (s1 : State) (x : Thread) (g : Gate) (tw : Bool) : Prop :=
  ¬(tw = x.world ∧ x.level = true ∧ g.tlevel = false) ∧ g.malformed tw = false ∧
    (g.stackmode = 0 → tw = x.world ∧ g.tlevel = x.level) ∧ ∀ i, i < g.nargs → argFails s1 x g i = none

/-- The frame's address (R140): 32 below the caller's g63 where the target state is the caller's, else below the target world's stack
pointer of the gate's level, or the gate's STACK. -/
def frameAt (x : Thread) (g : Gate) (tw : Bool) : Word :=
  (if tw = x.world ∧ g.tlevel = x.level then x.rg 63 else if g.stackmode = 1 then x.bcr tw (if g.tlevel then 0x105 else 0x106) else g.stack) - 32

/-- A frame that gret accepts (R142): a PC below 2^48, zero reserved bits, and a context that does not rank above the thread's. -/
def FrameReturns (x : Thread) (bs : List Byte) : Prop :=
  wordAt bs 0 &&& 0xFFFF000000000000 = 0 ∧ wordAt bs 16 &&& 0xFFFFFFFFFFFF00FC = 0 ∧ wordAt bs 24 = 0 ∧
    ((x.world = true ∧ (wordAt bs 16).getLsbD 1 = false) ∨
      ((wordAt bs 16).getLsbD 1 = x.world ∧ (x.level = true ∨ (wordAt bs 16).getLsbD 0 = false)))

/-! ### Caches and events -/

/-- Every line of the cache that was in an unlocked way and that `keep` does not name has gone, every other line stands, and an
outstanding fill of a line that `keep` does not name will not be allocated (R69, R311, R313). -/
def Invalidated (s s1 : State) (n : SpindleId) (d : Bool) (keep : Nat → Bool) : Prop :=
  (∀ k, SMap.get none (s1.cache n d).lines k =
      match SMap.get none (s.cache n d).lines k with
      | some l => if locked s n d ⟨k % 4, Nat.mod_lt _ (by decide)⟩ = false ∧ keep (l.tag * 256 + k / 4) = false then none else some l
      | none => none) ∧
    (s1.cache n d).fills = (s.cache n d).fills.map (fun f => if keep f.line then f else { f with drop := true })

/-- World `w` can take an event of the thread now (R115, R134): its block can be written, and if the thread leaves the Sealed
world, so can the Sealed block and the enabled save area (R123). -/
def EntersFrom (s : State) (t : Thr) (w : Bool) : Prop :=
  let y := applyPending (s.thr t)
  (s.thr t).group = none ∧ blockOk s w (tsbAddr y w) 512 = true ∧
    (y.world = true → w = false →
      blockOk s true (tsbAddr y true) 512 = true ∧ (svsaEn y = true → blockOk s true (svsaAddr y) 135168 = true))

/-- The command is carried out: its own effect leaves a state with `P`, and what that state has set in motion follows (`settle`). -/
def Leaves (c : Instr) (s : State) (P : State → Prop) : Prop := ∃ u, exec c s = .next (settle u) ∧ P u

/-! ### The vector unit (R188–R229) -/

/-- An interruptible vector instruction of form `f` runs: no VEC_CONFIG condition holds (R193), no matrix work of the thread still
has its registers (R197), and it is stopped at no group boundary, or no cause to stop it has come (R221). -/
def VecRuns (s : State) (vi : VIssue) (f : VForm) : Prop :=
  vecReason (vcfgOf (s.thr vi.is.thr)) f = none ∧ vecHeld s vi.is.thr (vcfgOf (s.thr vi.is.thr)) f = false ∧
    (vi.stop = none ∨ stopCause s vi.is.thr = false)

/-- A whole-vector instruction runs. -/
def WholeRuns (s : State) (t : Thr) (f : VForm) : Prop :=
  vecReason (vcfgOf (s.thr t)) f = none ∧ vecHeld s t (vcfgOf (s.thr t)) f = false

/-- The groups from VRES on, or from 0, each of which `grp` completes and SPINDLE.VGROUPS counts; then the tails of the destinations
(R192, R222). None if a group faults or waits. -/
def groupsFrom (t : Thr) (grp : Nat → State → GroupRes) : Nat → Nat → State → Option State
  | 0, _, s => some s
  | n + 1, k, s => match grp k s with
    | .ok z => groupsFrom t grp n (k + 1) (countGroups z t 1)
    | .trap _ _ | .wait _ => none

def allGroups (s : State) (t : Thr) (f : VForm) (grp : VCfg → Nat → State → GroupRes) : Option State :=
  let c := vcfgOf (s.thr t)
  let st := startGroup (s.thr t)
  (groupsFrom t (grp c) (groupCount c f.wmax - st) st s).map (fun z =>
    z.updThr t (fun y => f.dsts.foldl (fun y d => if d.one then y else zeroTail y c d (d.span c f.wmax)) y))

/-- A form with one destination and sources of given widths. -/
def formOf (vd : VReg) (dw : Nat) (srcs : List (VReg × Nat)) (strict : Bool := false) : VForm :=
  { wmax := (srcs.map (·.2)).foldl max dw, dsts := [{ base := vd.toNat, w := dw }],
    srcs := srcs.map (fun e => { base := e.1.toNat, w := e.2 }), strict := strict }

def ewOf (vd : VReg) (dw : Nat) (srcs : List (VReg × Nat)) (mg : BitVec 3) (fn : List Nat → FRes) : EwOp :=
  { form := formOf vd dw srcs, dst := { base := vd.toNat, w := dw }, mg := mg, fn := fun _ l => fn l }

/-- A one-source instruction of VUN (R229). -/
def unCase (vi : VIssue) (f : Nat) (mg : BitVec 3) (dty sty : BitVec 4) (vd va : VReg) (fn : Nat → FRes) : VIssue × Insn × EwOp :=
  (vi, vecInsn (vun f mg dty.toNat sty.toNat vd va) [] [] true,
    ewOf vd (elemTy dty.toNat).width [(va, (elemTy sty.toNat).width)] mg (fun l => fn (l.getD 0 0)))

/-- The element-wise instructions with an allowed encoding (R198–R202, R225, R227–R229): what issues, its operands with their
element widths, and an element's result. -/
def ewCase (s : State) : Instr → Option (VIssue × Insn × EwOp)
  | .vvOp vi f mg ty3 vd va vb =>
    let ty := ty3Of ty3.toNat
    if vvOk ty f.toNat then some (vi,
      vecInsn (f.toNat * 2 ^ 28 + mg.toNat * 2 ^ 25 + ty3.toNat * 2 ^ 22 + vb.toNat * 2 ^ 16 + va.toNat * 2 ^ 11 + vd.toNat * 2 ^ 6 + 0x30) [] [] true,
      ewOf vd ty.width [(va, ty.width), (vb, ty.width)] mg (fun l => vvFn ty (dynRm (s.thr vi.is.thr)) f.toNat (l.getD 0 0) (l.getD 1 0)))
    else none
  | .vsOp vi f mg ty3 vd va gb =>
    let ty := ty3Of ty3.toNat
    if vvOk ty f.toNat then some (vi,
      vecInsn (f.toNat * 2 ^ 28 + mg.toNat * 2 ^ 25 + ty3.toNat * 2 ^ 22 + gb.toNat * 2 ^ 16 + va.toNat * 2 ^ 11 + vd.toNat * 2 ^ 6 + 0x31)
        [gb.toNat] [] true,
      ewOf vd ty.width [(va, ty.width)] mg
        (fun l => vvFn ty (dynRm (s.thr vi.is.thr)) f.toNat (l.getD 0 0) (((s.thr vi.is.thr).rg gb).toNat % 2 ^ ty.width)))
    else none
  | .vfOp vi op mg vd va vb vc =>
    let w := (vfFmt op.toNat).1.width
    let sw := match (vfFmt op.toNat).2 with | some f => 2 * f.width | none => w
    some (vi, vecInsn (op.toNat * 2 ^ 29 + mg.toNat * 2 ^ 26 + vc.toNat * 2 ^ 21 + vb.toNat * 2 ^ 16 + va.toNat * 2 ^ 11 + vd.toNat * 2 ^ 6 + 0x32)
        [] [] true,
      ewOf vd w [(va, sw), (vb, sw), (vc, w)] mg (fun l => vfFn op.toNat (dynRm (s.thr vi.is.thr)) l))
  | .vcvt vi mg dty sty vd va =>
    some (unCase vi 0 mg dty sty vd va
      (convert (elemTy sty.toNat) (elemTy dty.toNat) (dynRm (s.thr vi.is.thr)) (satOn s (s.thr vi.is.thr))))
  | .vsqrt vi mg ty vd va =>
    match elemTy ty.toNat with
    | .float f => if ty.toNat < 4 then some (unCase vi 1 mg ty ty vd va (fSqrt f (dynRm (s.thr vi.is.thr)))) else none
    | .int _ _ => none
  | .vabs vi mg ty vd va => if isFp8 ty then none else some (unCase vi 2 mg ty ty vd va (absFn (elemTy ty.toNat)))
  | .vneg vi mg ty vd va => if isFp8 ty then none else some (unCase vi 3 mg ty ty vd va (negFn (elemTy ty.toNat)))
  | .vexp2 vi mg vd va => some (unCase vi 4 mg 1 1 vd va fExp2)
  | .vlog2 vi mg vd va => some (unCase vi 5 mg 1 1 vd va fLog2)
  | .vkey vi mg vd va => some (unCase vi 6 mg 11 1 vd va (fun a => { bits := floatKey a }))
  | .vbcast vi ty gb vd =>
    let w := (elemTy ty.toNat).width
    some (vi, vecInsn (vspec 1 (ty.toNat * 2 ^ 22 + gb.toNat * 2 ^ 16 + vd.toNat * 2 ^ 6)) [gb.toNat] [] true,
      ewOf vd w [] 0 (fun _ => { bits := ((s.thr vi.is.thr).rg gb).toNat % 2 ^ w }))
  | .vmv vi mg ty vd va => some (unCase vi 7 mg ty ty vd va (fun a => { bits := a }))
  | .vrand vi f32 ga gb vd =>
    let c := ((s.thr vi.is.thr).rg gb).toNat * 2 ^ 64 + ((s.thr vi.is.thr).rg ga).toNat
    some (vi, vecInsn (vspec 10 (boolNat f32 * 2 ^ 23 + gb.toNat * 2 ^ 17 + ga.toNat * 2 ^ 11 + vd.toNat * 2 ^ 6)) [ga.toNat, gb.toNat] [] true,
      { form := formOf vd 32 [], dst := { base := vd.toNat, w := 32 }, mg := 0, fn := fun i _ => vrandFn f32 c i })
  | .vplyEncw16 vi vd va gb =>
    some (vi, vecInsn (vspec 8 (gb.toNat * 2 ^ 16 + va.toNat * 2 ^ 11 + vd.toNat * 2 ^ 6)) [gb.toNat] [] true,
      { form := { formOf vd 16 [(va, 32)] true with plyLen := decide ((vcfgOf (s.thr vi.is.thr)).vl % 32 ≠ 0) },
        dst := { base := vd.toNat, w := 16 }, mg := 0, fn := fun _ l => encW16 (w16Scale (s.thr vi.is.thr) gb) (l.getD 0 0) })
  | .vplyDecw16 vi vd va gb =>
    some (vi, vecInsn (vspec 9 (gb.toNat * 2 ^ 16 + va.toNat * 2 ^ 11 + vd.toNat * 2 ^ 6)) [gb.toNat] [] true,
      { form := { formOf vd 32 [(va, 16)] true with plyLen := decide ((vcfgOf (s.thr vi.is.thr)).vl % 32 ≠ 0) },
        dst := { base := vd.toNat, w := 32 }, mg := 0, fn := fun _ l => decW16 (w16Scale (s.thr vi.is.thr) gb) (l.getD 0 0) })
  | _ => none

/-- Element `i` of the group of `span` registers at `base`, in elements of `w` bits (R188). -/
def vecElem (x : Thread) (base span w i : Nat) : Nat := spanBits x base span / 2 ^ (w * i) % 2 ^ w

/-- Elements, masked-off elements and tail of a destination of a whole-vector instruction (R192): `vals i` is the value of element
`i` below VL where it is active. -/
def WritesElements (x y : Thread) (c : VCfg) (mg : BitVec 3) (base span w : Nat) (vals : Nat → Nat) : Prop :=
  ∀ i, i < span * 32768 / w → vecElem y base span w i =
    if i < c.vl then (if active x c mg i then vals i % 2 ^ w else if c.mpol then 0 else vecElem x base span w i)
    else if c.tpol then 0 else vecElem x base span w i

/-- Only the named vector registers of the thread may differ. -/
def OnlyVRegs (x y : Thread) (base span : Nat) : Prop :=
  (∀ r : Fin 32, ¬(base ≤ r.val ∧ r.val < base + span) → y.v[r] = x.v[r]) ∧ y.g = x.g ∧ y.m = x.m ∧ y.bankO = x.bankO ∧ y.bankS = x.bankS ∧
    y.cr = x.cr

/-- The results of the integer types of VV and VS (R199, R229). -/
def vvWord {w : Nat} (op : Nat) (a b : BitVec w) : BitVec w :=
  match op with
  | 0 => a + b
  | 1 => a - b
  | 2 => b - a
  | 3 => a * b
  | 5 => if b.slt a then b else a
  | 6 => if a.slt b then b else a
  | 7 => a &&& b
  | 8 => a ||| b
  | 9 => a ^^^ b
  | 10 => a <<< (b.toNat % w)
  | 11 => a >>> (b.toNat % w)
  | 12 => a.sshiftRight (b.toNat % w)
  | 13 => ((a.signExtend (2 * w) * b.signExtend (2 * w)) >>> w).setWidth w
  | 14 => if b.ult a then b else a
  | _ => if a.ult b then b else a

/-! ### The matrix unit (R232–R276) -/

/-- The mop that an instruction issues. -/
def mopOf (s : State) (is : Issue) (accum : Bool) (af wf : BitVec 4) (shape : BitVec 2) (pair wide : Bool) (j : TileId) (ga gb : Reg6) : Mop :=
  let x := s.thr is.thr
  { id := (s.mx (spindleOf is.thr)).nextMop, level1 := s.level1, thr := threadIn is.thr, world := x.world, accum := accum, afmt := af, wfmt := wf, shape := shape, pair := pair, wide := wide,
    tile := j, a := x.rg ga, b := x.rg gb, started := false, flags := [], events := [], groups := 0 }

/-- A mop that may issue: a legal combination (R235, R249), every tile it names usable by the context (R254), an allowed activation
extent (R238), and no rule of R250 and R257–R259 that holds it. -/
def MopIssues (s : State) (is : Issue) (m : Mop) (mf : MopFmt) : Prop :=
  mopFmt s.level1 m.afmt.toNat m.wfmt.toNat = some mf ∧ m.shape ≠ 3 ∧ (m.pair = true → m.tile.val < 2) ∧ (m.wide = true → mf.acc = .f32) ∧
    (∀ j : TileId, j ∈ m.tiles ∨ (m.wide = true ∧ shadowOf j ∈ m.tiles) → tileUsable s is.thr j = true) ∧
    actFault s is.thr (actDesc m.a (mopRows m.shape m.pair)) (mopDepth m.b) mf.a.width = none ∧
    mopHeld (s.mx (spindleOf is.thr)) m.accum m = false

/-- The mop has entered: it stands last in the queue, and each tile that it fills is FILLING with its shape and formats (R250, R256). -/
def MopEntered (s u : State) (n : SpindleId) (m : Mop) : Prop :=
  (u.mx n).mops = (s.mx n).mops ++ [m] ∧
    (∀ j : TileId, j ∈ m.tiles → (u.tile n j).state = .filling ∧ (u.tile n j).shape = m.shape ∧ (u.tile n j).pair = m.pair ∧
      (u.tile n j).afmt = m.afmt ∧ (u.tile n j).wfmt = m.wfmt ∧ (u.tile n j).cells = (s.tile n j).cells ∧
      (u.tile n j).owner = (s.tile n j).owner) ∧
    u.mem = s.mem ∧ u.threads = s.threads ∧ ∀ k, k ≠ n → u.spin k = s.spin k

def fillInsn (a b : Bool) (ga gb : Reg6) : Insn :=
  { word := word1 (boolNat a * 2 ^ 19 + boolNat b * 2 ^ 18 + ga.toNat * 2 ^ 12 + gb.toNat * 2 ^ 6 + 0x3A), cls := .vm,
    reads := [ga.toNat, gb.toNat] }
/-! ### The Sluice -/

/-- The queue holds no descriptor and shows what R420 says of its head, its tail and EN. -/
def QueueRests (u : State) (e : EngineId) (q : QueueId) : Prop :=
  (u.slq e q).desc = none ∧
    qState u e q = if qEn u e q = false then QS.OFF else if qHead u e q = qTail u e q then QS.IDLE else QS.RUNNING

/-- From `s`, the queue's descriptor `d` has ended with status `st` (R414, R415): LAST shows it, QDONE has counted it, and its DONE
bit is set if it asks for that. -/
def Ends (s u : State) (e : EngineId) (q : QueueId) (d : Desc) (st : Nat) : Prop :=
  u.fld (R.SLUICE_QSTAT e q) F.SLUICE_QSTAT_LAST = st ∧
    u.fld (R.SLUICE_QDONE e q) F.SLUICE_QDONE_COUNT = (s.fld (R.SLUICE_QDONE e q) F.SLUICE_QDONE_COUNT + 1) % 2 ^ 32 ∧
    (d.irq = true → bit (u.reg (R.SLUICE_ISTAT e)) q.val = true)

/-- It has ended and the queue has gone on to the slot `h`. -/
def EndsAt (s u : State) (e : EngineId) (q : QueueId) (d : Desc) (st h : Nat) : Prop :=
  Ends s u e q d st ∧ qHead u e q = h % 2 ^ 32 ∧ QueueRests u e q

/-- It has ended and the queue has halted with its descriptor at QHEAD and the cursor `cur` (R417). -/
def EndsHalted (s u : State) (e : EngineId) (q : QueueId) (d : Desc) (st : Nat) (cur : Option (Nat × Nat)) : Prop :=
  Ends s u e q d st ∧ qHead u e q = qHead s e q ∧ qState u e q = QS.HALTED ∧ (u.slq e q).desc = none ∧ (u.slq e q).cursor = cur ∧
    bit (u.reg (R.SLUICE_ISTAT e)) (4 + q.val) = true

/-- Its writeback slot lies where the queue's world may write (R391). -/
def Records (s : State) (e : EngineId) (q : QueueId) : Prop := ringOk s (qWorld s e q) (wbSlot s e q) 32 = true

/-! ### Channels -/

/-- Why the destination refuses a PUT, or a GET, that has authenticated (R452), if it does. -/
def refusal (s : State) (m : Msg) (get : Bool) : Option Nat :=
  if epochOk s m = false ∨ isMember s s.devId.toNat = false then some 7
  else match chanOf s m.chan with
    | none => some 1
    | some x =>
      if m.sealed ≠ x.world then some 6
      else if m.src ≠ s.devId ∧ ((if get then x.getok else x.putok) = false ∨ (x.anypeer = false ∧ m.src ≠ x.peer)) then some 5
      else if get = false ∧ (m.len = 0 ∨ 256 * 2 ^ x.slotlog < m.len.toNat) then some 4
      else if get = false ∧ (x.tail - x.head).toNat = 2 ^ x.ringlog then some 2
      else none

/-- The refusal has been counted, and recorded in LASTNACK if that was clear; the channels and memory stand. -/
def Refused (s u : State) (m : Msg) (get : Bool) (reason : Nat) : Prop :=
  u.reg R.GCTL_NACKTX = s.reg R.GCTL_NACKTX + 1 ∧ SameMem u s ∧
    u.reg R.GCTL_LASTNACK = (if s.flag R.GCTL_LASTNACK F.GCTL_LASTNACK_VALID = true then s.reg R.GCTL_LASTNACK
      else BitVec.ofNat 64 (1 + reason * 2 ^ 8 + m.chan.toNat * 2 ^ 16 + m.src.toNat * 2 ^ 32 + (if get then 2 ^ 44 else 0)))

/-- The status word of a PUT in slot `t` (R449). -/
def slotStatus (m : Msg) (x : Chan) : Nat :=
  m.len.toNat + (if (markedData m).any (·.2) then 2 ^ 17 else 0) + (if m.sv then 2 ^ 18 else 0) + m.src.toNat * 2 ^ 19 +
    (if x.tail.toNat / 2 ^ x.ringlog % 2 = 0 then 2 ^ 31 else 0) + (if m.sv then m.stamp.toNat * 2 ^ 32 else 0)

/-- What FEC says of the pair of an arriving flit (R422, R424): it was corrected, or a flit before it found that. -/
def fecGood (s : State) (p : PortId) : PairFec → Bool
  | .first c => c.isSome
  | .later => (s.pairing p).rxGood

/-- `s` with the write of a channel command in GCTL.CHCMD. -/
def chanWritten (s : State) (c : BitVec 16) (op count : Nat) : State :=
  s.setReg R.GCTL_CHCMD (putF (putF (putF (s.reg R.GCTL_CHCMD) F.GCTL_CHCMD_CHAN c.toNat) F.GCTL_CHCMD_OP op) F.GCTL_CHCMD_COUNT count)

/-! ### The Reel -/

/-- The collective of slot `i` has ended with status `st` (R499, R502): the slot is IDLE and empty, LAST shows the status, and FAILMAP
its failure. -/
def CollEnds (s u : State) (i : SlotId) (st : Nat) : Prop :=
  slotState u i = 0 ∧ u.fld (R.REEL_SSTAT i) F.REEL_SSTAT_LAST = st ∧ u.rslot i = {} ∧ u.reg R.REEL_COLLS = s.reg R.REEL_COLLS + 1 ∧
    (st ≠ RS.OK → st ≠ RS.OK_EMPTY → bit (u.reg R.REEL_FAILMAP) i.val = true) ∧
    (∀ d, (s.rslot i).desc = some d → d.irq = true → bit (u.reg R.REEL_DONEMAP) i.val = true)

/-- The commands that receive a Reel message `m`, by message type (R474). -/
def reelCommands (m : Msg) : List (Nat × Instr) :=
  [(1, .grant m), (2, .data m), (3, .prepass m), (4, .bkreq m), (5, .takeover m), (6, .none m), (7, .abort m), (8, .retreq m)]

/-- The unsealed message is accepted here, and its header of type `t` is `h` (R456, R474). -/
def ReelArrives (s : State) (m : Msg) (t : Nat) (h : RHdr) : Prop :=
  m.dst = s.devId ∧ m.sealed = false ∧ epochOk s m = true ∧ 32 ≤ m.data.length ∧ parseHdr (reelTyped m t).data = h

/-- It is for the collective `d` of slot `i`, with that collective's PHASH (R467, R493). -/
def ReelMatches (s : State) (m : Msg) (h : RHdr) (i : SlotId) (d : RDesc) : Prop :=
  slotFor s m h = some i ∧ (s.rslot i).desc = some d ∧ h.phash = (s.rslot i).phash

/-- `s` once GO has been taken by slot `i`: the collective has its SEQ and its time (R504). -/
def reelGoes (s : State) (i : SlotId) : State :=
  let seq := s.fld R.REEL_DIGSEQ F.REEL_DIGSEQ_NEXT
  (((s.setFld R.REEL_DIGSEQ F.REEL_DIGSEQ_NEXT (seq + 1)).setFld (R.REEL_SSTAT i) F.REEL_SSTAT_SEQ seq).setFld (R.REEL_SSTAT i)
    F.REEL_SSTAT_HOP 0).setRslot i { t0 := s.now, beat := s.beatNo }

end Sys2Proof.Claims

section
open Sys2Proof Sys2Proof.Machine Sys2Proof.Safety Sys2Proof.Claims

/-! ### The control core -/

/-- R91–R93: rd takes the operation's result, wrapped; an overflow takes its trap after completion only under TCR.OVT. The PC, the
loops and the counts are `retire`'s; no other register, no flag and no byte of memory changes. -/
def Claims.AluResults : Prop :=
  ∀ (s : State) (is : Issue) (op : AluOp) (w : Bool) (rd ra rb : Reg6),
    Issues s is (opInsn .int op.func w rd ra rb) → (w = true → op.allowsW = true) → (op.unary = true → rb = 0) →
    exec (.aluOp is op w rd ra rb) s =
      .next (retire s (writeG s is.thr rd (aluWord op w ((s.thr is.thr).rg ra) ((s.thr is.thr).rg rb))) is
        (opInsn .int op.func w rd ra rb)
        (eventTrap (s.thr is.thr) Cause.OVERFLOW 0 (aluOverflows op w ((s.thr is.thr).rg ra) ((s.thr is.thr).rg rb))))

/-- R91–R93: products, quotients and remainders, with the results for a zero divisor and for the overflow case.
Where the rules leave a point open, it rests on the model's choices (assumption 127). -/
def Claims.MulDivResults : Prop :=
  (∀ (s : State) (is : Issue) (op : MulOp) (w : Bool) (rd ra rb : Reg6),
    Issues s is (opInsn .int op.func w rd ra rb) → (w = true → op.allowsW = true) →
    exec (.mul is op w rd ra rb) s =
      .next (retire s (writeG s is.thr rd (mulWord op w ((s.thr is.thr).rg ra) ((s.thr is.thr).rg rb))) is
        (opInsn .int op.func w rd ra rb)
        (eventTrap (s.thr is.thr) Cause.OVERFLOW 0 (mulOverflows op w ((s.thr is.thr).rg ra) ((s.thr is.thr).rg rb))))) ∧
  (∀ (s : State) (is : Issue) (op : DivOp) (w : Bool) (rd ra rb : Reg6),
    Issues s is (opInsn .div op.func w rd ra rb) →
    exec (.div is op w rd ra rb) s =
      .next (retire s (writeG s is.thr rd (divWord op w ((s.thr is.thr).rg ra) ((s.thr is.thr).rg rb))) is
        (opInsn .div op.func w rd ra rb) (divTrap (s.thr is.thr) op w ((s.thr is.thr).rg ra) ((s.thr is.thr).rg rb))))

/-- R89, R90: the immediate forms, short and prefixed, the shifts by an immediate, lui and auipc. -/
def Claims.ImmediateResults : Prop :=
  ∀ (s : State) (is : Issue) (rd ra : Reg6),
    (∀ (op : ImmOp) (imm : Imm14), Issues s is (immInsn op rd ra imm) →
      exec (.aluImmediate is op rd ra imm) s =
        .next (retire s (writeG s is.thr rd (immWordOf op ((s.thr is.thr).rg ra) imm)) is (immInsn op rd ra imm)
          (eventTrap (s.thr is.thr) Cause.OVERFLOW 0 (immOverflows op ((s.thr is.thr).rg ra) imm)))) ∧
    (∀ (op : ShiftOp) (w : Bool) (amt : BitVec 6), Issues s is (shiftImmInsn op w rd ra amt) → (w = true → amt.getLsbD 5 = false) →
      exec (.shiftImmediate is op w rd ra amt) s =
        .next (retire s (writeG s is.thr rd (aluWord op.alu w ((s.thr is.thr).rg ra) (amt.setWidth 64))) is
          (shiftImmInsn op w rd ra amt) none)) ∧
    (∀ imm : Imm20, Issues s is (upperInsn rd imm 0x0A) →
      exec (.lui is rd imm) s = .next (retire s (writeG s is.thr rd (upperWord imm)) is (upperInsn rd imm 0x0A) none)) ∧
    (∀ imm : Imm20, Issues s is (upperInsn rd imm 0x0B) →
      exec (.auipc is rd imm) s =
        .next (retire s (writeG s is.thr rd ((s.thr is.thr).pc.setWidth 64 + upperWord imm)) is (upperInsn rd imm 0x0B) none))

/-- `Claims.AluResults` and `Claims.MulDivResults` and `Claims.ImmediateResults` hold, all three. -/
def Obligations.IntegerResults : Prop := Claims.AluResults ∧ Claims.MulDivResults ∧ Claims.ImmediateResults

/-- R64, R73, R89: a taken branch and a jump go to their target, with the link in rd; an untaken branch continues in sequence; a
target beyond 48 bits raises DEV_ADDR with the target as TVAL. -/
def Claims.BranchesAndJumps : Prop :=
  ∀ (s : State) (is : Issue) (ra rb rd : Reg6),
    (∀ (c : BrCond) (off : Imm14), Issues s is (branchInsn c ra rb off) →
      let x := s.thr is.thr
      let tgt := jumpTarget x (immS off).toInt
      exec (.branch is c ra rb off) s =
        .next (if taken c (x.rg ra) (x.rg rb) = false then retire s s is (branchInsn c ra rb off) none
          else if tgt.toNat < 2 ^ 48 then retireJump s s is (branchInsn c ra rb off) (tgt.setWidth 48)
          else retireFault s s is (branchInsn c ra rb off) ⟨Cause.DEV_ADDR, 0, tgt⟩)) ∧
    (∀ off : Imm20, Issues s is (jalInsn rd off) →
      let x := s.thr is.thr
      let tgt := jumpTarget x off.sext
      exec (.jal is rd off) s =
        .next (if tgt.toNat < 2 ^ 48 then
            retireJump s (writeG s is.thr rd (BitVec.ofNat 64 (x.pc.toNat + off.len))) is (jalInsn rd off) (tgt.setWidth 48)
          else retireFault s s is (jalInsn rd off) ⟨Cause.DEV_ADDR, 0, tgt⟩)) ∧
    (∀ imm : Imm14, Issues s is (jalrInsn rd ra imm) →
      let x := s.thr is.thr
      let tgt := (x.rg ra + immS imm) &&& ~~~3
      exec (.jalr is rd ra imm) s =
        .next (if tgt.toNat < 2 ^ 48 then
            retireJump s (writeG s is.thr rd (BitVec.ofNat 64 (x.pc.toNat + imm.len))) is (jalrInsn rd ra imm) (tgt.setWidth 48)
          else retireFault s s is (jalrInsn rd ra imm) ⟨Cause.DEV_ADDR, 0, tgt⟩))

/-- R70, R72: loop and loopi set LS, LE and LC of their level; a count of zero skips the body.
Where the rules leave a point open, it rests on the model's choices (assumption 22). -/
def Claims.LoopSetup : Prop :=
  (∀ (s : State) (is : Issue) (lvl : Fin 2) (ra : Reg6) (body : BitVec 14), Issues s is (loopInsn lvl ra body) →
    let x := s.thr is.thr
    let start : Addr := x.pc + 4
    let last : Addr := start + BitVec.ofNat 48 (4 * body.toNat)
    let n := (x.rg ra).toNat % 2 ^ 32
    loopAllowed x lvl last →
    exec (.loop is lvl ra body) s =
      .next (retireJump s (s.setThr is.thr (loopSet x lvl start last n)) is (loopInsn lvl ra body)
        (if n = 0 then afterBody s last else start))) ∧
  (∀ (s : State) (is : Issue) (lvl : Fin 2) (body : BitVec 13) (count : BitVec 12) (e : Option (BitVec 20)),
    Issues s is (loopiInsn lvl body count e) →
    let x := s.thr is.thr
    let start : Addr := x.pc + BitVec.ofNat 48 (loopiInsn lvl body count e).len
    let last : Addr := start + BitVec.ofNat 48 (4 * body.toNat)
    let n := match e with | none => count.toNat | some e => (e ++ count).toNat
    loopAllowed x lvl last →
    exec (.loopi is lvl body count e) s =
      .next (retireJump s (s.setThr is.thr (loopSet x lvl start last n)) is (loopiInsn lvl body count e)
        (if n = 0 then afterBody s last else start)))

/-- `Claims.BranchesAndJumps` and `Claims.LoopSetup` hold, both. -/
def Obligations.ControlFlow : Prop := Claims.BranchesAndJumps ∧ Claims.LoopSetup

/-- R94, R163, R177: the scalar floating-point instructions write the operation's result to rd and only add to FFLAGS.
Where the rules leave a point open, it rests on the model's choices (assumption 32). -/
def Claims.FpResults : Prop :=
  ∀ (s : State) (is : Issue) (rd ra rb rc : Reg6) (dbl : Bool) (rm : BitVec 3) (m : Rm),
    let x := s.thr is.thr
    let f := fmtOf dbl
    let a := fbits f (x.rg ra)
    let b := fbits f (x.rg rb)
    let c := fbits f (x.rg rc)
    let put (r : FRes) := writeFp s is.thr rd (BitVec.ofNat 64 r.bits) r.fl
    (∀ op : FpOp, Issues s is (fpInsn .fpu op.func dbl rm rd ra rb) → rmField x rm = some m →
      exec (.fpOp is op dbl rm rd ra rb) s = .next (retire s (put (fpRes op f m a b)) is (fpInsn .fpu op.func dbl rm rd ra rb) none)) ∧
    (Issues s is (fpInsn .div 3 dbl rm rd ra rb) → rmField x rm = some m →
      exec (.fdivFsqrt is false dbl rm rd ra rb) s = .next (retire s (put (fDiv f m a b)) is (fpInsn .div 3 dbl rm rd ra rb) none)) ∧
    (Issues s is (fpInsn .div 4 dbl rm rd ra 0) → rmField x rm = some m →
      exec (.fdivFsqrt is true dbl rm rd ra 0) s = .next (retire s (put (fSqrt f m a)) is (fpInsn .div 4 dbl rm rd ra 0) none)) ∧
    (∀ (op : FmaOp) (o : Option (BitVec 3)), Issues s is (fmaInsn op dbl rd ra rb rc o) → rmField x (o.getD 7) = some m →
      exec (.fmadd is op dbl rd ra rb rc o) s = .next (retire s (put (fmaRes op f m a b c)) is (fmaInsn op dbl rd ra rb rc o) none)) ∧
    (∀ k : CvtCode, Issues s is (fcvtInsn k rm rd ra) → rmField x rm = some m →
      let src := (fcvtTypes k.val).1
      let r := convert src (fcvtTypes k.val).2 m (satOn s x) ((x.rg ra).toNat % 2 ^ src.width)
      exec (.fcvt is k rm rd ra) s =
        .next (retire s (writeFp s is.thr rd (if k.val = 4 then sx32 (BitVec.ofNat 32 r.bits) else BitVec.ofNat 64 r.bits) r.fl) is
          (fcvtInsn k rm rd ra) none))

/-- R163: with a NaN operand, the result of an arithmetic operation is the first NaN operand, quieted, its sign and payload kept;
NV is set exactly when an operand is signalling. -/
def Claims.NanOperands : Prop :=
  ∀ (dbl : Bool) (m : Rm) (a b : Nat), a < 2 ^ (fmtOf dbl).width → b < 2 ^ (fmtOf dbl).width →
    nanBits dbl a = true ∨ nanBits dbl b = true →
    (∀ op : FpOp, op = .fadd ∨ op = .fsub ∨ op = .fmul → fpRes op (fmtOf dbl) m a b = nanAnswer dbl [a, b]) ∧
    fDiv (fmtOf dbl) m a b = nanAnswer dbl [a, b] ∧
    (nanBits dbl a = true → fSqrt (fmtOf dbl) m a = nanAnswer dbl [a])

/-- `Claims.FpResults` and `Claims.NanOperands` hold, both. -/
def Obligations.FloatingPointResults : Prop := Claims.FpResults ∧ Claims.NanOperands

/-- R76, R96, R108: crr, crw, crs and crc return the register's old value in rd; crw writes ga, crs sets its bits and crc clears
them; CR.SWAKE (0x181) is written by the Sealed supervisor.
Where the rules leave a point open, it rests on the model's choices (assumption 25). -/
def Claims.ControlRegisterAccess : Prop :=
  ∀ (s : State) (is : Issue) (rd ra : Reg6) (num : BitVec 12),
    let x := s.thr is.thr
    let n := num.toNat
    let old := crRead s is.thr n
    let ga := x.rg ra
    let ends (op : CrOp) (v : Word) (i : Insn) :=
      .next (retire s (writeG (if op = .r then s else crWrite s is.thr n v ga) is.thr rd old) is i none)
    crAssigned n = true → crPermitted x n = true →
    (Issues s is (crInsn .r rd 0 num) → exec (.crr is rd num) s = ends .r 0 (crInsn .r rd 0 num)) ∧
    (Issues s is (crInsn .w rd ra num) → exec (.crw is rd ra num) s = ends .w ga (crInsn .w rd ra num)) ∧
    (Issues s is (crInsn .s rd ra num) → exec (.crs is rd ra num) s = ends .s (old ||| ga) (crInsn .s rd ra num)) ∧
    (Issues s is (crInsn .c rd ra num) → exec (.crc is rd ra num) s = ends .c (old &&& ~~~ga) (crInsn .c rd ra num)) ∧
    (num = 0x181 → Issues s is (crInsn .w rd ra num) → exec (.swake is rd ra) s = ends .w ga (crInsn .w rd ra num))

/-- R76: a write of a class-S register is held pending: crr returns the written value and the register in force keeps its own,
until csync or isync applies it; the last write before that point applies. -/
def Claims.PendingWrites : Prop :=
  ∀ (s : State) (t : Thr) (n : Nat) (v w ga gb : Word), pendingReg n = true → (n = 0x180 → (s.thr t).world = true) →
    let wd := (s.thr t).world
    let s1 := crWrite s t n v ga
    let s2 := crWrite s1 t n w gb
    crRead s1 t n = v &&& crMask s (s.thr t) n v ∧
    (∀ k b, (s1.thr t).bcr b k = (s.thr t).bcr b k) ∧
    ((s.thr t).pendO = [] → (s.thr t).pendS = [] → (applyPending (s2.thr t)).bcr wd n = w &&& crMask s (s.thr t) n w)

/-- `Claims.ControlRegisterAccess` and `Claims.PendingWrites` hold, both. -/
def Obligations.ControlRegisters : Prop := Claims.ControlRegisterAccess ∧ Claims.PendingWrites

/-- R18, R27, R69, R77, R78, R134: csync and isync apply the thread's pending writes; wfi waits, unless a line that is enabled is
already pending; bdone parks the thread and sets its done bit.
Where the rules leave a point open, it rests on the model's choices (assumption 27). -/
def Obligations.SynchronisationInstructions : Prop :=
  ∀ (s : State) (is : Issue),
    let x := s.thr is.thr
    (Issues s is (soloInsn 1 0) →
      exec (.csync is) s = .next (retire s (s.setThr is.thr (applyPending x)) is (soloInsn 1 0) none)) ∧
    (Issues s is (soloInsn 2 0) → x.storeQ = [] →
      exec (.isync is) s = .next (retire s (s.setThr is.thr (applyPending x)) is (soloInsn 2 0) none)) ∧
    (Issues s is (soloInsn 0x0A 0) → pendingLines s x false &&& (x.bcr false 0x102).toNat = 0 →
      pendingLines s x true &&& (x.bcr true 0x102).toNat = 0 →
      exec (.wfi is) s = .next (retire s (s.setThr is.thr { x with run := .waiting }) is (soloInsn 0x0A 0) none)) ∧
    (Issues s is (soloInsn 4 0) → x.entry = false →
      exec (.bdone is) s =
        .next (retire s (checkDone ((s.setThr is.thr { x with run := .parked, bdWorld := x.world, bdLevel := x.level }).setReg 0x100068
          (setBit (s.reg 0x100068) is.thr.val true))) is (soloInsn 4 0) none))

/-- R82, R84, R86: tbegin opens a transaction with an empty write and read set and writes zero to rd; tcommit, once the thread's
earlier stores have left its store queue, ends it and its write set becomes visible; tabort, and the 16,384 core cycles of the time
limit, discard it, write the status to tbegin's register and to CR.TXSTAT (0x018), and continue at the fail address. A transaction
that has not lasted so long has first to wait for the rest of those cycles.
Where the rules leave a point open, it rests on the model's choices (assumptions 23, 31 and 122). -/
def Obligations.Transactions : Prop :=
  ∀ (s : State) (is : Issue) (rd : Reg6) (off : Imm20) (code : Byte) (tx : Tx),
    let x := s.thr is.thr
    (Issues s is (tbeginInsn rd off) → x.tx = none →
      let fail : Addr := (jumpTarget x off.sext).setWidth 48
      exec (.tbegin is rd off) s =
        .next (retire s (s.setThr is.thr ({ x with tx := some { rd := rd, fail := fail, wset := [], rset := [], began := coreCycle s is.thr } }.wg rd 0)) is
          (tbeginInsn rd off) none)) ∧
    (Issues s is (soloInsn 5 0 true) → x.tx = some tx → x.storeQ = [] →
      exec (.tcommit is) s =
        .next (retire s (tx.wset.foldl (commitLine is.thr) (s.setThr is.thr ({ x with tx := none }.setUcr 0x018 0))) is
          (soloInsn 5 0 true) none)) ∧
    (∀ r : State, Issues s is (soloInsn 6 code.toNat true) → x.tx = some tx → exec (.tabort is code) s = .next r →
      (r.thr is.thr).tx = none ∧ (r.thr is.thr).pc = tx.fail ∧
        (r.thr is.thr).rg tx.rd = (if tx.rd = 0 then 0 else abortWord tx 10 code.toNat false) ∧
        (r.thr is.thr).ucr 0x018 = abortWord tx 10 code.toNat false ∧ SameMem r s) ∧
    (Issues s is (soloInsn 6 code.toNat true) → x.tx = some tx → ∃ r, exec (.tabort is code) s = .next r) ∧
    (x.tx = some tx → 16384 ≤ (coreCycle s is.thr - tx.began).toNat →
      ∃ r, exec (.txTimeAbort is.thr) s = .next r ∧ (r.thr is.thr).tx = none ∧ (r.thr is.thr).pc = tx.fail ∧
        (r.thr is.thr).rg tx.rd = (if tx.rd = 0 then 0 else abortWord tx 8 0 true) ∧
        (r.thr is.thr).ucr 0x018 = abortWord tx 8 0 true ∧ SameMem r s) ∧
    (∀ n, x.tx = some tx → (coreCycle s is.thr - tx.began).toNat < 16384 →
      clocksForCycles s is.thr (16384 - (coreCycle s is.thr - tx.began).toNat) = some n →
      exec (.txTimeAbort is.thr) s = .next (txAbort (elapse s n) is.thr 8 0 true))

/-- R89, R109, R115: brk, a word that no instruction has, and a fetch from an address that cannot be fetched from enter the handler
of BREAK (8), ILLEGAL (1) and the fetch's own cause, in the thread's world at supervisor level.
Where the rules leave a point open, it rests on the model's choices (assumptions 21 and 30). -/
def Obligations.TrapInstructions : Prop :=
  ∀ (s : State) (is : Issue) (code : Byte) (w : BitVec 32) (w2 : Option (BitVec 32)),
    let x := s.thr is.thr
    CanTrap s is.thr →
    (Issues s is (soloInsn 0x0B code.toNat) → ∃ r, exec (.brk is code) s = .next r ∧ AtHandler r is.thr x.world 8) ∧
    (Issues s is (illegalWord w w2) → decodeInsn is w w2 = none → ∃ r, exec (.illegalInstruction is w w2) s = .next r ∧ AtHandler r is.thr x.world 1) ∧
    (x.run = .running → fetchable x.pc.toNat = false →
      ∃ r, exec (.instructionFetchFault is) s = .next r ∧ AtHandler r is.thr x.world 3)

/-- R115, R117: a fault or a trap after completion saves the block, clears IE, sets INH and enters the handler; the state that it
leaves is the block's write and the thread's own entry, and nothing else. -/
def Obligations.TrapEntry : Prop :=
  ∀ (s : State) (t : Thr) (pc : Addr) (k : TrapKind) (i : TrapInfo) (insn : Word),
    let x := { applyPending (s.thr t) with pc := pc }
    let w := x.world
    let s0 := s.setThr t x
    let s1 := writeTsb s0 t (tsbAddr x w) (tsbFor s0 x w pc k i insn)
    CanTrap s t → x.run ≠ .parked →
    AtHandler (takeTrap s t pc k i insn) t w i.cause ∧
    ((takeTrap s t pc k i insn).thr t).g = (s1.thr t).g ∧
    (∀ u, u ≠ t → (takeTrap s t pc k i insn).thr u = s1.thr u) ∧
    { takeTrap s t pc k i insn with threads := s1.threads } = s1

/-! ### Gates, memory and events -/

/-- R136–R142: gcall writes the 32-byte frame, points g63 at it and enters the gate's world, level and address; gret restores g63,
world and level from the frame and continues at its PC. -/
def Obligations.GatesAndGateReturns : Prop :=
  (∀ (s : State) (is : Issue) (gate : Byte) (s1 s2 : State) (g : Gate) (tw : Bool) (fr : FrameRes),
    let x := s1.thr is.thr
    let frame := frameAt x g tw
    Issues s is (soloInsn 7 gate.toNat) → Governs s is.thr gate.toNat s1 g tw → GateOpens s1 x g tw →
    (g.stackmode ≠ 0 → g.stacklim.toNat ≤ frame.toNat) →
    frameParts s1 is.thr (SYS 7 gate.toNat) .store tw g.tlevel frame = (s2, fr) → fr ≠ .bad → fr ≠ .wait →
    exec (.gcall is gate) s =
      .next (retireJump s ((writeFrame s2 is.thr frame (gateFrame (s2.thr is.thr) gate.toNat) fr).updThr is.thr
        (fun y => { y.wg 63 frame with world := tw, level := g.tlevel })) is (soloInsn 7 gate.toNat) g.entry)) ∧
  (∀ (s : State) (is : Issue) (s1 s2 : State) (fr : FrameRes) (bs : List Byte),
    let x := applyPending (s.thr is.thr)
    Issues s is (soloInsn 8 0) →
    frameParts (s.setThr is.thr x) is.thr (SYS 8 0) .load x.world x.level (x.rg 63) = (s1, fr) →
    readFrame s1 is.thr fr = (s2, .data bs) → FrameReturns x bs →
    exec (.gret is) s =
      .next (retireJump s (s2.updThr is.thr (fun y =>
        { y.wg 63 (wordAt bs 8) with world := (wordAt bs 16).getLsbD 1, level := (wordAt bs 16).getLsbD 0 })) is (soloInsn 8 0)
        (BitVec.ofNat 48 ((wordAt bs 0).toNat / 4 * 4))))

/-- R121: tret without an event to chain restores PC, level, IE and g32–g63 from the world's block, enters the block's world only
from the Sealed world, and clears INH. -/
def Obligations.TrapReturn : Prop :=
  ∀ (s : State) (is : Issue) (s1 : State) (b : Tsb),
    let y := applyPending (s.thr is.thr)
    let w := y.world
    Issues s is (soloInsn 9 0) → (s.thr is.thr).level = true →
    readTsb (s.setThr is.thr y) is.thr w (tsbAddr y w) = (s1, .ok b) →
    let z := s1.thr is.thr
    (z.nochain w = true ∨ b.pie = false ∨ lowestLine (pendingLines s1 z w &&& (z.bcr w 0x102).toNat) = none) →
    (w = true ∨ z.suspended ≠ some (tsbAddr y w)) → z.parkBlock ≠ some (w, tsbAddr y w) →
    ∃ r, exec (.tret is) s = .next r ∧ (r.thr is.thr).pc = b.pc ∧ (r.thr is.thr).level = b.plevel ∧
      (r.thr is.thr).world = (w && b.pworld) ∧ ((r.thr is.thr).bcr w 0x101).getLsbD 0 = b.pie ∧
      ((r.thr is.thr).bcr w 0x101).getLsbD 1 = false ∧ (r.thr is.thr).run = .running ∧
      ∀ j : Fin 32, (r.thr is.thr).g[32 + j.val] = b.g.getD j.val 0

/-- R4, R55, R65, R86, R305, R311: a load of device memory puts the extended value in rd, or raises POISON if a byte of it is Deferred; a store
writes its bytes at the address, or takes a place in the store queue while its row or granule is copied; an atomic puts the old
value in rd, or raises POISON. A load or a store of a register of control space reads or writes it. A check that fails traps instead. In a
transaction an access outside the own pan aborts it, a store goes to the buffer and leaves memory as it is.
Where the rules leave a point open, it rests on the model's choices (assumptions 15, 28 and 124). -/
def Obligations.LoadsStoresAtomics : Prop :=
  ∀ (s : State) (is : Issue) (rd ra rb : Reg6) (imm : Imm14) (up : List Upset) (ps : List Part),
    let t := is.thr
    let s0 := strikes s up
    let x := s0.thr t
    let ea := x.rg ra + immS imm
    (∀ k : LdKind, Issues s is (ldInsn k rd ra imm) → x.tx = none →
      (checkAccess s0 x .load ea k.bytes = .ok ps → memoryAddr ea.toNat → loadWaits s0 t ps = false →
        let r := l1Load s0 t ps
        exec (.ld is k rd ra imm up) s =
          .next (if r.2.any (·.2) then retireFault s r.1 is (ldInsn k rd ra imm) ⟨7, 0, ea⟩
            else retire s (writeG r.1 t rd (loadWord k (r.2.map (·.1)))) is (ldInsn k rd ra imm) none)) ∧
      (checkAccess s0 x .load ea k.bytes = .ok ps → isSva ea.toNat = false → windowOf ea.toNat = .control →
        exec (.ld is k rd ra imm up) s =
          .next (retire s (writeG s0 t rd (loadWord k (leBytes k.bytes
            (mmioRead s0 (.thread t) (ea.toNat - 0xF10000000000) (decide (k.bytes = 8))).toNat))) is (ldInsn k rd ra imm) none)) ∧
      (∀ e, checkAccess s0 x .load ea k.bytes = .error e →
        exec (.ld is k rd ra imm up) s = .next (retireFault s s0 is (ldInsn k rd ra imm) e))) ∧
    (∀ k : StKind, Issues s is (stInsn k rb ra imm) →
      let data := leBytes k.bytes (x.rg rb).toNat
      (∀ p, x.tx = none → checkAccess s0 x .store ea k.bytes = .ok [p] → memoryAddr ea.toNat → writeBusy s0 p.ea = false →
        queueHits x.storeQ p.ea p.n = false →
        exec (.st is k rb ra imm up) s = .next (retire s (devWrite s0 t ea.toNat data) is (stInsn k rb ra imm) none)) ∧
      (∀ p, x.tx = none → checkAccess s0 x .store ea k.bytes = .ok [p] → memoryAddr ea.toNat →
        (writeBusy s0 p.ea || queueHits x.storeQ p.ea p.n) = true → x.storeQ.length < 8 →
        exec (.st is k rb ra imm up) s =
          .next (retire s (s0.updThr t (fun y => { y with storeQ := y.storeQ ++ [{ addr := ea.toNat, data := data, map := mapping s0 }] })) is
            (stInsn k rb ra imm) none)) ∧
      (∀ s1, x.tx = none → checkAccess s0 x .store ea k.bytes = .ok ps → memoryAddr ea.toNat →
        ps.foldlM (fun z p => storePart z t p.ea ((data.drop (p.ea - ea.toNat)).take p.n)) s0 = some s1 →
        exec (.st is k rb ra imm up) s = .next (retire s s1 is (stInsn k rb ra imm) none)) ∧
      (∀ (tx tx' : Tx) (p : Part), x.tx = some tx → (halves ea k.bytes).all (ownPan t) = true →
        checkAccess s0 x .store ea k.bytes = .ok [p] → joinWrite tx p.ea data = some tx' →
        exec (.st is k rb ra imm up) s =
          .next (retire s (s0.updThr t (fun y => { y with tx := some tx' })) is (stInsn k rb ra imm) none)) ∧
      (x.tx.isSome = true → (halves ea k.bytes).all (ownPan t) = false →
        ∃ r, exec (.st is k rb ra imm up) s = .next r ∧ (r.thr t).tx = none ∧ SameMem r s0) ∧
      (∀ off, x.tx = none → checkAccess s0 x .store ea k.bytes = .ok ps → ctlStore ea = some off → x.storeQ = [] → x.group = none →
        exec (.st is k rb ra imm up) s =
          .next (settle (mmioWrite (retire s s0 is (stInsn k rb ra imm) none) (.thread t) off (decide (k.bytes = 8)) (x.rg rb)))) ∧
      (∀ e, x.tx = none → checkAccess s0 x .store ea k.bytes = .error e → ctlStore ea = none →
        exec (.st is k rb ra imm up) s = .next (retireFault s s0 is (stInsn k rb ra imm) e))) ∧
    (∀ (op : AtomOp) (dbl : Bool), Issues s is (atomInsn op dbl rd ra rb) →
      let n := if dbl then 8 else 4
      let a := x.rg ra
      isSva a.toNat = false →
      (∀ e, checkAccess s0 x .atomic a n = .error e →
        exec (.atomic is op dbl rd ra rb up) s = .next (retireFault s s0 is (atomInsn op dbl rd ra rb) e)) ∧
      (checkAccess s0 x .atomic a n = .ok ps → anyWriteBusy s0 a.toNat n = false → queueHits x.storeQ a.toNat n = false →
        let r := memAtomic (invalLine s0 (spindleOf t) true (a.toNat / 64)) (.atomic t) a.toNat op dbl (x.rg rb) (x.rg rd)
        exec (.atomic is op dbl rd ra rb up) s =
          .next (if r.2.2 = true then retireFault s r.1 is (atomInsn op dbl rd ra rb) ⟨7, 0, a⟩
            else retire s (writeG r.1 t rd (if dbl then BitVec.ofNat 64 r.2.1 else sx32 (BitVec.ofNat 32 r.2.1))) is
              (atomInsn op dbl rd ra rb) none)))

/-- R69, R310–R314, R323: the cache instructions and fence. An invalidation by line looks it up and drops it, an address that is none
traps; one of a whole cache drops every line that no locked way holds, fence with A likewise but for lines of the own pan; fence waits for
what its set names; a prefetch of a readable line that misses requests it, and any other prefetch outside FILL_EN does nothing.
Where the rules leave a point open, it rests on the model's choices (assumption 27). -/
def Obligations.CacheInstructions : Prop :=
  ∀ (s : State) (is : Issue) (ra : Reg6) (imm : BitVec 14) (set : BitVec 6),
    let t := is.thr
    let n := spindleOf t
    let ea := (s.thr t).rg ra + imm.signExtend 64
    let line := ea.toNat / 64
    (∀ (d : Bool) (i : Insn) (c : Instr), (d = false ∧ i = cacheInsn 0 ra imm ∧ c = .icinvL is ra imm) ∨
        (d = true ∧ i = cacheInsn 2 ra imm ∧ c = .dcinvL is ra imm) → Issues s is i →
      exec c s = .next (if badAddr .load ⟨ea.toNat, 1⟩ then retireFault s s is i ⟨3, 0, ea⟩ else
        let s1 := checkTags s n d (line % 256)
        retire s (s1.setCache n d ((s1.cache n d).inval line)) is i none)) ∧
    (Issues s is (cacheInsn 1 0 0) → ∃ s1, exec (.icinvAll is) s = .next (retire s s1 is (cacheInsn 1 0 0) none) ∧
      Invalidated s s1 n false (fun _ => false)) ∧
    (Issues s is (cacheInsn 3 0 0) → ∃ s1, exec (.dcinvAll is) s = .next (retire s s1 is (cacheInsn 3 0 0) none) ∧
      Invalidated s s1 n true (fun _ => false)) ∧
    (Issues s is (soloInsn 0x10 set.toNat) → set.getLsbD 4 = false → set.getLsbD 5 = false →
      (set.getLsbD 0 = true → missCount s t = 0) → (set.getLsbD 1 = true → (s.thr t).storeQ = []) → (set.getLsbD 3 = true → matrixReadsDone s t = true) →
      ∃ s1, exec (.fence is set) s = .next (retire s s1 is (soloInsn 0x10 set.toNat) none) ∧
        (if set.getLsbD 2 then Invalidated s s1 n true (inOwnPan n) else s1 = s)) ∧
    (∀ (d : Bool) (i : Insn) (c : Instr), (d = true ∧ i = cacheInsn 4 ra imm ∧ c = .pfD is ra imm) ∨
        (d = false ∧ i = cacheInsn 5 ra imm ∧ c = .pfI is ra imm) → Issues s is i →
      (∀ e, checkAccess s (s.thr t) (if d then .load else .exec) (BitVec.ofNat 64 (line * 64)) 64 = .error e →
        exec c s = .next (retire s s is i none)) ∧
      (∀ ps s1 way, checkAccess s (s.thr t) (if d then .load else .exec) (BitVec.ofNat 64 (line * 64)) 64 = .ok ps →
        isDevice ea.toNat = true → cacheable ea.toNat = true → l1Find s n d line false = (s1, none, way) →
        let way' := if fillEn s1 n d then some (fillWay s n d) else way
        exec c s = .next (retire s (l1Request s1 n d { line := line, thr := none, prefetch := true, way := way', drop := false }) is i none)) ∧
      (∀ ps s1 w way, checkAccess s (s.thr t) (if d then .load else .exec) (BitVec.ofNat 64 (line * 64)) 64 = .ok ps →
        isDevice ea.toNat = true → cacheable ea.toNat = true → l1Find s n d line false = (s1, some w, way) → fillEn s n d = false →
        exec c s = .next (retire s s1 is i none)))

/-- R308, R311, R314, R331: the data of a line request returns from the line's home, found under the regions that its request found, and
is allocated unless the fill was dropped or a byte is Deferred; while its row is copied the fill stays outstanding; a write of an L1's control register sets its fields, and a disabled way holds no line.
Where the rules leave a point open, it rests on the model's choices (assumption 29). -/
def Obligations.CacheFillsAndControls : Prop :=
  ∀ (s : State) (sp : SpindleId) (d : Bool) (line : Nat) (up : List Upset) (f : Fill),
    let s0 := strikes s up
    let c := s0.cache sp d
    s.stopped = false →
    ((s.cache sp d).fills.find? (fun g => decide (g.line = line)) = some f →
      let busy := (underMapping s0 f.map (fun z => (z, anyRowBusy z (64 * line) 64))).2
      let r := underMapping (s0.setCache sp d { c with fills := c.fills.erase f }) f.map (fun z => memRead z (.fill sp) 0 (64 * line) 64)
      exec (.lineFill sp d line up) s =
        .next (settle (if busy then s0 else
          if f.drop = true ∨ r.2.any (·.2) = true then r.1 else allocate r.1 sp d f (lineOf (r.2.map (·.1)))))) ∧
    (∀ (who : Agent) (v : Word), reaches s who (ctlOff sp d) = true →
      Leaves (.l1CtlWrite who sp d true false v) s (fun u =>
        u.reg (ctlOff sp d) = s.reg (ctlOff sp d) &&& ~~~0x1F77 ||| (v &&& 0x1F77) ∧ SameMem u s ∧ u.threads = s.threads ∧
        ∀ k, SMap.get none (u.cache sp d).lines k =
          if v.getLsbD (9 + k % 4) then none else SMap.get none (s.cache sp d).lines k))

/-- R112–R115, R132, R134, R264: at a boundary the thread enters the handler of its takeable line of highest priority (32 + line),
of a pending BEAT_OVERRUN (14) or MATRIX_ERROR (15); a timer whose compare value is due leaves the timebase at that value.
Where the rules leave a point open, it rests on the model's choices (assumption 12). -/
def Obligations.EventEntries : Prop :=
  ∀ (s : State) (t : Thr),
    let x := s.thr t
    (∀ (w : Bool) (i : Nat), x.run ≠ .halted → (x.run = .running → x.host = []) → x.overrun = none → x.matErr = [] → EntersFrom s t w →
      lowestLine (takeable s x w) = some i → (w = false → lowestLine (takeable s x true) = none) →
      ∃ r, exec (.takeInterrupt t) s = .next r ∧ AtHandler r t w (32 + i)) ∧
    (∀ n, (x.run = .running ∧ x.host = [] ∨ x.run = .stalled) → x.overrun = some n → x.inh x.world = false → EntersFrom s t x.world →
      ∃ r, exec (.takeBeatOverrun t) s = .next r ∧ AtHandler r t x.world 14 ∧ (r.thr t).overrun = none) ∧
    ((x.run = .running ∧ x.host = [] ∨ x.run = .stalled) → x.overrun = none → (∃ q, (x.world, q) ∈ x.matErr) → x.inh x.world = false →
      EntersFrom s t x.world →
      ∃ r, exec (.takeMatrixError t) s = .next r ∧ AtHandler r t x.world 15 ∧ ∀ q, (x.world, q) ∉ (r.thr t).matErr) ∧
    (∀ sealed : Bool, x.bcr sealed 0x110 ≠ 0 →
      exec (.timerInterrupt t sealed) s = .next (wakeWfi (elapseTo s (x.bcr sealed 0x110)) t))

/-- R100, R101: after reset every thread is HALTED; START runs a halted Open thread at its TPC as an Open supervisor, and is ignored on a thread
that is not halted; HALT stops it there, TPC taking its PC, but while its host accesses are outstanding the HALT waits for them, and
is carried out when the thread has none left.
Where the rules leave a point open, it rests on the model's choices (assumption 26). -/
def Obligations.StartAndHalt : Prop :=
  ∀ (s : State) (t : Thr),
    let x := s.thr t
    let tpc := R.SPINDLE_TPC (spindleOf t) (threadIn t)
    (State.reset.thr t).run = .halted ∧
    (x.run ≠ .halted → exec (.start t) s = .next s) ∧
    (x.run = .halted → x.world = false → (s.reg R.MC_FENCED).getLsbD (spindleOf t).val = false → gemmBusy s = false →
      let pc := BitVec.ofNat 48 (s.fld tpc F.SPINDLE_TPC_PC * 4)
      exec (.start t) s = .next (s.setThr t { x with run := .running, pc := pc, world := false, level := true, group := none })) ∧
    (hostBusy x = true → exec (.halt t) s = .next (s.updThr t (fun y => { y with haltReq := true }))) ∧
    haltDue s t = (if x.haltReq = true ∧ hostBusy x = false then haltNow s t else s) ∧
    (x.run ≠ .halted → x.world = false → x.tx = none → x.group = none → hostBusy x = false →
      ∃ r, exec (.halt t) s = .next r ∧
        r.thr t = { x with run := .halted, group := none, wait := .none, misses := [], host := [], satAt := none, haltReq := false } ∧
        r.reg tpc = x.pc.setWidth 64 ∧ SameMem r s ∧ ∀ u, u ≠ t → r.thr u = s.thr u)

/-! ### The vector unit -/

/-- R190: vcfg sets the span and the element type, VL to the least of ga, 4,096 and the group's capacity, which gd takes, and both
policies.
Where the rules leave a point open, it rests on the model's choices (assumption 37). -/
def Obligations.VectorConfiguration : Prop :=
  ∀ (s : State) (is : Issue) (rd ra : Reg6) (span : BitVec 2) (etype : BitVec 4) (mpol tpol : Bool),
    let i := vecInsn (vspec 0 (boolNat tpol * 2 ^ 25 + boolNat mpol * 2 ^ 24 + etype.toNat * 2 ^ 20 + span.toNat * 2 ^ 18 + ra.toNat * 2 ^ 12 +
      rd.toNat * 2 ^ 6)) [ra.toNat] [rd.toNat] false
    let vl := min ((s.thr is.thr).rg ra).toNat (min 4096 (2 ^ span.toNat * 32768 / (elemTy etype.toNat).width))
    Issues s is i →
    exec (.vcfg is rd ra span etype mpol tpol) s =
      .next (retire s (s.setThr is.thr (((s.thr is.thr).setUcr 0x040 (BitVec.ofNat 64 (vl + span.toNat * 2 ^ 13 + etype.toNat * 2 ^ 16 +
        boolNat mpol * 2 ^ 20 + boolNat tpol * 2 ^ 21))).wg rd (BitVec.ofNat 64 vl))) is i none)

/-- R188, R191, R192, R198–R202, R222, R225, R227, R228: an element-wise instruction that runs completes: its groups in order, from
VRES if that is valid, each taking its elements' results, and the destination's tail; so do the conversions to and from Ply-F8 and
Ply-I4, block by block.
Where the rules leave a point open, it rests on the model's choices (assumptions 34, 35, 36, 37 and 43). -/
def Claims.VectorElementwise : Prop :=
  (∀ (s : State) (c : Instr) (vi : VIssue) (i : Insn) (e : EwOp),
    ewCase s c = some (vi, i, e) → Issues s vi.is i → VecRuns s vi e.form →
    ∃ u, allGroups s vi.is.thr e.form (ewGroup vi.is.thr e) = some u ∧ exec c s = .next (retire s u vi.is i none)) ∧
  (∀ (s : State) (vi : VIssue) (mg : BitVec 3) (vd va : VReg),
    let t := vi.is.thr
    let x := s.thr t
    let enc (f8 : Bool) := plyForm (vcfgOf x) f8 va vd
    let dec (f8 : Bool) := plyForm (vcfgOf x) f8 vd va
    let insn (f : Nat) (dty sty : Nat) := vecInsn (vun f mg dty sty vd va) [] [] true
    let runs (i : Insn) (f : VForm) (grp : VCfg → Nat → State → GroupRes) (c : Instr) :=
      Issues s vi.is i → VecRuns s vi f → ∃ u, allGroups s t f grp = some u ∧ exec c s = .next (retire s u vi.is i none)
    runs (insn 8 4 1) ((enc true).form (vcfgOf x) true) (encGroup t (enc true) mg) (.vplyEncf8 vi mg 4 1 vd va) ∧
    runs (insn 9 14 1) ((enc false).form (vcfgOf x) true) (encGroup t (enc false) mg) (.vplyEnci4 vi mg 14 1 vd va) ∧
    runs (insn 10 1 4) ((dec true).form (vcfgOf x) false) (decGroup t (dec true) mg) (.vplyDecf8 vi mg 1 4 vd va) ∧
    runs (insn 11 1 14) ((dec false).form (vcfgOf x) false) (decGroup t (dec false) mg) (.vplyDeci4 vi mg 1 14 vd va))

/-- R191, R192: one group of an element-wise instruction writes exactly its own elements of the destination: the result where the
element is active, zero or the old value where the mask governs it off, and the old value from VL on; no other vector or general
register and no byte of memory changes.
Where the rules leave a point open, it rests on the model's choices (assumption 43). -/
def Claims.VectorGroupElements : Prop :=
  ∀ (s z : State) (t : Thr) (e : EwOp) (c : VCfg) (k : Nat),
    let x := s.thr t
    let n := 8192 / e.form.wmax
    let span := e.dst.span c e.form.wmax
    e.form.wmax ∈ [4, 8, 16, 32, 64] → e.dst.w ∈ [4, 8, 16, 32, 64] → e.dst.w ≤ e.form.wmax → c.sp ∈ [1, 2, 4, 8] → e.dst.one = false →
    e.dst.base + span ≤ 32 → (k + 1) * n ≤ span * 32768 / e.dst.w → ewGroup t e c k s = .ok z →
    (∀ i, i < span * 32768 / e.dst.w → vecElem (z.thr t) e.dst.base span e.dst.w i =
      if k * n ≤ i ∧ i < (k + 1) * n ∧ i < c.vl then
        (if active x c e.mg i then
            (e.fn i (e.form.srcs.map (fun o => vecElem x o.base (o.span c e.form.wmax) o.w i))).bits % 2 ^ e.dst.w
          else if c.mpol then 0 else vecElem x e.dst.base span e.dst.w i)
      else vecElem x e.dst.base span e.dst.w i) ∧
    (∀ r : Fin 32, ¬(e.dst.base ≤ r.val ∧ r.val < e.dst.base + span) → (z.thr t).v[r] = x.v[r]) ∧ (z.thr t).g = x.g ∧ (z.thr t).m = x.m ∧
    SameMem z s ∧ z.regs = s.regs ∧ ∀ u, u ≠ t → z.thr u = s.thr u

/-- R199, R229: the integer results of the VV and VS groups, at every element width.
Where the rules leave a point open, it rests on the model's choices (assumption 38). -/
def Claims.VectorIntegerResults : Prop :=
  ∀ w : Nat, w ∈ [8, 16, 32, 64] → ∀ (a b : BitVec w) (f : BitVec 4), f ≠ 4 →
    vvFn (.int true w) .rne f.toNat a.toNat b.toNat = { bits := (vvWord f.toNat a b).toNat, fl := 0 }

/-- `Claims.VectorElementwise` and `Claims.VectorGroupElements` and `Claims.VectorIntegerResults` hold, all three. -/
def Obligations.VectorElements : Prop := Claims.VectorElementwise ∧ Claims.VectorGroupElements ∧ Claims.VectorIntegerResults

/-- R221–R223: an element-wise instruction that a takeable interrupt, a pending overrun or a HALT stops at the boundary before group `k` keeps its PC and leaves `k` in VRES,
valid; its groups below `k` are done, and SPINDLE.VSTOPS counts it. As slot B of an open group it leaves slot A issued alone.
Where the rules leave a point open, it rests on the model's choices (assumption 43). -/
def Obligations.VectorStops : Prop :=
  ∀ (s : State) (c : Instr) (vi : VIssue) (i : Insn) (e : EwOp) (k : Nat),
    let x := s.thr vi.is.thr
    let st := startGroup x
    ewCase s c = some (vi, i, e) → Issues s vi.is i → vi.stop = some k → stopCause s vi.is.thr = true → st < k →
    k < groupCount (vcfgOf x) e.form.wmax → vecReason (vcfgOf x) e.form = none → vecHeld s vi.is.thr (vcfgOf x) e.form = false →
    ∃ u, groupsFrom vi.is.thr (ewGroup vi.is.thr e (vcfgOf x)) (k - st) st s = some u ∧
      let r := (u.bump (R.SPINDLE_VSTOPS (spindleOf vi.is.thr)) 1).updThr vi.is.thr
        (fun y => y.setUcr 0x041 (BitVec.ofNat 64 (k % 2 ^ 32 + 2 ^ 32)))
      exec c s = .next (notReady s r vi.is.thr) ∧ (x.group = none → exec c s = .next r)

/-- R205–R213, R223: a vector load, a vector store and a vchain complete when every group does: each group's checks, translations
and reads pass for all its active elements.
Where the rules leave a point open, it rests on the model's choices (assumptions 43 and 44). -/
def Obligations.VectorMemory : Prop :=
  ∀ (s : State) (vi : VIssue) (mode : Fin 3) (mg : BitVec 3) (w : BitVec 2) (b ga : Reg6) (vd : VReg) (up : List Upset) (u : State),
    let t := vi.is.thr
    let n := 2 ^ w.toNat
    let s0 := strikes s up
    let insn (store : Bool) : Insn := { vecInsn (vmemWord store mode.val mg w b ga vd.toNat) (vmemReads mode b ga) [] true with vmem := true }
    let word (store : Bool) := (insn store).word
    (Issues s vi.is (insn false) → vmemOk mode b = true → VecRuns s0 vi (vmemForm mode n b vd false) →
      allGroups s0 t (vmemForm mode n b vd false) (vloadGroup t (vmemForm mode n b vd false) mode mg n b ga vd (word false)) = some u →
      exec (.vload vi mode mg w b ga vd up) s = .next (retire s u vi.is (insn false) none)) ∧
    (Issues s vi.is (insn true) → vmemOk mode b = true → VecRuns s0 vi (vmemForm mode n b vd true) →
      allGroups s0 t (vmemForm mode n b vd true) (vstoreGroup t (vmemForm mode n b vd true) mode mg n b ga vd (word true)) = some u →
      exec (.vstore vi mode mg w b ga vd up) s = .next (retire s u vi.is (insn true) none)) ∧
    (∀ (p : Part) (s1 : State) (bs : List (Byte × Bool)),
      let i : Insn := { vecInsn (vmemWord false 3 mg 0 0 ga 0) (ga.toNat :: chainReads s t ga) [] true with vmem := true }
      let x := s1.thr t
      let d := parseChain (bs.map (·.1))
      let ks := d.k.map (fun r => (x.rg (BitVec.ofNat 6 r)).toNat % 2 ^ (elemTy d.wtype).width)
      let e : EwOp := EwOp.mk (chainForm d) ⟨d.vd, (elemTy d.dtype).width, false⟩ mg (fun _ l => chainFn d (dynRm x) (x.satAt.getD (satOn s1 x)) ks l)
      Issues s vi.is i → vecAccess s0 (s0.thr t) .load ((s0.thr t).rg ga) 64 = .ok p → isSva p.ea = false → loadWaits s0 t [p] = false →
      l1Load s0 t [p] = (s1, bs) → bs.any (·.2) = false → chainFault d = none → VecRuns s1 vi e.form →
      ∃ u, allGroups s1 t e.form (ewGroup t e) = some u ∧ exec (.vchain vi mg ga up) s = .next (retire s u vi.is i none))

/-- R192, R203, R204: vcmp sets bit `i` of md by the condition for an active element below VL, by MPOL for a masked-off one, and
clears the bits from VL on; the mask operations act on all 4,096 bits; mfromv and mtov copy 512 bytes.
Where the rules leave a point open, it rests on the model's choices (assumptions 42 and 45). -/
def Obligations.VectorMasks : Prop :=
  ∀ (s : State) (is : Issue) (md ma mb mg : BitVec 3) (va vd : VReg),
    let t := is.thr
    let x := s.thr t
    let counted := s.bump (R.SPINDLE_VGROUPS (spindleOf t)) 1
    (∀ (f : Fin 7) (ty : BitVec 4) (sc : Bool) (b : Reg6),
      let c := vcfgOf x
      let w := (elemTy ty.toNat).width
      let i := vecInsn (vcmpWord f.val mg ty.toNat b.toNat va.toNat sc md) (if sc then [b.toNat] else []) [] false
      let fm : VForm := VForm.mk w [] (if sc then [⟨va.toNat, w, false⟩] else [⟨va.toNat, w, false⟩, ⟨b.toNat, w, false⟩]) false [] false false false
      Issues s is i → is4bit ty = false → (sc = true ∨ b.toNat < 32) → WholeRuns s t fm →
      ∃ u, exec (.vcmp is f mg ty sc b va md) s = .next (retire s u is i none) ∧
        (∀ j, j < 4096 → ((u.thr t).m[md.toFin]).getLsbD j =
          if j < c.vl then
            (if active x c mg j then
              (cmpElem (elemTy ty.toNat) f.val (vecElem x va.toNat c.sp w j)
                (if sc then (x.rg b).toNat % 2 ^ w else vecElem x b.toNat c.sp w j)).1
            else !c.mpol && (x.m[md.toFin]).getLsbD j)
          else false) ∧
        (∀ k : Fin 8, k ≠ md.toFin → (u.thr t).m[k] = x.m[k]) ∧ (u.thr t).v = x.v ∧ (u.thr t).g = x.g ∧ SameMem u s) ∧
    (∀ f : Fin 5,
      let i := vecInsn (vcmpWord (8 + f.val) 0 0 mb.toNat ma.toNat false md) [] [] false
      let a := x.m[ma.toFin]
      let b := x.m[mb.toFin]
      let v := match f with | 0 => a &&& b | 1 => a ||| b | 2 => a ^^^ b | 3 => a &&& ~~~b | 4 => ~~~a
      Issues s is i →
      exec (.maskOp is f md ma mb) s = .next (retire s (counted.setThr t { x with m := x.m.set md.toFin v }) is i none)) ∧
    (let i := vecInsn (vcmpWord 14 0 0 0 va.toNat false md) [] [] false;
      Issues s is i → vecHeldRegs s t [] [(va.toNat, 1)] = false →
      exec (.mfromv is md va) s =
        .next (retire s (counted.setThr t { x with m := x.m.set md.toFin ((x.v[va.toFin]).setWidth 4096) }) is i none)) ∧
    (let i := vecInsn (vcmpWord 15 0 0 0 vd.toNat false ma) [] [] false;
      let new := (x.v[vd.toFin]) >>> 4096 <<< 4096 ||| (x.m[ma.toFin]).setWidth 32768;
      Issues s is i → vecHeldRegs s t [(vd.toNat, 1)] [] = false →
      exec (.mtov is vd ma) s =
        .next (retire s (counted.setThr t { x with v := x.v.set vd.toFin new }) is i none))

/-- R214–R220: a reduction leaves its value in gd and the summary word in g(d + 1); mred counts the mask's set bits among the active
elements.
Where the rules leave a point open, it rests on the model's choices (assumptions 38, 39 and 42). -/
def Claims.VectorReductions : Prop :=
  ∀ (s : State) (is : Issue) (mg : BitVec 3) (va : VReg) (ma : BitVec 3) (gd : Reg6),
    let t := is.thr
    let x := s.thr t
    let c := vcfgOf x
    gd.toNat % 2 = 0 →
    (∀ (f : Fin 9) (ty : BitVec 4),
      let w := (elemTy ty.toNat).width
      let i := vecInsn (f.val * 2 ^ 24 + mg.toNat * 2 ^ 21 + ty.toNat * 2 ^ 17 + va.toNat * 2 ^ 12 + gd.toNat * 2 ^ 6 + 0x35) []
        [gd.toNat, gd.toNat + 1] false
      let els := (List.range c.vl).map (fun j => (vecElem x va.toNat c.sp w j, active x c mg j))
      let r := redOf (elemTy ty.toNat) (dynRm x) f.val els
      Issues s is i → is4bit ty = false → isFp8 ty = false → (∀ g, elemTy ty.toNat = .float g → f.val < 6) →
      WholeRuns s t (VForm.mk w [] [⟨va.toNat, w, false⟩] false [] false false false) →
      ∃ u sum, exec (.vred is f mg ty va gd) s = .next (retire s u is i none) ∧
        (u.thr t).g = ((x.wg gd r.val).wg (gd + 1) sum).g ∧ sum.toNat % 2 ^ 13 = els.countP (·.2) ∧
        sum.getLsbD 13 = els.all (fun e => !e.2) ∧ sum.getLsbD 16 = r.sumv ∧ sum.getLsbD 17 = r.mmv ∧ sum.getLsbD 19 = r.sat ∧
        (u.thr t).v = x.v ∧ (u.thr t).m = x.m ∧ SameMem u s) ∧
    (let i := vecInsn (9 * 2 ^ 24 + mg.toNat * 2 ^ 21 + ma.toNat * 2 ^ 12 + gd.toNat * 2 ^ 6 + 0x35) [] [gd.toNat, gd.toNat + 1] false;
      Issues s is i →
      ∃ u sum, exec (.mred is mg ma gd) s = .next (retire s u is i none) ∧
        (u.thr t).g = ((x.wg gd (BitVec.ofNat 64
          ((List.range c.vl).countP (fun j => active x c mg j && (x.m[ma.toFin]).getLsbD j)))).wg (gd + 1) sum).g ∧
        sum.toNat % 2 ^ 13 = (List.range c.vl).countP (fun j => active x c mg j) ∧ (u.thr t).v = x.v ∧ SameMem u s)

/-- R216–R218: the integer reductions: the exact sum and product, clamped to 64 bits with SAT, and the extremes.
Where the rules leave a point open, it rests on the model's choices (assumption 38). -/
def Claims.ReductionResults : Prop :=
  ∀ (w : Nat) (sg : Bool) (els : List Nat), w ∈ [8, 16, 32, 64] →
    let xs := els.map (intVal sg w)
    let clamped (i : Int) : RedRes :=
      if intMin sg 64 ≤ i ∧ i ≤ intMax sg 64 then { val := BitVec.ofInt 64 i, sumv := true }
      else { val := BitVec.ofInt 64 (if i < 0 then intMin sg 64 else intMax sg 64), sat := true }
    redInt sg w 0 els = clamped xs.sum ∧ redInt sg w 1 els = clamped xs.prod ∧
    (xs ≠ [] → ∃ a ∈ xs, (redInt sg w 2 els).val = BitVec.ofInt 64 a ∧ ∀ b ∈ xs, b ≤ a) ∧
    (xs ≠ [] → ∃ a ∈ xs, (redInt sg w 3 els).val = BitVec.ofInt 64 a ∧ ∀ b ∈ xs, a ≤ b)

/-- `Claims.VectorReductions` and `Claims.ReductionResults` hold, both. -/
def Obligations.VectorReductionResults : Prop := Claims.VectorReductions ∧ Claims.ReductionResults

/-- R192, R224, R226, R229: broadcast, element move, permutes, prefix sums and buckets: each element of the destination below VL and
active takes the named value, the others follow MPOL and TPOL, and nothing but the destination and the group count changes.
Where the rules leave a point open, it rests on the model's choices (assumptions 40, 41 and 43). -/
def Obligations.VectorPermutes : Prop :=
  ∀ (s : State) (is : Issue) (ty : BitVec 4) (vd va vb : VReg) (gb gd : Reg6) (ma mg : BitVec 3),
    let t := is.thr
    let x := s.thr t
    let c := vcfgOf x
    let w := (elemTy ty.toNat).width
    let fm (srcs : List Opnd) (wm : Nat) (strict : Bool) : VForm := VForm.mk wm [⟨vd.toNat, w, false⟩] srcs strict [] false false false
    let writes (cmd : Instr) (i : Insn) (f : VForm) (m : BitVec 3) (vals : Nat → Nat) : Prop :=
      let span := max 1 (c.sp * w / f.wmax)
      Issues s is i → WholeRuns s t f → vd.toNat + span ≤ 32 → c.sp ∈ [1, 2, 4, 8] →
      ∃ u, exec cmd s = .next (retire s u is i none) ∧ WritesElements x (u.thr t) c m vd.toNat span w vals ∧
        OnlyVRegs x (u.thr t) vd.toNat span ∧ SameMem u s ∧ ∀ r, r ≠ t → u.thr r = s.thr r
    let src (i : Nat) : Nat := vecElem x va.toNat c.sp w i
    let picked := (List.range c.vl).filter (fun i => (x.m[ma.toFin]).getLsbD i)
    (∀ stop : Option Nat,
      let i := vecInsn (vspec 1 (ty.toNat * 2 ^ 22 + gb.toNat * 2 ^ 16 + vd.toNat * 2 ^ 6)) [gb.toNat] [] true
      let e := ewOf vd w [] 0 (fun _ => { bits := (x.rg gb).toNat % 2 ^ w })
      Issues s is i → VecRuns s { is := is, stop := stop } e.form →
      ∃ u, allGroups s t e.form (ewGroup t e) = some u ∧ exec (.vbcast { is := is, stop := stop } ty gb vd) s = .next (retire s u is i none)) ∧
    writes (.vcompress is ty ma vd va) (vecInsn (vspec 3 (ty.toNat * 2 ^ 22 + ma.toNat * 2 ^ 16 + va.toNat * 2 ^ 11 + vd.toNat * 2 ^ 6)) [] [] false)
      (fm [⟨va.toNat, w, false⟩] w true) 0 (fun i => match picked[i]? with | some j => src j | none => 0) ∧
    writes (.vperm is ty vd va vb) (vecInsn (vspec 4 (ty.toNat * 2 ^ 22 + vb.toNat * 2 ^ 16 + va.toNat * 2 ^ 11 + vd.toNat * 2 ^ 6)) [] [] false)
      (fm [⟨va.toNat, w, false⟩, ⟨vb.toNat, 32, false⟩] (max w 32) true) 0
      (fun i =>
        let j := vecElem x vb.toNat (max 1 (c.sp * 32 / max w 32)) 32 i
        if j < c.vl then vecElem x va.toNat (max 1 (c.sp * w / max w 32)) w j else 0) ∧
    writes (.vslidedn is ty gb vd va) (vecInsn (vspec 5 (ty.toNat * 2 ^ 22 + gb.toNat * 2 ^ 16 + va.toNat * 2 ^ 11 + vd.toNat * 2 ^ 6)) [gb.toNat] [] false)
      (fm [⟨va.toNat, w, false⟩] w true) 0
      (fun i => if i + (x.rg gb).toNat < c.sp * 32768 / w then src (i + (x.rg gb).toNat) else (Config.freeWord (s.free + i)).toNat) ∧
    writes (.vslideup is ty gb vd va) (vecInsn (vspec 6 (ty.toNat * 2 ^ 22 + gb.toNat * 2 ^ 16 + va.toNat * 2 ^ 11 + vd.toNat * 2 ^ 6)) [gb.toNat] [] false)
      (fm [⟨va.toNat, w, false⟩] w true) 0 (fun i => if (x.rg gb).toNat ≤ i then src (i - (x.rg gb).toNat) else 0) ∧
    ((∃ sg, elemTy ty.toNat = .int sg w) →
      writes (.vscanAdd is ty mg vd va) (vecInsn (vspec 7 (ty.toNat * 2 ^ 22 + mg.toNat * 2 ^ 16 + va.toNat * 2 ^ 11 + vd.toNat * 2 ^ 6)) [] [] false)
        (fm [⟨va.toNat, w, false⟩] w true) mg
        (fun i => (((List.range (i + 1)).filter (fun j => active x c mg j)).map src).sum)) ∧
    (let i := vecInsn (vspec 2 (ty.toNat * 2 ^ 23 + gb.toNat * 2 ^ 17 + va.toNat * 2 ^ 12 + gd.toNat * 2 ^ 6)) [gb.toNat] [gd.toNat] false;
      Issues s is i → WholeRuns s t (VForm.mk w [] [⟨va.toNat, w, false⟩] false [] false false false) →
      exec (.vmvx is ty gb va gd) s =
        .next (retire s (writeG (s.bump (R.SPINDLE_VGROUPS (spindleOf t)) 1) t gd
          (if (x.rg gb).toNat < c.vl then elemWord (elemTy ty.toNat) (src (x.rg gb).toNat) else 0)) is i none)) ∧
    (let i := vecInsn (vspec 11 (mg.toNat * 2 ^ 22 + gb.toNat * 2 ^ 16 + va.toNat * 2 ^ 11 + vd.toNat * 2 ^ 6)) [gb.toNat] [] false;
      let g := x.rg gb;
      let pos := g.toNat / 2 ^ 32 % 32;
      let key (j : Nat) : Nat := vecElem x va.toNat c.sp 32 j;
      let weight (j : Nat) : Nat := vecElem x (va.toNat + c.sp) c.sp 32 j;
      let hits (d : Nat) := (List.range c.vl).filter (fun j => active x c mg j &&
        decide (key j / 2 ^ (pos + 4) = g.toNat % 2 ^ 32 / 2 ^ (pos + 4) ∧ key j / 2 ^ pos % 16 = d));
      Issues s is i → pos % 4 = 0 → pos ≤ 28 → va.toNat + 2 * c.sp ≤ 32 →
      WholeRuns s t (VForm.mk 32 [⟨vd.toNat, 64, true⟩] [⟨va.toNat, 32, false⟩, ⟨va.toNat + c.sp, 32, false⟩] true [] false false false) →
      ∃ u, exec (.vbucket is mg gb vd va) s = .next (retire s u is i none) ∧
        (∀ j, j < 512 → vecElem (u.thr t) vd.toNat 1 64 j =
          if 32 ≤ j then vecElem x vd.toNat 1 64 j
          else ((if g.getLsbD 37 then 0 else vecElem x vd.toNat 1 64 j) +
            (if j < 16 then (hits j).length else ((hits (j - 16)).map weight).sum)) % 2 ^ 64) ∧
        OnlyVRegs x (u.thr t) vd.toNat 1 ∧ SameMem u s)
/-! ### The matrix unit and the drain paths -/

/-- R235, R238, R249, R250, R254, R256, R259: mop and mop.acc enter their queue, and the tiles that they fill become FILLING, which
keeps their contents and their owner; no memory, no register of a thread and no other Spindle changes.
Where the rules leave a point open, it rests on the model's choices (assumption 46). -/
def Obligations.MopIssue : Prop :=
  ∀ (s : State) (is : Issue) (af wf : BitVec 4) (shape : BitVec 2) (pair wide : Bool) (j : TileId) (ga gb : Reg6) (mf : MopFmt),
    let n := spindleOf is.thr
    let m (accum : Bool) := mopOf s is accum af wf shape pair wide j ga gb
    let i (accum : Bool) := mopInsn accum af wf shape pair wide j ga gb
    (Issues s is (i false) → MopIssues s is (m false) mf →
      ∃ u, exec (.mop is af wf shape pair wide j ga gb) s = .next (retire s u is (i false) none) ∧ MopEntered s u n (m false)) ∧
    (Issues s is (i true) → MopIssues s is (m true) mf →
      ∃ u, exec (.mopAcc is af wf shape pair wide j ga gb) s = .next (retire s u is (i true) none) ∧ MopEntered s u n (m true))

/-- R237, R242, R251, R252, R263: the mop at the head of its array's queue starts when nothing holds it and its tiles take its sums;
at its completion it leaves the queue, is counted, and publishes its events and, tile by tile, its flags and states.
Where the rules leave a point open, it rests on the model's choices (assumptions 46, 47, 48 and 51). -/
def Claims.MopWork : Prop :=
  ∀ (s : State) (sp : SpindleId) (arr : Fin 2) (up : List Upset) (mis : List Mismatch) (m : Mop),
    s.stopped = false → headMop (s.mx sp) arr = some m →
    (mayStart (s.mx sp) m = true → storesPassed s sp m = true → exec (.mopStart sp arr up mis) s = .next (settle (runMop (strikes s up) sp m mis))) ∧
    (m.started = true →
      Leaves (.mopComplete sp arr) s (fun u => (u.mx sp).mops = (s.mx sp).mops.filter (fun q => decide (q.id ≠ m.id)) ∧ u.mem = s.mem ∧
        (∀ j, (u.tile sp j).owner = (s.tile sp j).owner ∨ ((u.tile sp j).owner = none ∧ (s.tile sp j).releasing = true)) ∧
        (∀ j, (u.tile sp j).cells = (s.tile sp j).cells ∨ (u.tile sp j).cells = []) ∧
        ∀ j, j ∈ m.tiles → (u.mx sp).queuedOn j = [] → (s.tile sp j).releasing = false → (s.tile sp j).boundTo = none →
          (u.tile sp j).state = .full))

/-- R244, R269, R272, R274: an integer tile element is the sum of its K groups in order, clamped to 32 bits after each: an overwrite
starts from 0, an accumulation from the old value, a row that is not read adds 0, and K = 0 leaves the old value or 0.
Where the rules leave a point open, it rests on the model's choices (assumption 49). -/
def Claims.IntegerCells : Prop :=
  ∀ (level1 accum read : Bool) (af wf : Nat) (mf : MopFmt) (old lo : Nat) (as ws : List (Nat)) (scales : List Nat),
    mopFmt level1 af wf = some mf → mf.acc = .i32 → as.length = ws.length → old < 2 ^ 32 →
    let clamp (v : Int) : Int := if v < -2147483648 then -2147483648 else if 2147483647 < v then 2147483647 else v
    let val (t : ElemTy) (b : Nat) : Int := match t with | .int sg w => intVal sg w b | .float _ => 0
    let prods := List.zipWith (fun a w => if read then val mf.a a * val mf.w w else 0) as ws
    let sums := (chunksOf mf.g prods.length prods).map List.sum
    let r := cellRun mf false accum read old lo (as.map (opVal mf.a)) (ws.map (opVal mf.w)) scales
    sextNat r.1 32 = sums.foldl (fun v d => clamp (v + d)) (if accum then sextNat old 32 else 0)

/-- `Claims.MopWork` and `Claims.IntegerCells` hold, both. -/
def Obligations.MatrixWork : Prop := Claims.MopWork ∧ Claims.IntegerCells

/-- R245–R247: mfill waits while four fills are outstanding, a mop has yet to read its buffer, or stores of its thread have not passed the L1;
then it queues its copy, and a length of 0 does nothing; when its data has come, the buffer
holds the bytes of memory with their marks, and is ready unless another fill of it is outstanding.
Where the rules leave a point open, it rests on the model's choices (assumption 48). -/
def Obligations.Fills : Prop :=
  (∀ (s : State) (is : Issue) (a b : Bool) (ga gb : Reg6),
    let n := spindleOf is.thr
    let x := s.thr is.thr
    let len := fillLen (x.rg gb)
    let f : BufFill := BufFill.mk (threadIn is.thr) (sideOf a) (sideOf b) (x.rg ga).toNat len
    Issues s is (fillInsn a b ga gb) → mfillFault s is.thr (x.rg ga) len = none →
    let free := (s.mx n).fills.length < 4 ∧ x.storeQ = [] ∧
      ∀ m ∈ (s.mx n).mops, ¬(weightArr m.tile m.pair = sideOf a ∧ wBuf m.b = sideOf b ∧ mopDepth m.b ≠ 0)
    (¬free → x.group = none → exec (.mfill is a b ga gb) s = .next s) ∧
    (len = 0 → free → exec (.mfill is a b ga gb) s = .next (retire s s is (fillInsn a b ga gb) none)) ∧
    (len ≠ 0 → free →
      ∃ u, exec (.mfill is a b ga gb) s = .next (retire s u is (fillInsn a b ga gb) none) ∧ (u.mx n).fills = (s.mx n).fills ++ [f] ∧
        (u.mx n).buf = (s.mx n).buf ∧ u.mem = s.mem ∧ u.threads = s.threads)) ∧
  (∀ (s : State) (sp : SpindleId) (f : BufFill) (rest : List BufFill) (s1 : State) (bs : List (Byte × Bool)),
    s.stopped = false → (s.mx sp).fills = f :: rest → anyRowBusy s f.addr f.len = false → f.len ≤ 262144 →
    memRead s (.stream sp) 0 f.addr f.len = (s1, bs) →
    Leaves (.fillComplete sp) s (fun u => (u.mx sp).fills = rest ∧
      (∀ i, i < f.len → SMap.get 0 (u.mx sp).buf (bufKey f.arr f.buf i) = (bs.getD i (0, false)).1 ∧
        SMap.get false (u.mx sp).bufBad (bufKey f.arr f.buf i) = (bs.getD i (0, false)).2) ∧
      (∀ k, (∀ i, i < f.len → bufKey f.arr f.buf i ≠ k) → SMap.get 0 (u.mx sp).buf k = SMap.get 0 (s1.mx sp).buf k)))

/-- R186, R254, R255, R261, R268: tile ownership. mtake of an unowned tile gives it to the context and 1 to gd, of another's tile 0
alone; mrel of a tile without work frees it and discards its contents; mwait goes on when its condition holds; mstat reports the
tile, or only that it is owned; FREL releases the tile of a halted Open owner; a tile of another context raises TILE_OWN.
Where the rules leave a point open, it rests on the model's choices (assumption 53). -/
def Obligations.TileOwnership : Prop :=
  ∀ (s : State) (is : Issue) (j : TileId) (gd : Reg6) (c : Bool),
    let n := spindleOf is.thr
    let x := s.thr is.thr
    let y := s.tile n j
    let idleOrFull := (y.state = .idle ∨ y.state = .full) ∧ y.drain = none ∧ (s.mx n).queuedOn j = []
    (Issues s is (mctlInsn 0 false j 0 gd) →
      (y.owner = none → gemmBusy s = false →
        exec (.mtake is j gd) s = .next (retire s ((s.updTile n j (fun y => { y with owner := some (threadIn is.thr, x.world) })).setThr is.thr
          (((x.setUcr (0x034 + j.val) 0).setUcr (0x038 + j.val) 0).wg gd 1)) is (mctlInsn 0 false j 0 gd) none)) ∧
      (y.owner ≠ none →
        exec (.mtake is j gd) s = .next (retire s (writeG s is.thr gd (if owns s is.thr j = true ∧ y.releasing = false then 1 else 0)) is
          (mctlInsn 0 false j 0 gd) none))) ∧
    (Issues s is (mctlInsn 1 false j 0 0) →
      (owns s is.thr j = true → idleOrFull →
        ∃ u, exec (.mrel is j) s = .next (retire s u is (mctlInsn 1 false j 0 0) none) ∧ (u.tile n j).owner = none ∧
          (u.tile n j).state = .idle ∧ (u.tile n j).cells = [] ∧ (u.tile n j).releasing = false ∧ u.threads = s.threads ∧ u.mem = s.mem) ∧
      (owns s is.thr j = false →
        exec (.mrel is j) s = .next (retireFault s s is (mctlInsn 1 false j 0 0) ⟨10, 0, BitVec.ofNat 64 j.val⟩))) ∧
    (Issues s is (mctlInsn 3 c j 0 0) → owns s is.thr j = true →
      (if c then (s.mx n).queuedOn j = [] else y.state = .idle ∧ y.drain = none) →
      exec (.mwait is j c) s = .next (retire s s is (mctlInsn 3 c j 0 0) none)) ∧
    (Issues s is (mctlInsn 4 false j 0 gd) →
      exec (.mstat is j gd) s = .next (retire s (writeG s is.thr gd
        (if owns s is.thr j then tileWord s n j else if y.owner = none then 0 else 4)) is (mctlInsn 4 false j 0 gd) none)) ∧
    (∀ (sp : SpindleId) (k : Fin 4), s.stopped = false → (s.tile sp j).owner = some (k, false) → (s.thr (thrOf sp k)).run = .halted →
      exec (.frel sp j) s = .next (settle (settleTiles (s.updTile sp j (fun y => { y with releasing := true })) sp j))) ∧
    (∀ sp : SpindleId, s.stopped = false → (∀ k : Fin 4, (s.tile sp j).owner = some (k, false) → (s.thr (thrOf sp k)).run ≠ .halted) →
      exec (.frel sp j) s = .next (settle s))

/-- R279, R281, R288, R289, R292, R298: mdrain reads its program and queues the drain, at once ready on a tile that is not filling; the
drain starts when it stands first among its array's ready drains, the path is free and its owner's context is in the thread; at its end the tile is IDLE without contents and CR.TDSTAT
holds its status, valid.
Where the rules leave a point open, it rests on the model's choices (assumption 55). -/
def Obligations.Drains : Prop :=
  (∀ (s : State) (is : Issue) (j : TileId) (ga : Reg6) (s1 : State) (d1 : Drain),
    let n := spindleOf is.thr
    let x := s.thr is.thr
    let d : Drain := Drain.mk (threadIn is.thr) x.world x.level (rangesOf x x.world) (x.rg ga).toNat [] []
    Issues s is (mctlInsn 2 false j ga 0) → tileUsable s is.thr j = true → (x.rg ga).toNat % 64 = 0 → (s.tile n j).state ≠ .draining →
    (s.tile n j).drain = none → (s.tile n j).boundTo = none → x.storeQ = [] → programBusy s n j d = false → readProgram s n j d = (s1, d1) →
    ∃ u, exec (.mdrain is j ga) s = .next (retire s u is (mctlInsn 2 false j ga 0) none) ∧ (u.tile n j).drain = some d1 ∧
      (u.mx n).ready = (if (s.tile n j).state = .filling then (s1.mx n).ready else (s1.mx n).ready ++ [j]) ∧ u.mem = s1.mem) ∧
  (∀ (s : State) (sp : SpindleId) (j : TileId) (up : List Upset) (d : Drain),
    s.stopped = false → (s.tile sp j).drain = some d → (s.mx sp).ready.find? (fun k => decide (arrayOf k = arrayOf j)) = some j →
    ((s.tile sp j).state = .full ∨ (s.tile sp j).state = .idle) → drainHolds s sp d = false →
    pathBusy s sp j = false → matrixBusy s sp j d = false →
    exec (.drainStart sp j up) s = .next (settle (startDrain (strikes s up) sp j d))) ∧
  (∀ (s : State) (sp : SpindleId) (j : TileId) (g : Draining), s.stopped = false → (s.tile sp j).running = some g →
    deliveryHeld s sp g = false → (∀ d ∈ g.out, ∀ slot idx bits n bad, d ≠ .reel slot idx bits n bad) →
    Leaves (.drainComplete sp j) s (fun u => (u.tile sp j).state = .idle ∧ (u.tile sp j).cells = [] ∧ (u.tile sp j).running = none ∧
      ((u.thr (thrOf sp g.thr)).ucr (0x038 + j.val)).getLsbD 12 = true ∧
      ((u.thr (thrOf sp g.thr)).ucr (0x038 + j.val)).toNat % 16 = g.status % 16))

/-! ### Memory -/

/-- R9, R327: a store changes exactly the bytes it names, keeps the canonical form of memory, and a read finds them. -/
def Claims.MemoryBytes : Prop :=
  ∀ (s : State) (k : Nat) (data : List Byte), noKeys s = true →
    (∀ a, storedByte (storeBytes s k data) a = if k ≤ a ∧ a < k + data.length then data.getD (a - k) 0 else storedByte s a) ∧
    (SMap.wf 0 s.mem = true → SMap.wf 0 (storeBytes s k data).mem = true) ∧ (storeBytes s k data).regs = s.regs ∧
    (storeBytes s k data).threads = s.threads

/-- R233, R332: the layouts are one to one: a tile's elements on the 16,384 cells of its array in every shape, and the bytes of HBM
on stacks, pseudo-channels and local indices under the global interleave. -/
def Claims.Layouts : Prop :=
  (∀ shape : Nat, shape < 3 →
    (∀ r n, r < shapeRows shape → n < shapeCols shape → cellOf shape r n < 16384 ∧ elemOf shape (cellOf shape r n) = (r, n)) ∧
    (∀ c, c < 16384 → (elemOf shape c).1 < shapeRows shape ∧ (elemOf shape c).2 < shapeCols shape ∧
      cellOf shape (elemOf shape c).1 (elemOf shape c).2 = c)) ∧
  (∀ a, a < Config.hbmBytes →
    (globalPlace a).stack < 24 ∧ (globalPlace a).pch < 64 ∧ (globalPlace a).l < 4718592 ∧ (globalPlace a).b < 256 ∧
      globalAddr (globalPlace a) = a)

/-- `Claims.MemoryBytes` and `Claims.Layouts` hold, both. -/
def Obligations.MemoryAndLayouts : Prop := Claims.MemoryBytes ∧ Claims.Layouts

/-- R331, R334, R335, R342, R345: an access that reaches a stack is performed: a write is accepted, a read and an atomic return their
bytes; a write to a row or granule that is being copied waits there, with the regions under which it came, and changes no byte.
Where the rules leave a point open, it rests on the model's choices (assumption 56). -/
def Obligations.StackAccesses : Prop :=
  ∀ (s : State) (who : Agent) (addr len : Nat) (data : List Byte) (up : List Upset) (op : AtomOp) (dbl : Bool) (v w : Word),
    let s0 := strikes s up
    let m := if dbl then 8 else 4
    let a := addr / m * m
    s.stopped = false →
    (anyWriteBusy s0 addr (hbmLen addr data.length) = false →
      exec (.hbmWrite who addr data up) s = .next (settle (memWrite s0 (agentWho who) addr (data.take (hbmLen addr data.length))))) ∧
    (anyWriteBusy s0 addr (hbmLen addr data.length) = true →
      Leaves (.hbmWrite who addr data up) s (fun u => SameMem u s0 ∧
        (u.stack (stackOf (hbmPlace s0 addr))).held = (s0.stack (stackOf (hbmPlace s0 addr))).held ++
          [{ addr := addr, cmd := .hbmWrite who addr data [], map := mapping s0 }])) ∧
    (anyRowBusy s0 addr (hbmLen addr len) = false →
      let r := memRead s0 (agentWho who) 0 addr (hbmLen addr len)
      exec (.hbmRead who addr len up) s = .next (settle { r.1 with out := r.1.out ++ [.readData r.2] })) ∧
    (a + m ≤ Config.hbmBytes → anyWriteBusy s0 a m = false →
      let r := memAtomic s0 (agentWho who) a op dbl v w
      exec (.hbmAtomic who addr op dbl v w up) s =
        .next (settle { r.1 with out := r.1.out ++ [.readData ((leBytes m r.2.1).map (fun b => (b, r.2.2)))] }))

/-- R306, R336, R341: a flush empties the buffer of a stack that has not failed; entries of the age limit leave it; a scrub corrects
or marks the eight codewords or words at its pointer, moves no data, and advances the pointer.
Where the rules leave a point open, it rests on the model's choices (assumption 56). -/
def Obligations.BuffersAndScrubs : Prop :=
  ∀ (s : State) (k : StackId) (sp : SpindleId) (up : List Upset),
    let s0 := strikes s up
    s.stopped = false →
    ((∀ e ∈ (s0.stack k).wcb, e.bad = false) → s0.fld (R.MEM_STAT k) F.MEM_STAT_STATE ≠ 3 →
      (answers s0 (R.MEM_CTRL k) = true → Leaves (.flush k up) s (fun u => (u.stack k).wcb = [])) ∧
      Leaves (.wcbAgeFlush k up) s (fun u => ∀ e ∈ (u.stack k).wcb,
        e ∈ (s0.stack k).wcb ∧ u.now.toNat < e.since.toNat + s0.fld (R.MEM_WCCFG k) F.MEM_WCCFG_AGE)) ∧
    (s0.flag (R.MEM_CTRL k) F.MEM_CTRL_SCRUBEN = true → s0.fld (R.MEM_STAT k) F.MEM_STAT_STATE = 1 →
      ∀ l p, scrubSkip s0 k 65 (s0.fld (R.MEM_SCRUB k) F.MEM_SCRUB_PTRL, s0.fld (R.MEM_SCRUB k) F.MEM_SCRUB_PTRPCH) = some (l, p) →
      Leaves (.hbmScrub k up) s (fun u => u.mem = s.mem ∧
        (∀ i, i < 8 → SMap.get 0 u.errs ((Place.mk k.val p l 0).key + 32 * i) = 0) ∧
        (p < 64 → l < 4718592 → (u.fld (R.MEM_SCRUB k) F.MEM_SCRUB_PTRPCH = if p < 63 then p + 1 else 0) ∧
          u.fld (R.MEM_SCRUB k) F.MEM_SCRUB_PTRL = if p < 63 then l else if l + 1 < 4718592 then l + 1 else 0))) ∧
    (s0.flag (R.MEM_CTRL k) F.MEM_CTRL_SCRUBEN = false → exec (.hbmScrub k up) s = .next (settle s0)) ∧
    (s0.flag (R.SPINDLE_PANCFG sp) F.SPINDLE_PANCFG_SCRUBEN = true → panOut s0 sp = false →
      Leaves (.panScrub sp up) s (fun u => u.mem = s.mem ∧ (u.spin sp).scrubLine = ((s0.spin sp).scrubLine + 1) % 2097152 ∧
        ((s0.spin sp).scrubLine < 2097152 →
          ∀ i, i < 8 → SMap.get 0 u.errs (panAddr sp (64 * (s0.spin sp).scrubLine + 8 * i)) = 0)))

/-- R342–R346: GO of a retirement or a sparing starts its copy, or is rejected with its reason; the end of a copy retires the row,
or puts the pseudo-channel out of service with its spare in use; a fence takes the pseudo-channel out of service.
Where the rules leave a point open, it rests on the model's choices (assumption 57). -/
def Claims.StackRepair : Prop :=
  ∀ (s : State) (k : StackId) (pch : BitVec 6) (sid bg ba : BitVec 2) (row : BitVec 15),
    let rt := R.MEM_RETIRE k
    let sr := R.MEM_SPARE k
    let r : Row := Row.mk pch.toNat sid.toNat bg.toNat ba.toNat row.toNat
    s.stopped = false →
    (reaches s .mc rt = true →
      Leaves (.retire k pch sid bg ba row) s (fun u =>
        if spareRows s k pch.toNat = 0 then u.fld rt F.MEM_RETIRE_RSTAT = 3 ∧ u.fld rt F.MEM_RETIRE_REASON = 1 ∧ u.stack k = s.stack k
        else if copyBusy s k = true then u.fld rt F.MEM_RETIRE_RSTAT = 3 ∧ u.fld rt F.MEM_RETIRE_REASON = 2 ∧ u.stack k = s.stack k
        else if 18431 < row.toNat then u.fld rt F.MEM_RETIRE_RSTAT = 3 ∧ u.fld rt F.MEM_RETIRE_REASON = 3 ∧ u.stack k = s.stack k
        else if pchOut s k pch.toNat = true then u.fld rt F.MEM_RETIRE_RSTAT = 3 ∧ u.fld rt F.MEM_RETIRE_REASON = 4 ∧ u.stack k = s.stack k
        else u.fld rt F.MEM_RETIRE_RSTAT = 1 ∧ (u.stack k).copying = some r)) ∧
    (∀ c, (s.stack k).copying = some c → s.fld (R.MEM_STAT k) F.MEM_STAT_STATE ≤ 1 → (s.stack k).held = [] →
      Leaves (.retireDone k) s (fun u => (u.stack k).copying = none ∧ (u.stack k).retired = (s.stack k).retired ++ [c] ∧
        u.fld rt F.MEM_RETIRE_RSTAT = 2 ∧ u.mem = s.mem)) ∧
    (reaches s .mc sr = true →
      Leaves (.spare k pch) s (fun u => u.mem = s.mem ∧
        if s.flag sr F.MEM_SPARE_USED = true then u.fld sr F.MEM_SPARE_SSTAT = 3 ∧ u.fld sr F.MEM_SPARE_REASON = 1
        else if copyBusy s k = true then u.fld sr F.MEM_SPARE_SSTAT = 3 ∧ u.fld sr F.MEM_SPARE_REASON = 2
        else if pchOut s k pch.toNat = true then u.fld sr F.MEM_SPARE_SSTAT = 3 ∧ u.fld sr F.MEM_SPARE_REASON = 3
        else u.fld sr F.MEM_SPARE_SSTAT = 1 ∧ u.fld sr F.MEM_SPARE_SPARED = pch.toNat ∧ (u.stack k).sparing = some pch.toNat)) ∧
    (∀ p, (s.stack k).sparing = some p → s.fld (R.MEM_STAT k) F.MEM_STAT_STATE ≤ 1 → p < 64 →
      Leaves (.spareDone k) s (fun u => u.fld sr F.MEM_SPARE_SSTAT = 2 ∧ u.flag sr F.MEM_SPARE_USED = true ∧
        (u.stack k).sparing = none ∧ (u.reg (R.MEM_PCOOS k)).getLsbD p = true ∧ u.mem = s.mem)) ∧
    (reaches s .mc (R.MEM_PCFENCE k) = true →
      Leaves (.pcfence k pch) s (fun u => (u.reg (R.MEM_PCOOS k)).getLsbD pch.toNat = true ∧ (u.stack k).fenced.getLsbD pch.toNat = true ∧
        ∀ e ∈ (u.stack k).wcb, e ∈ (s.stack k).wcb))

/-- R347–R350, R352, R353: a temperature sample sets the readings and the level, and a stack that enters Critical is FENCED, its
buffer empty; RESUME returns a cool FENCED stack to SERVICE, and with AUTORES does nothing; a margin test that is allowed runs, its end leaves the results and sets DONE, and
any other START sets MSTAT alone.
Where the rules leave a point open, it rests on the model's choices (assumptions 58 and 59). -/
def Claims.StackThermalAndMargin : Prop :=
  ∀ (s : State) (k : StackId) (bd dr : List (BitVec 10)) (v : Word) (errs : Nat) (lanes : BitVec 32),
    let b := (List.range 4).map (fun i => (bd.getD i 0).toNat)
    let d := (List.range 16).map (fun i => (dr.getD i 0).toNat)
    let t := max (b.foldl max 0) (d.foldl max 0)
    let st := R.MEM_STAT k
    let old := s.fld st F.MEM_STAT_TLEVEL
    let new := stackLevel old t
    (s.dead = false → t < 420 →
      Leaves (.stackTempSample k bd dr) s (fun u => u.fld (R.MEM_TEMP k) F.MEM_TEMP_MAXT = t ∧ u.fld st F.MEM_STAT_TLEVEL = new ∧
        u.flag st F.MEM_STAT_REFX2 = decide (2 ≤ new) ∧
        (old < 3 → new = 3 → s.fld st F.MEM_STAT_STATE ≤ 1 → (∀ e ∈ (s.stack k).wcb, e.bad = false) →
          u.fld st F.MEM_STAT_STATE = 2 ∧ (u.stack k).wcb = []) ∧
        (new < 3 → u.fld st F.MEM_STAT_STATE = s.fld st F.MEM_STAT_STATE ∧ u.mem = s.mem))) ∧
    (s.stopped = false →
      (s.flag (R.MEM_CTRL k) F.MEM_CTRL_AUTORES = true → exec (.resume k) s = .next (settle s)) ∧
      (answers s (R.MEM_CTRL k) = true → s.flag (R.MEM_CTRL k) F.MEM_CTRL_AUTORES = false → s.fld st F.MEM_STAT_STATE = 2 → s.fld (R.MEM_TEMP k) F.MEM_TEMP_MAXT < 320 →
        Leaves (.resume k) s (fun u => u.fld st F.MEM_STAT_STATE = 1 ∧ u.fld st F.MEM_STAT_TLEVEL ≤ 1 ∧ u.mem = s.mem)) ∧
      (reaches s .mc (R.MEM_MARGIN k) = true →
        Leaves (.marginStart k v) s (fun u => u.flag (R.MEM_MARGIN k) F.MEM_MARGIN_DONE = false ∧ u.mem = s.mem ∧
          ((s.stack k).margin = none → getF v F.MEM_MARGIN_MODE < 2 → (s.reg (R.MEM_PCOOS k)).getLsbD (getF v F.MEM_MARGIN_PCH) = true →
            getF v F.MEM_MARGIN_OFFSET ≤ 30 → (u.stack k).margin = some (getF v F.MEM_MARGIN_PCH) ∧
              u.fld (R.MEM_MARGIN k) F.MEM_MARGIN_MSTAT = 0) ∧
          (s.fld st F.MEM_STAT_STATE ≠ 0 → getF v F.MEM_MARGIN_MODE = 2 →
            u.stack k = s.stack k ∧ u.fld (R.MEM_MARGIN k) F.MEM_MARGIN_MSTAT = 1))) ∧
      ((s.stack k).margin ≠ none →
        Leaves (.marginDone k errs lanes) s (fun u => (u.stack k).margin = none ∧ u.flag (R.MEM_MARGIN k) F.MEM_MARGIN_DONE = true ∧
          u.reg (R.MEM_MARGRES k) = BitVec.ofNat 64 (min errs 4294967295 + lanes.toNat * 2 ^ 32) ∧ u.mem = s.mem)))

/-- `Claims.StackRepair` and `Claims.StackThermalAndMargin` hold, both. -/
def Obligations.StackService : Prop := Claims.StackRepair ∧ Claims.StackThermalAndMargin

/-! ### Translation -/

/-- R360, R363–R374: a completion's translation is in the table, but a completion that an invalidation has crossed is discarded and its
request sent again; an invalidation of this device's PASID, or of none, leaves no entry that meets its
range and marks every outstanding request; its completion is sent once the reads it waits for have ended; a write to the store clears the
entries whose VALID bit it clears; FLUSHALL and a cleared EN leave no entry and no copy.
Where the rules leave a point open, it rests on the model's choices (assumption 63). -/
def Obligations.TranslationTable : Prop :=
  ∀ (s : State), s.stopped = false →
    (∀ (num : Nat) (t0 : Translation) (up : List Upset) (q : AtsReq),
      let t := clipTranslation t0
      (t.r = true ∨ t.w = true) → 4096 ≤ t.size → SMap.wf none s.rtt.entries = true →
      s.flag R.RTT_CTRL F.RTT_CTRL_EN = true → s.host.atsEn = true → s.rtt.reqs.find? (fun q => decide (q.num = num)) = some q →
      q.invs.any (fun i => overlaps t.va t.size i.1 i.2) = false →
      Leaves (.atsTranslationCompletion num [t0] up) s (fun u => ∃ i e, SMap.get none u.rtt.entries i = some e ∧ e.covers t.va = true ∧
        e.r = t.r ∧ e.w = t.w ∧ e.untr = t.untr ∧ e.ns = t.ns ∧ (t.untr = false → e.pstart + (t.va - e.vstart) = t.pa))) ∧
    (∀ (num : Nat) (ts : List Translation) (up : List Upset) (q : AtsReq),
      s.rtt.reqs.find? (fun q => decide (q.num = num)) = some q →
      (∃ t ∈ ts.map clipTranslation, q.invs.any (fun i => overlaps t.va t.size i.1 i.2) = true) →
      Leaves (.atsTranslationCompletion num ts up) s (fun u => u.rtt.entries = s.rtt.entries ∧ asked u q.page = true)) ∧
    (∀ (itag : BitVec 5) (va0 size : Nat) (pasid : Option (BitVec 20)) (g : Bool),
      let va := if 2 ^ 57 ≤ size then 0 else va0 % 2 ^ 57
      (∀ p, pasid = some p → s.fld R.RTT_PASID F.RTT_PASID_VALUE = p.toNat) →
      Leaves (.atsInvalidationRequest itag va0 size pasid g) s (fun u =>
        (∀ i e, SMap.get none u.rtt.entries i = some e → e.vend ≤ va ∨ va + size ≤ e.vstart) ∧
        u.rtt.reqs = s.rtt.reqs.map (fun q => { q with invs := q.invs ++ [(va, size)] }) ∧
        u.reg R.RTT_INVAL = s.reg R.RTT_INVAL + 1 ∧ ∃ tags, u.rtt.invals = s.rtt.invals ++ [{ itag := itag, tags := tags }])) ∧
    (∀ (itag : BitVec 5) (i : Inval), s.rtt.invals.find? (fun i => decide (i.itag = itag)) = some i → i.tags.any (tagOpen s) = false →
      Leaves (.invalidationCompletion itag) s (fun u => u.rtt.invals = s.rtt.invals.erase i ∧
        u.out = s.out ++ [.invalidationCompletion itag])) ∧
    (∀ (who : Agent) (addr : Nat) (data : List Byte), mayCtl s who = true → inTstore addr data.length = true →
      Leaves (.translationStoreWrite who addr data) s (fun u => ∀ k, SMap.get none u.rtt.entries k =
        if ∃ i, i < data.length ∧ addr + i = Config.tstoreBase + 64 * k ∧ (data.getD i 0).getLsbD 0 = false then none
        else SMap.get none s.rtt.entries k)) ∧
    (answers s R.RTT_CTRL = true →
      Leaves .flushall s (fun u => u.rtt.entries = [] ∧ (∀ c ∈ u.rtt.caches.toList, c = []) ∧ SameMem u s) ∧
      Leaves .rttDisable s (fun u => u.rtt.entries = [] ∧ (∀ c ∈ u.rtt.caches.toList, c = []) ∧ u.rtt.waiting = [] ∧
        u.flag R.RTT_CTRL F.RTT_CTRL_EN = false ∧ ((∀ a, waitOf s a = .none) → SameMem u s)))

/-- R361, R376–R379, R383, R384, R527: the batch window closes the open batch; a group response answers its batch or, as a failure, every
batch that waits, with PRI_FAILED set; a timeout answers it with TIMEOUT_EV; HEAD advances over records that are there, any other write
of it sets HEADERR; a completion or its timeout gives the request that waits its reply.
Where the rules leave a point open, it rests on the model's choices (assumptions 12 and 63). -/
def Obligations.FaultQueueAndHostReads : Prop :=
  ∀ (s : State), s.stopped = false →
    (s.fq.openRecs ≠ [] →
      Leaves .batchWindowExpiry s (fun u => u.fq.openRecs = [] ∧ u.flag R.FQ_STAT F.FQ_STAT_BATCH_EV = true ∧
        (priOn s = true → (∀ c ∈ s.fq.closed, c.num ≠ s.fq.openNum) → ∃ b ∈ u.fq.closed, b.num = s.fq.openNum ∧ b.recs = s.fq.openRecs))) ∧
    (∀ (idx : BitVec 9) (code : PrgCode) (b : Batch),
      s.fq.closed.find? (fun b => b.sent && decide (b.num.toNat % 512 = idx.toNat)) = some b →
      (code = .failure → Leaves (.pageRequestGroupResponse idx code) s (fun u => u.flag R.FQ_STAT F.FQ_STAT_PRI_FAILED = true ∧
        ∀ c ∈ u.fq.closed, c.sent = false)) ∧
      (code ≠ .failure → exec (.pageRequestGroupResponse idx code) s = .next (settle (batchAnswered s b)))) ∧
    (∀ (num : BitVec 32) (b : Batch), s.fq.closed.find? (fun b => b.sent && decide (b.num = num)) = some b →
      Leaves (.priTimeout num) s (fun u => u.flag R.FQ_STAT F.FQ_STAT_TIMEOUT_EV = true ∧ u.reg R.FQ_PRITO = s.reg R.FQ_PRITO + 1)) ∧
    (∀ v : BitVec 32, reaches s .mc R.FQ_HEAD = true →
      let adv := (v.toNat + 2 ^ 32 - fqHead s) % 2 ^ 32
      Leaves (.fqHeadWrite v) s (fun u =>
        if adv ≤ fqUsed s then fqHead u = v.toNat ∧
          ((∀ a, waitOf s a = .none) → fqTail u = fqTail s ∧ u.flag R.FQ_STAT F.FQ_STAT_FULL = fqFull u)
        else fqHead u = fqHead s ∧ u.flag R.FQ_STAT F.FQ_STAT_HEADERR = true)) ∧
    (reaches s .mc R.FQ_STAT = true →
      Leaves .priFailedClear s (fun u => u.flag R.FQ_STAT F.FQ_STAT_PRI_FAILED = false ∧ SameMem u s)) ∧
    (∀ (tag : Nat) (st : CplStatus) (data : List Byte) (poisoned : Bool) (t : Thr),
      let hit (h : HostReq) := decide (h.tag = tag) && decide (h.reply = .waiting)
      allThr.find? (fun t => ((s.thr t).host ++ (s.thr t).orphans).any hit) = some t → (s.thr t).haltReq = false →
      Leaves (.hostReadCompletion tag st data poisoned) s (fun u => (u.thr t).host = (s.thr t).host.map (fun h =>
        if hit h then { h with reply := if st = .success then .data ((data ++ List.replicate (h.len - data.length) 0).take h.len) poisoned
          else .failed } else h) ∧ (u.thr t).orphans = (s.thr t).orphans.filter (fun h => !hit h)) ∧
      Leaves (.completionTimeout tag) s (fun u => (u.thr t).host = (s.thr t).host.map (fun h =>
        if hit h then { h with reply := .failed } else h) ∧ (u.thr t).orphans = (s.thr t).orphans.filter (fun h => !hit h)))

/-! ### The Sluice -/

/-- R390, R417–R420: a QTAIL write goes forward by no more than the ring holds, and any other sets TAILERR; EN, RESUME and ABORT
start, skip and end what the queue holds; an aborted descriptor halts its queue under HALTERR alone; a RETRY goes on at the cursor with the
check's raw register.
Where the rules leave a point open, it rests on the model's choices (assumption 66). -/
def Obligations.SluiceQueueControls : Prop :=
  ∀ (s : State) (who : Agent) (e : EngineId) (q : QueueId), s.stopped = false →
    (∀ v : BitVec 32, reaches s who (R.SLUICE_QTAIL e q) = true →
      Leaves (.qtailWrite who e q v) s (fun u => SameMem u s ∧ qHead u e q = qHead s e q ∧
        if (v.toNat + 2 ^ 32 - qTail s e q) % 2 ^ 32 < 2 ^ 31 ∧ (v.toNat + 2 ^ 32 - qHead s e q) % 2 ^ 32 ≤ 2 ^ qSize s e q then
          qTail u e q = v.toNat ∧ u.flag (R.SLUICE_QSTAT e q) F.SLUICE_QSTAT_TAILERR = s.flag (R.SLUICE_QSTAT e q) F.SLUICE_QSTAT_TAILERR ∧
            (qEn s e q = true → qState s e q = QS.IDLE → qState u e q = if qHead s e q = v.toNat then QS.IDLE else QS.RUNNING)
        else qTail u e q = qTail s e q ∧ u.flag (R.SLUICE_QSTAT e q) F.SLUICE_QSTAT_TAILERR = true ∧ qState u e q = qState s e q)) ∧
    (reaches s who (R.SLUICE_QCFG e q) = true →
      (qEn s e q = false → qState s e q = QS.OFF → (s.slq e q).desc = none →
        Leaves (.queueEnable who e q) s (fun u => qEn u e q = true ∧ QueueRests u e q ∧ qHead u e q = qHead s e q ∧ SameMem u s)) ∧
      (qEn s e q = true → (s.slq e q).desc = none →
        Leaves (.queueDisable who e q) s (fun u => qEn u e q = false ∧ QueueRests u e q ∧ qHead u e q = qHead s e q ∧ SameMem u s)) ∧
      (∀ d, qEn s e q = true → copying s e q = some d → runBoundary (s.slq e q) = true → Records s e q →
        (s.slq e q).stop = none → Leaves (.queueDisable who e q) s (fun u => Ends s u e q d ST.ABORTED ∧ qHead u e q = qHead s e q ∧ QueueRests u e q))) ∧
    (reaches s who (R.SLUICE_QCTL e q) = true →
      (qState s e q = QS.HALTED →
        Leaves (.qctlResume who e q) s (fun u => qHead u e q = (qHead s e q + 1) % 2 ^ 32 ∧ QueueRests u e q ∧ SameMem u s)) ∧
      (qState s e q ≠ QS.HALTED → exec (.qctlResume who e q) s = .next (settle s) ∧ exec (.qctlRetry who e q) s = .next (settle s)) ∧
      (∀ s1 bs, let d := parseDesc (bs.map (·.1))
        qState s e q = QS.HALTED → ringOk s (qWorld s e q) (slotOf s e q) 64 = true → memRead s (.sluice e) 0 (slotOf s e q) 64 = (s1, bs) →
        fetchStatus s1 e q d = none → d.op = 1 → (d.chk = 0 ∨ (s1.chk[e]).owner = none) → ((s1.slq e q).cursor.getD (0, 0)).2 < d.runs →
        Leaves (.qctlRetry who e q) s (fun u => copying u e q = some d ∧ SameMem u s1 ∧
          ((u.slq e q).off, (u.slq e q).run) = ((s1.slq e q).cursor.getD (0, 0)) ∧
          ∀ c raw, d.chk ≠ 0 → (s1.slq e q).cursor.isSome = true → (s1.slq e q).chkSave = some (c, raw) →
            u.reg (R.SLUICE_CHKSTATE e) = BitVec.ofNat 64 raw)) ∧
      (∀ d, copying s e q = some d → (s.slq e q).stop = none →
        (runBoundary (s.slq e q) = true → Records s e q →
          Leaves (.qctlAbort who e q) s (fun u => if s.flag (R.SLUICE_QCFG e q) F.SLUICE_QCFG_HALTERR = false then Ends s u e q d ST.ABORTED
            else if qEn s e q = true then EndsHalted s u e q d ST.ABORTED (some ((s.slq e q).off, (s.slq e q).run))
            else Ends s u e q d ST.ABORTED ∧ qState u e q = QS.OFF)) ∧
        (runBoundary (s.slq e q) = false →
          Leaves (.qctlAbort who e q) s (fun u => u.slq e q = { s.slq e q with stop := some ST.ABORTED } ∧ SameMem u s))))

/-- R389, R391, R398, R404: a queue reads its next descriptor; one whose slot lies outside its rings halts; one whose tag is that of
this beat, or is none, begins, or ends at once with the first status that R398 finds; one of a beat to come waits; a late one ends
with BEAT_LATE.
Where the rules leave a point open, it rests on the model's choices (assumption 65). -/
def Obligations.DescriptorFetch : Prop :=
  ∀ (s : State) (e : EngineId) (q : QueueId), s.stopped = false → qEn s e q = true → qState s e q = QS.RUNNING →
    (s.slq e q).desc = none → qHead s e q ≠ qTail s e q → anyRowBusy s (slotOf s e q) 64 = false →
    (ringOk s (qWorld s e q) (slotOf s e q) 64 = false →
      Leaves (.descriptorFetch e q []) s (fun u => qState u e q = QS.HALTED ∧ SameMem u s ∧ qHead u e q = qHead s e q ∧
        u.fld (R.SLUICE_QSTAT e q) F.SLUICE_QSTAT_LAST = ST.ADDR_RANGE)) ∧
    (∀ s1 bs, let d := parseDesc (bs.map (·.1))
      let late := bit (s1.reg R.BEAT_EDONE) e.val
      ringOk s (qWorld s e q) (slotOf s e q) 64 = true → memRead s (.sluice e) 0 (slotOf s e q) 64 = (s1, bs) → Records s1 e q →
      ((d.tag = 0 ∨ ((d.tag = 0xFFFF ∨ tagDist s1 d.tag = 0) ∧ late = false)) → fetchStatus s1 e q d = none →
        Leaves (.descriptorFetch e q []) s (fun u => (u.slq e q).desc = some d ∧ qState u e q = QS.RUNNING ∧ SameMem u s1 ∧
          (u.slq e q).run = 0 ∧ (u.slq e q).off = 0 ∧ (d.tag ≠ 0 → (u.slq e q).counts = true))) ∧
      (∀ st, d.tag = 0 → fetchStatus s1 e q d = some st →
        Leaves (.descriptorFetch e q []) s (fun u =>
          if halts st = true ∧ s.flag (R.SLUICE_QCFG e q) F.SLUICE_QCFG_HALTERR = true then EndsHalted s u e q d st none
          else EndsAt s u e q d st (qHead s e q + 1))) ∧
      (d.tag ≠ 0 → ((d.tag = 0xFFFF ∧ late = true) ∨ (d.tag ≠ 0xFFFF ∧ 0 < tagDist s1 d.tag)) →
        Leaves (.descriptorFetch e q []) s (fun u => (u.slq e q).desc = some d ∧ qState u e q = QS.WAIT_TAG ∧ SameMem u s1)) ∧
      (d.tag ≠ 0 → d.tag ≠ 0xFFFF → (tagDist s1 d.tag < 0 ∨ (tagDist s1 d.tag = 0 ∧ late = true)) →
        Leaves (.descriptorFetch e q []) s (fun u => EndsAt s u e q d ST.BEAT_LATE (qHead s e q + 1))))

/-- R406, R407: what NOP, LOOP, WAIT and SIGNAL do.
Where the rules leave a point open, it rests on the model's choices (assumption 111). -/
def Claims.SluiceOperations : Prop :=
  ∀ (s : State) (e : EngineId) (q : QueueId), s.stopped = false → qEn s e q = true → Records s e q →
    (∀ d, runsOp s e q 0 = some d → Leaves (.sluiceNop e q) s (fun u => EndsAt s u e q d ST.OK (qHead s e q + 1))) ∧
    (∀ d, runsOp s e q 2 = some d → d.cnt.1 < 2 ^ 32 → d.cnt.2.1 < 2 ^ 32 →
      let r := if d.cnt.2.2.1 % 2 = 0 then R.SLUICE_QLOOP0 e q else R.SLUICE_QLOOP1 e q
      let n := if bit (s.reg r) 32 = true then field (s.reg r) 31 0 else d.cnt.1
      Leaves (.sluiceLoop e q) s (fun u =>
        if n = 0 then EndsAt s u e q d ST.OK (qHead s e q + 1) ∧ u.reg r = 0
        else EndsAt s u e q d ST.OK (qHead s e q + 2 ^ 32 - d.cnt.2.1) ∧
          u.reg r = BitVec.ofNat 64 ((if d.cnt.1 = 0xFFFFFFFF then n else n - 1) + 2 ^ 32))) ∧
    (∀ d, runsOp s e q 3 = some d →
      Leaves (.sluiceWait e q) s (fun u =>
        if (s.fld (counterReg d.cnt.1) F.SLUICE_CNT_VALUE + 2 ^ 32 - d.cnt.2.1) % 2 ^ 32 < 2 ^ 31
        then EndsAt s u e q d ST.OK (qHead s e q + 1)
        else qState u e q = QS.WAIT_COUNTER ∧ (u.slq e q).desc = some d ∧ qHead u e q = qHead s e q ∧ SameMem u s)) ∧
    (∀ d, runsOp s e q 4 = some d →
      Leaves (.sluiceSignal e q) s (fun u => EndsAt s u e q d ST.OK (qHead s e q + 1) ∧
        u.fld (counterReg d.cnt.1) F.SLUICE_CNT_VALUE = (s.fld (counterReg d.cnt.1) F.SLUICE_CNT_VALUE + d.cnt.2.1) % 2 ^ 32))

/-- R396, R400–R402, R410, R411, R413: a turn of a COPY moves the next bytes of its run from its source to its destination; a run
that is a channel's message of another length ends the descriptor; when all bytes of a run are delivered, or its PUT has its ACK, its
credit is posted, and the next run begins or the descriptor ends, with the stop that waits for the run boundary if there is one.
Where the rules leave a point open, it rests on the model's choices (assumptions 64, 66 and 67). -/
def Claims.SluiceCopies : Prop :=
  ∀ (s : State) (e : EngineId) (q : QueueId) (d : Desc), s.stopped = false → copying s e q = some d →
    (∀ s1 bs,
      let x := s.slq e q
      let n := min 4096 (d.cnt.1 - x.off)
      let da := d.dst + runOffset s e q d false x.run + x.off
      let sa := d.src + runOffset s e q d true x.run + x.off
      x.phase = 0 → sideKind d.src = .dev → sideKind d.dst = .dev → (x.stop = none ∨ runFresh x = false) →
      anyRowBusy s sa n = false → anyWriteBusy s da n = false →
      memRead s (.sluice e) 0 sa n = (s1, bs) →
      Leaves (.sluiceCopy e q []) s (fun u => SameMem u (memWriteMarked s1 (.sluice e) da bs) ∧ (u.slq e q).off = x.off + bs.length ∧
        (u.slq e q).run = x.run ∧ ((u.slq e q).phase = 2 ↔ d.cnt.1 ≤ x.off + bs.length) ∧
        (u.slq e q).poison = (x.poison || bs.any (·.2)) ∧
        (d.chk ≠ 0 → u.reg (R.SLUICE_CHKSTATE e) = BitVec.ofNat 64 (crcFeed (checkUnit s1 e).width (checkUnit s1 e).poly (checkUnit s1 e).refin
          (s1.reg (R.SLUICE_CHKSTATE e)).toNat (bs.map (·.1)))))) ∧
    (∀ s1 k,
      let x := s.slq e q
      x.phase = 0 → sideKind d.src = .chan → sideKind d.dst = .dev → qWorld s e q = false → isMember s (chanDev d.src).toNat = true →
      chanDev d.src = s.devId → (chanOf s (chanNo d.src)).map (fun y => (y.world, y.waits, decide (y.used = 0))) = some (false, [], false) →
      x.stop = none → x.flights = [] →
      takeHead s (chanNo d.src) = (s1, some k) → Records s1 e q → qEn s1 e q = true →
      (k.data.length = d.cnt.1 → d.alive ≠ 2 →
        Leaves (.sluiceCopy e q []) s (fun u => (u.slq e q).buf = some k.data ∧ (u.slq e q).phase = 3 ∧ SameMem u s1)) ∧
      (k.data.length ≠ d.cnt.1 →
        Leaves (.sluiceCopy e q []) s (fun u => if s1.flag (R.SLUICE_QCFG e q) F.SLUICE_QCFG_HALTERR = true
          then EndsHalted s1 u e q d ST.MSG_SIZE (some (x.off, x.run)) else EndsAt s1 u e q d ST.MSG_SIZE (qHead s1 e q + 1)))) ∧
    (∀ x, s.slq e q = x → x.phase = 2 → x.flights = [] → Records s e q → qEn s e q = true →
      Leaves (.sluiceRunComplete e q) s (fun u =>
        (d.cren = true → u.fld (counterReg d.credit) F.SLUICE_CNT_VALUE = (s.fld (counterReg d.credit) F.SLUICE_CNT_VALUE + 1) % 2 ^ 32) ∧
        match x.stop with
        | some st => st < 256 → Ends s u e q d st
        | none => if d.runs ≤ x.run + 1 then EndsAt s u e q d (if x.poison then ST.POISONED else ST.OK) (qHead s e q + 1)
          else (u.slq e q).desc = some d ∧ (u.slq e q).run = x.run + 1 ∧ (u.slq e q).off = 0 ∧ (u.slq e q).phase = 0)) ∧
    (∀ x f, s.slq e q = x → x.flights = [f] → f.acked = true → x.stop = none → d.runs ≤ f.run + 1 → d.cren = false → Records s e q → qEn s e q = true →
      Leaves (.sluiceRunComplete e q) s (fun u =>
        EndsAt s u e q d (if x.poison || f.bytes.any (·.2) then ST.POISONED else ST.OK) (qHead s e q + 1)))

/-- `Claims.SluiceOperations` and `Claims.SluiceCopies` hold, both. -/
def Obligations.SluiceTransfers : Prop := Claims.SluiceOperations ∧ Claims.SluiceCopies

/-! ### Hank -/

/-- R410, R445, R449–R452: a PUT that no check refuses fills slot TAIL and its status word, and TAIL advances; a GET takes the message
at HEAD, or waits and is refused with EMPTY when GETWAIT ends; a refusal is counted and recorded; an answer, or MSGTO, ends the wait of
the Sluice run that sent the request.
Where the rules leave a point open, it rests on the model's choices (assumptions 12, 68 and 71). -/
def Obligations.ChannelMessages : Prop :=
  ∀ (s : State) (m : Msg), s.stopped = false →
    (m.dst = s.devId → m.sealed = false →
      (∀ r, refusal s m false = some r → Leaves (.put m) s (fun u => Refused s u m false r ∧ u.fab.chans = s.fab.chans)) ∧
      (∀ r, refusal s m true = some r → Leaves (.get m) s (fun u => Refused s u m true r ∧ u.fab.chans = s.fab.chans)) ∧
      (∀ x, chanOf s m.chan = some x → refusal s m false = none → x.waits = [] →
        let i := x.tail.toNat % 2 ^ x.ringlog
        let slot := 256 * 2 ^ x.slotlog
        Leaves (.put m) s (fun u => chanOf u m.chan = some { x with tail := x.tail + 1 } ∧
          SameMem u (memWrite (memWriteMarked s .reel (x.base + i * slot) (markedData m)) .reel (x.base + 2 ^ x.ringlog * slot + 8 * i)
            (leBytes 8 (slotStatus m x))))) ∧
      (∀ x, chanOf s m.chan = some x → refusal s m true = none →
        (x.head = x.tail → Leaves (.get m) s (fun u => SameMem u s ∧
          chanOf u m.chan = some { x with waits := x.waits ++ [.get (msgWithKind m 2) s.now] })) ∧
        (∀ s1 k, x.waits = [] → m.src = s.devId → takeHead (setChan s m.chan (some x)) m.chan = (s1, some k) →
          Leaves (.get m) s (fun u => chanOf u m.chan = some { x with head := x.head + 1 } ∧ ∃ a, u.fab.inbox = s.fab.inbox ++ [(a, 1)] ∧
            a.kind = 3 ∧ a.dst = m.src ∧ a.xid = m.xid ∧ a.data = k.data.map (·.1) ∧ a.sv = k.stamp.isSome)))) ∧
    (∀ c x g t gs, chanOf s c = some x → x.gets = (g, t) :: gs → g.kind = 2 →
      let due := t + BitVec.ofNat 64 (s.fld R.GCTL_FABCFG F.GCTL_FABCFG_GETWAIT)
      Leaves (.getwaitExpiry c) s (fun u => Refused (elapseTo s due) u g true 3 ∧ chanOf u c = some { x with waits := x.waits.erase (.get g t) })) ∧
    (∀ (xid : BitVec 32) (r : FabReq) (e : EngineId) (q : QueueId) (d : Desc), s.fab.reqs.find? (fun r => decide (r.xid = xid)) = some r →
      r.owner = .sluice e q → (s.slq e q).desc = some d → (s.slq e q).stop = none → d.alive ≠ 2 → qEn s e q = true → Records s e q →
      let gone (u : State) : Prop := u.fab.reqs = s.fab.reqs.erase r
      let lost (u : State) : Prop := gone u ∧ Ends s u e q d ST.CHANNEL
      let late : Prop := Leaves (.messageTimeout xid) s (fun u => lost u ∧ u.reg R.GCTL_MSGTOUT = s.reg R.GCTL_MSGTOUT + 1)
      let nacked : Prop := Leaves (.nack m) s (fun u => lost u ∧ u.reg R.GCTL_NACKRX = s.reg R.GCTL_NACKRX + 1)
      let answer : Prop := m.xid = xid ∧ m.dst = s.devId ∧ m.sealed = false ∧ epochOk s m = true
      (awaits s e q r.xid = true → (s.slq e q).flights = [] → late ∧ (answer → nacked ∧
        Leaves (.getdata m) s (fun u => gone u ∧
          if (markedData m).length = d.cnt.1 then (u.slq e q).buf = some (markedData m) ∧ (u.slq e q).phase = 3 ∧ SameMem u s
          else Ends s u e q d ST.MSG_SIZE))) ∧
      (∀ f more, awaits s e q r.xid = false → (s.slq e q).flights = f :: more → f.xid = r.xid → f.acked = false → f.failed = false →
        (∀ g ∈ more, g.xid ≠ r.xid) → late ∧ (answer → nacked ∧
        Leaves (.ack m) s (fun u => gone u ∧ SameMem u s ∧ (u.slq e q).flights = { f with acked := true } :: more ∧ (u.slq e q).desc = some d))))

/-- R447, R448, R453, R454: the channel commands and their results.
Where the rules leave a point open, it rests on the model's choices (assumptions 71 and 101). -/
def Obligations.ChannelCommands : Prop :=
  ∀ (s : State) (who : Agent) (c : BitVec 16), s.stopped = false → reaches s who R.GCTL_CHCMD = true →
    let result (u : State) : Nat := u.fld R.GCTL_CHCMD F.GCTL_CHCMD_RESULT
    let fails (i : Instr) (r : Nat) : Prop := Leaves i s (fun u => result u = r ∧ u.fab = s.fab ∧ SameMem u s)
    (chanOf s c = none → ∀ n, fails (.closeChannel who c) 1 ∧ fails (.query who c) 1 ∧ fails (.consume who c n) 1) ∧
    (∀ x, chanOf s c = some x → x.world = true → sealedSup s who = false → ∀ n,
      fails (.openChannel who c) 2 ∧ fails (.closeChannel who c) 2 ∧ fails (.query who c) 2 ∧ fails (.consume who c n) 2) ∧
    (∀ x, chanOf s c = some x → (x.world = true → sealedSup s who = true) →
      let shown (u : State) (h : BitVec 32) : Prop := result u = 0 ∧ u.reg R.GCTL_CHSTAT = BitVec.ofNat 64 (h.toNat + x.tail.toNat * 2 ^ 32)
      fails (.openChannel who c) 1 ∧
      Leaves (.query who c) s (fun u => shown u x.head ∧ u.fab.chans = s.fab.chans ∧ SameMem u s) ∧
      (∀ n : BitVec 21, Leaves (.consume who c n) s (fun u => SameMem u s ∧
        if (x.tail - x.head).toNat < n.toNat then result u = 4 ∧ u.fab = s.fab
        else shown u (x.head + BitVec.ofNat 32 n.toNat) ∧ chanOf u c = some { x with head := x.head + BitVec.ofNat 32 n.toNat })) ∧
      (x.waits = [] → Leaves (.closeChannel who c) s (fun u => shown u x.head ∧ chanOf u c = none ∧
        ((∀ e q, copying s e q = none) → SameMem u (memWrite (chanWritten s c 2 0) .mc (chanTable s x.world + 32 * c.toNat + 16)
          (leBytes 4 x.head.toNat ++ leBytes 4 x.tail.toNat)))))) ∧
    (chanOf s c = none → ∀ s1 b, memRead (chanWritten s c 1 0) .mc 0 (chanTable s false + 32 * c.toNat) 32 = (s1, b) →
      (ofLe (b.map (·.1))).testBit 0 = false →
      Leaves (.openChannel who c) s (fun u => match chanOfEntry s1 (b.map (·.1)) with
        | some x => result u = 0 ∧ chanOf u c = some x ∧ x.head = 0 ∧ x.tail = 0
        | none => result u = 3 ∧ u.fab.chans = s.fab.chans))

/-- R422–R434: a corrected pair and an uncorrectable one are counted; a discarded flit is counted, and a sequenced one is to be answered
with NAK, which the next flit of the link carries; the expected one that holds a whole message delivers it, and another is not delivered;
a replay comes REPLAYTO after ACK last advanced and is counted, and after RETRYMAX of them the port goes DOWN; training, tests and the loss
of the signal move a port as its states say.
Where the rules leave a point open, it rests on the model's choices (assumptions 12, 68, 69 and 70). -/
def Obligations.LinksAndPorts : Prop :=
  ∀ (s : State) (p : PortId), s.stopped = false →
    let st (u : State) : Nat := portState u p
    let l := linkAt s p
    (carries s p = true → ∀ (flit : List Byte) (fec : PairFec) (rx : Word),
      let h := ofLe (flit.take 8)
      let seqd := h % 8 = 2 ∨ h % 8 = 4
      let nakked (u : State) : Prop := u.fab.inbox = s.fab.inbox ∧ SameMem u s ∧ (seqd → (u.link l).nak = true)
      (fec = .first none → Leaves (.flitReceive p flit fec rx) s (fun u => nakked u ∧ u.reg (R.HANK_FECUNC p) = s.reg (R.HANK_FECUNC p) + 1)) ∧
      (fecGood s p fec = false → Leaves (.flitReceive p flit fec rx) s nakked) ∧
      (fecGood s p fec = true → crc32 (flit.take 252) ≠ ofLe (flit.drop 252) →
        Leaves (.flitReceive p flit fec rx) s (fun u => nakked u ∧ u.reg (R.HANK_CRCERR p) = s.reg (R.HANK_CRCERR p) + 1 ∧
          (∀ n, fec = .first (some n) → u.reg (R.HANK_FECCORR p) = s.reg (R.HANK_FECCORR p) + BitVec.ofNat 64 n.toNat))) ∧
      (fecGood s p fec = true → flit.length = 256 → crc32 (flit.take 252) = ofLe (flit.drop 252) → h < 2 ^ 48 → h % 8 = 2 → h / 8 % 4 < 3 →
        h.testBit 9 = false → s.fab.waiting = [] → (s.link l).early = [] →
        (h / 2 ^ 10 % 4096 ≠ (s.link l).expect →
          Leaves (.flitReceive p flit fec rx) s (fun u => u.fab.inbox = s.fab.inbox ∧ SameMem u s ∧ (u.link l).expect = (s.link l).expect)) ∧
        (∀ m, h / 2 ^ 10 % 4096 = (s.link l).expect → (s.link l).used.toList.getD (h / 8 % 4) 0 < laneRoom (h / 8 % 4) →
          h.testBit 5 = true → h.testBit 6 = true → h.testBit 7 = false → readMsg [((flit.drop 8).take 244, h.testBit 8)] = some m → m.dst = s.devId →
          Leaves (.flitReceive p flit fec rx) s (fun u => u.fab.inbox = s.fab.inbox ++ [(m, h / 8 % 4)] ∧
            (u.link l).expect = (h / 2 ^ 10 % 4096 + 1) % 4096)))) ∧
    ((s.link l).nak = true → ∃ b rest, (putIdle s l p).out = s.out ++ Out.flit p b :: rest ∧ (ofLe (b.take 8)).testBit 9 = true) ∧
    (carries s p = true → bonded s p = false →
      let limit := s.fld (R.HANK_RETRY p) F.HANK_RETRY_RETRYMAX
      ((s.link p).unacked = [] → exec (.replayTimeout p) s = .next (settle s)) ∧
      ((s.link p).unacked ≠ [] → (s.link p).replays < limit → Leaves (.replayTimeout p) s (fun u => st u = st s ∧
        (u.link p).ackAt = (elapseTo s ((s.link p).ackAt + BitVec.ofNat 64 (s.fld (R.HANK_RETRY p) F.HANK_RETRY_REPLAYTO))).now ∧
        u.reg (R.HANK_RETRIES p) = s.reg (R.HANK_RETRIES p) + 1 ∧ (u.link p).unacked = (s.link p).unacked ∧
        (u.link p).replays = (s.link p).replays + 1)) ∧
      ((s.link p).unacked ≠ [] → limit ≤ (s.link p).replays → Leaves (.replayTimeout p) s (fun u => st u = PS.DOWN ∧
        u.fld (R.HANK_STAT p) F.HANK_STAT_REASON = 2)) ∧
      Leaves (.signalLoss p) s (fun u => st u = PS.DOWN ∧ u.fld (R.HANK_STAT p) F.HANK_STAT_REASON = 3)) ∧
    (carries s p = true → bonded s p = true → carries s (mate p) = true →
      Leaves (.signalLoss p) s (fun u => st u = PS.DEGRADED ∧ portState u (mate p) = PS.DEGRADED ∧
        u.fld (R.HANK_STAT p) F.HANK_STAT_REASON = 3)) ∧
    (answers s (R.HANK_CTRL p) = true →
      Leaves (.portEnable p) s (fun u => u.flag (R.HANK_CTRL p) F.HANK_CTRL_EN = true ∧ st u = (if st s = PS.OFF then PS.TRAINING else st s) ∧
        (st s = PS.OFF → ∃ b, Out.flit p b ∈ u.out ∧ ofLe (b.take 8) % 8 = 5)) ∧
      Leaves (.portDisable p) s (fun u => u.flag (R.HANK_CTRL p) F.HANK_CTRL_EN = false ∧
        st u = if s.flag (R.HANK_CTRL p) F.HANK_CTRL_TEST = true then PS.TEST else PS.OFF) ∧
      Leaves (.retrain p) s (fun u => st u = if st s = PS.OFF then PS.OFF else PS.TRAINING) ∧
      (∀ n, Leaves (.test p n) s (fun u => if st s = PS.UP then st u = PS.UP ∧ u.reg (R.HANK_TESTERR p) = s.reg (R.HANK_TESTERR p)
        else st u = PS.TEST ∧ u.flag (R.HANK_CTRL p) F.HANK_CTRL_TEST = true ∧ u.reg (R.HANK_TESTERR p) = BitVec.ofNat 64 n))) ∧
    (st s = PS.TRAINING →
      Leaves (.trainfail p) s (fun u => st u = PS.DOWN ∧ u.fld (R.HANK_STAT p) F.HANK_STAT_REASON = 1) ∧
      (∀ (peer : BitVec 12) (pp : BitVec 4) (pb : Bool), Leaves (.trainingComplete p peer pp pb) s (fun u => st u = PS.UP ∧
        u.reg (R.HANK_PEER p) = BitVec.ofNat 64 (peer.toNat + pp.toNat * 2 ^ 12 + 2 ^ 16) ∧ (u.link p).alive = true ∧
        (bonded s p = false → (bonded u p = true ↔ (s.flag (R.HANK_CTRL p) F.HANK_CTRL_BOND = true ∧
          s.flag (R.HANK_CTRL (mate p)) F.HANK_CTRL_BOND = true ∧ carries s (mate p) = true ∧ pb = true ∧ (s.link (mate p)).peerBond = true ∧
          s.fld (R.HANK_PEER (mate p)) F.HANK_PEER_DEVID = peer.toNat ∧ s.fld (R.HANK_PEER (mate p)) F.HANK_PEER_PORT / 2 = pp.toNat / 2 ∧
          s.fld (R.HANK_PEER (mate p)) F.HANK_PEER_PORT ≠ pp.toNat))))))

/-! ### Sessions -/

/-- R510, R512, R513, R519: the schedule is read from SCHHEAD, 8 entries at most, where an edge is scheduled; a write of SCHTAIL goes forward by no more than the
ring holds; LDONE marks served lanes, and when all are done the output counter steps once; ACTIVATE and SPILL move a session between a
slot and its record, or change nothing but RESULT, and nothing at all while a move is in progress.
Where the rules leave a point open, it rests on the model's choices (assumptions 12, 83 and 84). -/
def Obligations.Sessions : Prop :=
  ∀ (s : State), s.stopped = false →
    (s.running = false ∨ s.beat.scheduled = false → exec (.scheduleRead []) s = .next (settle s)) ∧
    (s.running = true → s.beat.scheduled = true → ∀ avail, avail = (schTail s + 2 ^ 32 - schHead s) % 2 ^ 32 →
      Leaves (.scheduleRead []) s (fun u => u.mem = s.mem ∧ schHead u = schHead s ∧ u.sess.fresh = true ∧
        if s.flag R.SESS_SCHCFG F.SESS_SCHCFG_EN = true
        then (u.sess.more = true ↔ 8 < avail) ∧ ((∀ j, j < 8 → inOneArea (schAddr s (schHead s + j)) 64 = true) → u.sess.entries.length = min 8 avail)
        else u.sess.entries = [])) ∧
    (∀ v : BitVec 32, reaches s .mc R.SESS_SCHTAIL = true →
      Leaves (.schtailWrite v) s (fun u => SameMem u s ∧
        if (v.toNat + 2 ^ 32 - schTail s) % 2 ^ 32 < 2 ^ 31 ∧ (v.toNat + 2 ^ 32 - schHead s) % 2 ^ 32 ≤ 2 ^ schSize s then schTail u = v.toNat
        else schTail u = schTail s ∧ u.flag R.SESS_STAT F.SESS_STAT_TAILERR = true)) ∧
    (∀ v : BitVec 24, reaches s .mc R.SESS_LDONE = true →
      let served (l : Nat) : Bool := s.flag (R.SESS_LANE l) F.SESS_LANE_EN && !s.flag (R.SESS_LANE l) F.SESS_LANE_SKIP
      let set (l : Nat) : Bool := bit (s.reg R.SESS_LSTAT) l || (served l && v.getLsbD l)
      Leaves (.ldone v) s (fun u => (∀ l, l < 24 → bit (u.reg R.SESS_LSTAT) l = set l) ∧
        if s.flag R.SESS_CFG F.SESS_CFG_OUTEN = true ∧ s.flag R.SESS_LSTAT F.SESS_LSTAT_STEPPED = false ∧
            (List.range 24).all (fun l => !served l || set l) = true
        then u.flag R.SESS_LSTAT F.SESS_LSTAT_STEPPED = true ∧ u.reg R.SESS_STEPS = s.reg R.SESS_STEPS + 1 ∧
          u.fld (counterReg (outCounter s)) F.SLUICE_CNT_VALUE = (s.fld (counterReg (outCounter s)) F.SLUICE_CNT_VALUE + 1) % 2 ^ 32
        else u.reg R.SESS_STEPS = s.reg R.SESS_STEPS ∧ SameMem u s)) ∧
    (reaches s .mc R.SESS_CMD = true → ∀ (slot : BitVec 12) (sid : BitVec 16),
      let sa := Config.sessBase + 128 * slot.toNat
      let result (u : State) : Nat := u.fld R.SESS_CMD F.SESS_CMD_RESULT
      let fails (i : Instr) (r : Nat) : Prop := Leaves i s (fun u => result u = r ∧ SameMem u s)
      let go (op : Nat) : State := s.setReg R.SESS_CMD
        (if op = 1 then putF (putF (putF (s.reg R.SESS_CMD) F.SESS_CMD_SLOT slot.toNat) F.SESS_CMD_SID sid.toNat) F.SESS_CMD_OP 1
         else putF (putF (s.reg R.SESS_CMD) F.SESS_CMD_SLOT slot.toNat) F.SESS_CMD_OP 2)
      (sessBusy s = true → exec (.activate slot sid) s = .next (settle s) ∧ exec (.spill slot) s = .next (settle s)) ∧
      (sessBusy s = false → 3071 < slot.toNat → fails (.activate slot sid) 5 ∧ fails (.spill slot) 5) ∧
      (sessBusy s = false → slot.toNat ≤ 3071 →
        (∀ w, w = ofLe (peekBytes (go 1) sa 8) → bitsNat w 18 16 = 0 → recordOk s (sessRecord s sid.toNat) .store = false →
          fails (.activate slot sid) 4) ∧
        (∀ w, w = ofLe (peekBytes (go 1) sa 8) → bitsNat w 18 16 ≠ 0 → fails (.activate slot sid) 1) ∧
        (∀ w s1 bs, let a := sessRecord s sid.toNat
          let rec' := ofLe ((bs.take 8).map (·.1))
          w = ofLe (peekBytes (go 1) sa 8) → bitsNat w 18 16 = 0 → recordOk s a .store = true → memRead (go 1) .mc 0 a 128 = (s1, bs) →
          Leaves (.activate slot sid) s (fun u =>
            if bs.any (·.2) = true then result u = 4 ∧ SameMem u s1
            else if bitsNat rec' 15 0 ≠ sid.toNat ∨ bitsNat rec' 18 16 ≠ 4 then result u = 3 ∧ SameMem u s1
            else result u = 0 ∧ sessBusy u = true ∧ SameMem u (memWrite (memWrite s1 .mc sa (leBytes 8 (withState rec' 1) ++ (bs.drop 8).map (·.1))) .mc a
              (leBytes 8 (withState rec' 1))))) ∧
        (∀ s1 bs, let w := ofLe ((bs.take 8).map (·.1))
          let a := sessRecord s (bitsNat w 15 0)
          memRead (go 2) .mc 0 sa 128 = (s1, bs) →
          Leaves (.spill slot) s (fun u =>
            if bitsNat w 18 16 = 0 then result u = 1 ∧ SameMem u s1
            else if (List.range 24).any (fun l => s.flag (R.SESS_LANE l) F.SESS_LANE_EN && s.fld (R.SESS_LANE l) F.SESS_LANE_SLOT == slot.toNat) = true then
              result u = 2 ∧ SameMem u s1
            else if recordOk s a .store = false then result u = 4 ∧ SameMem u s1
            else result u = 0 ∧ sessBusy u = true ∧ SameMem u (memWrite (memWriteMarked s1 .mc a
              ((leBytes 8 (withState w 4)).map (fun x => (x, (bs.take 8).any (·.2))) ++ bs.drop 8)) .mc sa (leBytes 8 (withState w 0)))))))

/-! ### The beat -/

/-- R13, R18, R20, R26, R27, R34, R37–R39: the edge begins the beat of the next number, one PERIOD before the next edge; it fails
the beat whose work was not done, applies the armed bank that is due, copies the shadows, and gives each parked thread its entry and,
after a failure, each late one an entry to come.
Where the rules leave a point open, it rests on the model's choices (assumptions 74 and 75). -/
def Claims.BeatEdge : Prop :=
  ∀ (s : State), s.stopped = false → s.running = true → s.beat.scheduled = true → s.beat.slip = none → s.beat.quanta ≤ 4 →
    let n : Word := s.beat.first.getD (s.beatNo + 1)
    let fails := s.beat.fresh = false ∧ (s.flag R.BEAT_STAT F.BEAT_STAT_DONE = false ∨ s.beat.failNow = true)
    Leaves .beatEdge s (fun u =>
      u.beatNo = n ∧ u.reg R.BEAT_EDGE = s.reg R.BEAT_NEXT ∧
      u.reg R.BEAT_NEXT = s.reg R.BEAT_NEXT + BitVec.ofNat 64 (u.fld R.BEAT_PERIOD F.BEAT_PERIOD_PERIOD) ∧
      u.reg R.BEAT_TDONE = 0 ∧ u.beat.fresh = false ∧ u.beat.quanta = 0 ∧ u.beat.held = none ∧
      u.fld R.BEAT_STAT F.BEAT_STAT_LASTQ = s.beat.quanta ∧
      u.fld R.BEAT_STRCNT F.BEAT_STRCNT_COUNT = (s.fld R.BEAT_STRCNT F.BEAT_STRCNT_COUNT + s.beat.quanta) % 2 ^ 32 ∧
      (u.flag R.BEAT_STAT F.BEAT_STAT_LASTFAIL = true ↔ fails) ∧
      (fails → u.flag R.BEAT_STAT F.BEAT_STAT_OVERRUN = true ∧
        u.fld R.BEAT_FAILCNT F.BEAT_FAILCNT_COUNT = (s.fld R.BEAT_FAILCNT F.BEAT_FAILCNT_COUNT + 1) % 2 ^ 32 ∧
        ∀ t : Thr, s.flag (R.BEAT_TENTRY t) F.BEAT_TENTRY_EN = true → bit (s.reg R.BEAT_TDONE) t.val = false →
          (u.thr t).entry = true ∧ (s.flag (R.BEAT_TENTRY t) F.BEAT_TENTRY_OVT = true → (u.thr t).overrun = some s.beatNo)) ∧
      (¬fails → u.fld R.BEAT_FAILCNT F.BEAT_FAILCNT_COUNT = s.fld R.BEAT_FAILCNT F.BEAT_FAILCNT_COUNT ∧
        (∀ e : EngineId, u.reg (R.SLUICE_SH_BYTES e) = s.reg (R.SLUICE_BYTES e)) ∧
        ∀ t : Thr, (s.thr t).run = .parked → (s.thr t).tx = none → bit (s.reg R.BEAT_TDONE) t.val = true →
          (u.thr t).run = .running ∧ (u.thr t).pc = BitVec.ofNat 48 (u.fld (R.BEAT_TENTRY t) F.BEAT_TENTRY_PC * 4) ∧
            (u.thr t).world = (s.thr t).bdWorld ∧ (u.thr t).level = (s.thr t).bdLevel ∧ (u.thr t).entry = false) ∧
      (s.beat.armed = true → s.beat.armSkip = false →
        if s.beat.armTarget = 0 ∨ s.beat.armTarget.toNat ≤ n.toNat
        then u.beat.armed = false ∧ u.beat.armedBank = [] ∧ u.fld R.BEAT_CG_STAT F.BEAT_CG_STAT_STATE = 2 ∧ u.reg R.BEAT_CG_APPLIED = n
        else u.beat.armed = true ∧ u.beat.armedBank = s.beat.armedBank))

/-- R15–R17, R24, R25, R29–R31, R45, R47, R48, R458, R613: RUN schedules the first edge or awaits the parent's; the root holds a request
until its decision and then stretches by one quantum while it has quanta; a request that comes late is counted; a marker from the parent
sets stratum and parent; the first one announces the first edge and its number, one with a grant moves the edge, and one with a late grant
is counted and does not; a selected BEAT_IN edge near the scheduled one defines it, and one within 10 µs of an accepted one is ignored.
Where the rules leave a point open, it rests on the model's choices (assumptions 12, 72 and 74). -/
def Claims.BeatSchedule : Prop :=
  ∀ (s : State), s.stopped = false →
    let root := s.fld R.BEAT_CTRL F.BEAT_CTRL_SRC ≠ 2
    let next := (s.reg R.BEAT_NEXT).toNat
    let latest := next - s.fld R.BEAT_GUARD F.BEAT_GUARD_DECIDE
    let lates (u : State) : Nat := u.fld R.BEAT_LATECNT F.BEAT_LATECNT_COUNT
    let asked (u : State) (dev : Nat) (n : Nat) : Prop :=
      if latest < s.now.toNat then lates u = (lates s + 1) % 2 ^ 32 ∧ u.beat.held = s.beat.held
      else u.beat.held = match s.beat.held with | none => some ⟨dev, n⟩ | some h => some { h with count := min 4095 (h.count + n) }
    (s.running = true → s.beat.scheduled = true → root →
      Leaves .sreq s (fun u => asked u s.devId.toNat 1) ∧
      (∀ (p : PortId) (dev : BitVec 12) (k : BitVec 16), portLive s p = true → k.toNat ≤ 4095 →
        Leaves (.stretchReq p (nextBeat s) dev k) s (fun u => asked u dev.toNat k.toNat ∧ u.reg (R.HANK_RXFLITS p) = s.reg (R.HANK_RXFLITS p) + 1)) ∧
      Leaves .decisionInstant s (fun u => u.beat.held = none ∧
        if s.beat.held.isSome = true ∧ s.beat.quanta < s.fld R.BEAT_STRETCH F.BEAT_STRETCH_MAXQ
        then u.reg R.BEAT_NEXT = s.reg R.BEAT_NEXT + BitVec.ofNat 64 (quantum s) ∧ u.beat.quanta = s.beat.quanta + 1
        else u.reg R.BEAT_NEXT = s.reg R.BEAT_NEXT ∧ u.beat.quanta = s.beat.quanta) ∧
      (s.beat.fresh = false → s.beat.held = none → s.flag R.BEAT_STAT F.BEAT_STAT_DONE = false → s.flag R.BEAT_CTRL F.BEAT_CTRL_POLICY = false →
        (elapseTo s s.beat.guardAt).now.toNat ≤ latest → ∀ acks, Leaves (.guardInstant acks) s (fun u => u.beat.held = some ⟨s.devId.toNat, 1⟩))) ∧
    (s.running = false → failOf (stretchFails s.reg ++ overlapFails s.reg) = none → root →
      let start := s.reg R.BEAT_START
      let late := start.toNat < s.now.toNat
      Leaves .setRun s (fun u => u.running = true ∧ u.beat.scheduled = true ∧ u.beat.fresh = true ∧
        u.reg R.BEAT_NEXT = (if late then s.now + 1000 else start) ∧ (late → u.flag R.BEAT_STAT F.BEAT_STAT_START_LATE = true))) ∧
    (s.running = false → failOf (stretchFails s.reg ++ overlapFails s.reg) = none → ¬root →
      Leaves .setRun s (fun u => u.running = true ∧ u.beat.scheduled = false ∧ u.beat.awaitParent = true)) ∧
    (s.running = false → ∀ off reason, failOf (stretchFails s.reg ++ overlapFails s.reg) = some (off, reason) → reason < 16 →
      Leaves .setRun s (fun u => u.running = false ∧ u.fld R.BEAT_CG_STAT F.BEAT_CG_STAT_STATE = 3 ∧
        u.fld R.BEAT_CG_STAT F.BEAT_CG_STAT_REASON = reason)) ∧
    Leaves .clearRun s (fun u => u.running = false ∧ u.beat.scheduled = false ∧ SameMem u s) ∧
    Leaves .markerInterval s (fun u => ∀ p ∈ markerPorts s, ∃ m, .marker p m ∈ u.out ∧ m.number = s.beatNo ∧ m.next = s.reg R.BEAT_NEXT ∧ m.edge = false) ∧
    (¬root →
      Leaves .holdover s (fun u => u.flag R.BEAT_STAT F.BEAT_STAT_SRC_LOST = true ∧ u.beat.holdover = true) ∧
      (∀ (p : PortId) (m : Marker) (rx : Word), portLive s p = true → samePort s (parentPort s) p = true →
        Leaves (.beatMarker p m rx) s (fun u => u.fld R.BEAT_MARK F.BEAT_MARK_STRATUM = min 14 (m.stratum.toNat + 1) ∧
          u.fld R.BEAT_MARK F.BEAT_MARK_PARENT = p.val ∧ u.beat.synced = true ∧ u.beat.holdover = false ∧
          (measure s p m rx = none → s.running = true → s.beat.awaitParent = false → m.grant = true → m.number = s.beatNo → s.now.toNat ≤ next - 100 →
            u.reg R.BEAT_NEXT = m.next ∧ u.beat.quanta = s.beat.quanta + 1 ∧ u.beat.held = none) ∧
          (measure s p m rx = none → s.running = true → s.beat.awaitParent = true → m.txTime.toNat < 8 * m.next.toNat →
            u.beat.scheduled = true ∧ nextBeat u = m.number ∧ u.reg R.BEAT_NEXT = m.next) ∧
          (measure s p m rx = none → s.running = true → s.beat.awaitParent = false → m.grant = true → next - 100 < s.now.toNat →
            u.reg R.BEAT_NEXT = s.reg R.BEAT_NEXT ∧ u.flag R.BEAT_STAT F.BEAT_STAT_LATE_GRANT = true ∧ lates u = (lates s + 1) % 2 ^ 32)))) ∧
    (∀ t8 : Word, tooSoon s t8 = true → exec (.beatInEdge t8) s = .next (settle s)) ∧
    (∀ t8 : Word, tooSoon s t8 = false →
      let off : Int := (t8.toNat : Int) - next * 8
      Leaves (.beatInEdge t8) s (fun u =>
        if s.fld R.BEAT_CTRL F.BEAT_CTRL_SRC ≠ 1 then u.reg R.BEAT_MONOFF = BitVec.ofNat 64 ((off % 2 ^ 32).toNat + 2 ^ 32) ∧
          u.reg R.BEAT_NEXT = s.reg R.BEAT_NEXT
        else s.running = true → s.beat.scheduled = true →
          if off.natAbs ≤ 8000 then u.reg R.BEAT_NEXT = BitVec.ofNat 64 (t8.toNat / 8)
          else u.reg R.BEAT_NEXT = s.reg R.BEAT_NEXT ∧ u.flag R.BEAT_STAT F.BEAT_STAT_BIN_MISS = true))

/-- `Claims.BeatEdge` and `Claims.BeatSchedule` hold, both. -/
def Obligations.BeatEdgesAndSchedule : Prop := Claims.BeatEdge ∧ Claims.BeatSchedule

/-- R8, R10, R15, R35, R107, R135, R144, R627: a write reaches a field by its access code, and half of a 64-bit atomic register takes none;
a write to a staged field goes to the open bank while beats run, and otherwise acts at once, or is ignored if its value is illegal; a
doorbell sets its lines, and a Sealed one only for the Sealed supervisor; a route takes its fields unless it is Sealed. Which registers
answer whom rests on the model's reading (assumptions 14 and 16). -/
def Obligations.RegisterWrites : Prop :=
  ∀ (s : State) (who : Agent), s.dead = false →
    (∀ (v : Word), reaches s who R.SESS_OVBASE = true →
      Leaves (.registerWrite who R.SESS_OVBASE true v) s (fun u => u.fld R.SESS_OVBASE F.SESS_OVBASE_ADDR = getF v F.SESS_OVBASE_ADDR ∧ SameMem u s) ∧
      Leaves (.registerWrite who R.SESS_OVBASE false v) s (fun u => SameMem u s ∧
        u.fld R.SESS_OVBASE ⟨31, 7⟩ = field v 31 7 ∧ u.fld R.SESS_OVBASE ⟨47, 32⟩ = s.fld R.SESS_OVBASE ⟨47, 32⟩)) ∧
    (∀ (v : Word) (e : EngineId), reaches s who (R.SLUICE_ISTAT e) = true →
      Leaves (.registerWrite who (R.SLUICE_ISTAT e) true v) s (fun u => u.reg (R.SLUICE_ISTAT e) = s.reg (R.SLUICE_ISTAT e) &&& ~~~(v &&& 0xFF))) ∧
    (∀ (v : Word) (e c : Fin 16), exec (.registerWrite who (R.SLUICE_CNT e c) false v) s = .next (settle s)) ∧
    (∀ (v : Word) (off : Nat) (size8 : Bool), (off % (if size8 then 8 else 4) ≠ 0 ∨ answersTo s who (off / 8 * 8) = false ∨ mayCtl s who = false) →
      exec (.registerWrite who off size8 v) s = .next (settle s) ∧ exec (.stagedWrite who off size8 v) s = .next (settle s)) ∧
    (∀ (v : Word), reaches s who R.BEAT_PERIOD = true →
      Leaves (.stagedWrite who R.BEAT_PERIOD true v) s (fun u =>
        let p := getF v F.BEAT_PERIOD_PERIOD
        if s.running = true then u.reg R.BEAT_PERIOD = s.reg R.BEAT_PERIOD ∧ u.flag R.BEAT_CG_STAT F.BEAT_CG_STAT_OPEN_DIRTY = true ∧
          ∃ w, SMap.get none u.beat.openBank R.BEAT_PERIOD = some w ∧ getF w F.BEAT_PERIOD_PERIOD = p
        else if 10000 ≤ p ∧ p ≤ 20000000 then u.fld R.BEAT_PERIOD F.BEAT_PERIOD_PERIOD = p
        else u.reg R.BEAT_PERIOD = s.reg R.BEAT_PERIOD ∧ u.fld R.BEAT_CG_STAT F.BEAT_CG_STAT_STATE = 3 ∧
          u.fld R.BEAT_CG_STAT F.BEAT_CG_STAT_REASON = 1 ∧ u.fld R.BEAT_CG_STAT F.BEAT_CG_STAT_FAILOFF = R.BEAT_PERIOD)) ∧
    (s.stopped = false →
      (∀ (t : Thr) (v : BitVec 4), reaches s who (R.FQ_TDOOR t) = true →
        Leaves (.tdoor who t v) s (fun u =>
          (u.thr t).bcr false CR.IPEND = (s.thr t).bcr false CR.IPEND ||| ((v &&& 3).setWidth 64 <<< 26) ∧
          (u.thr t).bcr true CR.IPEND = (s.thr t).bcr true CR.IPEND |||
            (if sealedSup s who = true then (v &&& 12).setWidth 64 <<< 26 else 0) ∧ (u.thr t).pc = (s.thr t).pc ∧ ∀ r, r ≠ t → u.thr r = s.thr r)) ∧
      (∀ (i : Fin 256) (v : Word), reaches s who (R.FQ_TROUTE i) = true →
        let r := R.FQ_TROUTE i
        Leaves (.trouteWrite who i v) s (fun u =>
          if sealedSup s who = false ∧ (s.flag r F.FQ_TROUTE_WORLD = true ∨ bit v 12 = true) then u.reg r = s.reg r
          else u.fld r F.FQ_TROUTE_EN = getF v F.FQ_TROUTE_EN ∧ u.fld r F.FQ_TROUTE_WORLD = getF v F.FQ_TROUTE_WORLD ∧
            u.fld r F.FQ_TROUTE_THREAD = (if getF v F.FQ_TROUTE_THREAD < 48 then getF v F.FQ_TROUTE_THREAD else s.fld r F.FQ_TROUTE_THREAD) ∧
            u.fld r F.FQ_TROUTE_LINE = (if getF v F.FQ_TROUTE_LINE < 24 then getF v F.FQ_TROUTE_LINE else s.fld r F.FQ_TROUTE_LINE))))

/-- R36–R38, R455, R627: ARM arms a legal bank and says why it rejects another; DISCARD empties the open bank, and CANCEL the armed one
until its edge is final. That CG_TARGET acts as it stands at the ARM, what it is compared with while RUN is 0, and that STATE reads
IDLE after a CANCEL are the model's choices (assumption 118). -/
def Obligations.CommitBanks : Prop :=
  ∀ (s : State), s.stopped = false →
      (s.beat.armed = true → Leaves .arm s (fun u => u.flag R.BEAT_CG_STAT F.BEAT_CG_STAT_BUSY = true ∧ u.beat = s.beat)) ∧
      (s.beat.armed = false →
        let v := underBank s s.beat.openBank
        let target := s.reg R.BEAT_CG_TARGET
        let fs := s.beat.openBank.flatMap (fun e => regFails s e.1 (v e.1)) ++ stretchFails v ++ overlapFails v ++ (if s.running then epochFails s v else []) ++
          (if target ≠ 0 ∧ target.toNat ≤ (nextBeat s).toNat then [⟨[R.BEAT_CG_TARGET], 2⟩] else [])
        Leaves .arm s (fun u => match failOf fs with
          | some (off, reason) => off < 2 ^ 26 → reason < 16 → u.beat = s.beat ∧ u.fld R.BEAT_CG_STAT F.BEAT_CG_STAT_STATE = 3 ∧
              u.fld R.BEAT_CG_STAT F.BEAT_CG_STAT_REASON = reason ∧ u.fld R.BEAT_CG_STAT F.BEAT_CG_STAT_FAILOFF = off
          | none => u.beat.armed = true ∧ u.beat.armedBank = s.beat.openBank ∧ u.beat.openBank = [] ∧ u.beat.armTarget = target ∧
              u.fld R.BEAT_CG_STAT F.BEAT_CG_STAT_STATE = 1)) ∧
      Leaves .discard s (fun u => u.beat.openBank = [] ∧ u.beat.armedBank = s.beat.armedBank ∧
        u.flag R.BEAT_CG_STAT F.BEAT_CG_STAT_OPEN_DIRTY = false) ∧
      Leaves .cancel s (fun u => u.beat.openBank = s.beat.openBank ∧
        if s.beat.armed = true ∧ ¬(s.running = true ∧ s.beat.scheduled = true ∧ (s.reg R.BEAT_NEXT).toNat - 100 ≤ s.now.toNat)
        then u.beat.armed = false ∧ u.beat.armedBank = [] ∧ u.fld R.BEAT_CG_STAT F.BEAT_CG_STAT_STATE = 0
        else u.beat.armed = s.beat.armed ∧ u.beat.armedBank = s.beat.armedBank ∧
          u.fld R.BEAT_CG_STAT F.BEAT_CG_STAT_STATE = s.fld R.BEAT_CG_STAT F.BEAT_CG_STAT_STATE)
/-! ### The Reel -/

/-- R462, R465, R466, R487, R489, R490, R494, R497, R499, R501: GO of a busy slot sets BUSYERR; GO of an idle one ends the collective that a
check refuses, lets one of a later beat wait and ends a late one; ABORT ends a collective; a deadline turns to the backup of the role
that is late, or, when there is none or it has not answered, ends the collective with MISSING. What a BKREQ that two roles wait for does and
which missing role ends the collective are the model's choices (assumption 81).
Where the rules leave a point open, it rests on the model's choices (assumptions 12, 78 and 79). -/
def Claims.ReelSlotsAndDeadlines : Prop :=
  ∀ (s : State) (who : Agent) (i : SlotId), s.stopped = false →
    (reaches s who (R.REEL_SCTL i) = true →
      (slotState s i ≠ 0 → Leaves (.reelGo who i) s (fun u => u.flag (R.REEL_SSTAT i) F.REEL_SSTAT_BUSYERR = true ∧ u.reel = s.reel ∧ SameMem u s)) ∧
      (slotState s i = 0 → inOneArea (s.reg (R.REEL_SDESC i)).toNat 128 = false → Leaves (.reelGo who i) s (fun u => slotState u i = 0 ∧
        u.fld (R.REEL_SSTAT i) F.REEL_SSTAT_LAST = RS.ADDR_RANGE)) ∧
      (∀ s1 bs, let b := bs.map (·.1)
        let d := parseReel b
        let a := (s.reg (R.REEL_SDESC i)).toNat
        slotState s i = 0 → inOneArea a 128 = true → windowRight (reelGoes s i) (slotWorld s i) true .load a 128 = true →
        memRead (reelGoes s i) .reel 0 a 128 = (s1, bs) →
        (∀ st, (reelCheck s1 i b d).1 = some st → st < 16 → Leaves (.reelGo who i) s (fun u => slotState u i = 0 ∧
          u.fld (R.REEL_SSTAT i) F.REEL_SSTAT_LAST = st ∧ (d.irq = true → bit (u.reg R.REEL_DONEMAP) i.val = true))) ∧
        ((reelCheck s1 i b d).1 = none → d.tag = 0 → Leaves (.reelGo who i) s (fun u =>
          (slotState u i = 2 ∧ (u.rslot i).desc = some d) ∨ slotState u i = 0)) ∧
        ((reelCheck s1 i b d).1 = none → d.tag ≠ 0 → d.tag ≠ 0xFFFF →
          (0 < tagDist s d.tag → Leaves (.reelGo who i) s (fun u => slotState u i = 1 ∧ (u.rslot i).desc = some d)) ∧
          (tagDist s d.tag < 0 → Leaves (.reelGo who i) s (fun u => slotState u i = 0 ∧
            u.fld (R.REEL_SSTAT i) F.REEL_SSTAT_LAST = RS.BEAT_LATE)))) ∧
      (slotBusy s i = false → exec (.reelAbort who i) s = .next (settle s)) ∧
      (slotBusy s i = true → Leaves (.reelAbort who i) s (fun u => CollEnds s u i RS.ABORTED))) ∧
    (∀ d, (s.rslot i).desc = some d →
      (∀ n, (live s i = false → exec (.grantDeadline i n) s = .next (settle s)) ∧
        (live s i = false ∨ d.dlhop = 0 → exec (.hopDeadline i n) s = .next (settle s))) ∧
      (live s i = true → ∀ q,
        (s.rslot i).roles.any (fun y => (owed d y).any (fun g => decide (g.dst = q)) && decide (SMap.get 0 (s.rslot i).grants (y.rank * 4096 + q) = 0)) = true →
        SMap.get 0 (s.rslot i).acts q = 0 →
        Leaves (.grantDeadline i q) s (fun u => match bkOf (s.rslot i).group q with
          | none => CollEnds s u i RS.MISSING
          | some b => live u i = true → SMap.get 0 (u.rslot i).acts q = b + 1)) ∧
      (live s i = true → 0 < d.dlhop → ∀ (y : RRole) (p h : Nat), (s.rslot i).roles = [y] → (sendersTo d y.rank).filter (fun p => lacks d y p h) = [p] →
        SMap.get 0 (s.rslot i).acts p = 0 → SMap.get false (s.rslot i).asked (p * 65536 + h) = false →
        Leaves (.hopDeadline i h) s (fun u => match bkOf (s.rslot i).group p with
          | none => CollEnds s u i RS.MISSING
          | some _ => live u i = true → SMap.get false (u.rslot i).asked (p * 65536 + h) = true)) ∧
      (live s i = true → 0 < d.dlhop → ∀ (y : RRole) (p h : Nat), (s.rslot i).roles = [y] → (s.rslot i).copies = [] →
        (sendersTo d y.rank).filter (fun p => lacks d y p h) = [p] → SMap.get false (s.rslot i).asked (p * 65536 + h) = true →
        SMap.get false (s.rslot i).heard p = false → Leaves (.bkwaitExpiry i h) s (fun u => CollEnds s u i RS.MISSING)))

/-- R467, R474, R489–R494, R505: a message that matches no slot is a stray; one of another program ends the collective with MISMATCH; a
GRANT raises what its sender accepts; a segment that fits is taken once; an ABORT, a NONE and a TAKEOVER of the own role end the
collective; a BKREQ for a copy and a RETREQ are answered with the bytes held, or with NONE.
Where the rules leave a point open, it rests on the model's choices (assumptions 80, 81 and 82). -/
def Claims.ReelMessages : Prop :=
  ∀ (s : State) (m : Msg) (h : RHdr), s.stopped = false →
    (∀ c ∈ reelCommands m, ReelArrives s m c.1 h →
      (slotFor s m h = none → Leaves c.2 s (fun u => u.reg R.REEL_STRAY = s.reg R.REEL_STRAY + 1 ∧ u.reel = s.reel ∧ SameMem u s)) ∧
      (∀ i d, slotFor s m h = some i → (s.rslot i).desc = some d → h.phash ≠ (s.rslot i).phash →
        Leaves c.2 s (fun u => CollEnds s u i RS.MISMATCH))) ∧
    (∀ i d, ReelMatches s m h i d → ReelArrives s m 7 h → s.flag R.REEL_CTRL F.REEL_CTRL_DIGEN = false →
      let st := if h.seg = RS.MISMATCH then RS.MISMATCH else RS.MISSING
      Leaves (.abort m) s (fun u => CollEnds s u i st ∧ (st = RS.MISMATCH →
        SameMem u (if statusOk s i d = true then memWrite s .reel d.staddr (statusRecord s (s.rslot i) st (s.fld (R.REEL_SSTAT i) F.REEL_SSTAT_SEQ)) else s)))) ∧
    (∀ i d, ReelMatches s m h i d →
      let x := s.rslot i
      (ReelArrives s m 6 h → Leaves (.none m) s (fun u => CollEnds s u i RS.MISSING)) ∧
      (ReelArrives s m 5 h → h.role = x.own.rank → Leaves (.takeover m) s (fun u => CollEnds s u i RS.REPLACED)) ∧
      (ReelArrives s m 1 h → Leaves (.grant m) s (fun u => live u i = true → ∀ y ∈ x.roles, (segsOut d y.rank).any (fun g => decide (g.dst = h.role)) = true →
        let k := y.rank * 4096 + h.role
        SMap.get 0 (u.rslot i).grants k = max (SMap.get 0 x.grants k) h.seg)) ∧
      (∀ c ∈ [(2, Instr.data m, false), (3, Instr.prepass m, true)], ReelArrives s m c.1 h → h.subst = false → live s i = true → ∀ (y : RRole) (g : RSeg),
        x.roles = [y] →
        (segsOut d h.role).filter (fun g => decide (g.hop = h.hop) && decide (g.idx = h.seg) && (c.2.2 == decide (g.ph = .preReduce ∨ g.ph = .preGather))) = [g] →
        g.dst = y.rank → SMap.get none y.got (segKey g.hop g.src g.idx) = none → payloadOk d g.ph g.lo g.n ((markedData m).drop 32) = true →
        Leaves c.2.1 s (fun u => u.reg R.REEL_RXBYTES = s.reg R.REEL_RXBYTES + BitVec.ofNat 64 (m.data.length - 32) ∧
          (live u i = true → ∃ z, (u.rslot i).role y.rank = some z ∧ SMap.get none z.got (segKey g.hop g.src g.idx) = some (RIn.mk ((markedData m).drop 32)
            (if h.badV then some ⟨64 * g.lo + h.badOff, h.badSrc, h.badKind⟩ else none))))) ∧
      (ReelArrives s m 4 h → devOf x.group h.role = m.src.toNat →
        (d.shv = false ∨ d.shrank ≠ h.role → Leaves (.bkreq m) s (fun u => u.reel = s.reel ∧ SameMem u s ∧ u.reg R.REEL_TXBYTES = s.reg R.REEL_TXBYTES)) ∧
        (∀ p s1 bs, d.shv = true → d.shrank = h.role → (ownSegs d h.role).find? (fun p => decide (p.1 = h.seg)) = some p →
          readShadow s d h.role p.1 p.2 = some (s1, bs) →
          Leaves (.bkreq m) s (fun u => SameMem u s1 ∧ u.reg R.REEL_TXBYTES = s.reg R.REEL_TXBYTES + BitVec.ofNat 64 bs.length))) ∧
      (ReelArrives s m 8 h →
        (h.role ≠ x.own.rank → Leaves (.retreq m) s (fun u => u.reel = s.reel ∧ SameMem u s ∧ u.reg R.REEL_TXBYTES = s.reg R.REEL_TXBYTES)) ∧
        (∀ k len bad s1 bs, h.role = x.own.rank → d.retain = true → areaOut s (d.raddr + retainAt d x.own.rank h.hop h.seg) len = false →
          x.own.sent.find? (fun e => decide (e.1 / 2 ^ 32 / 4096 = h.hop) && decide (e.1 % 2 ^ 32 = h.seg)) = some (k, some (len, bad)) →
          memRead s .reel 0 (d.raddr + retainAt d x.own.rank h.hop h.seg) len = (s1, bs) →
          Leaves (.retreq m) s (fun u => SameMem u s1 ∧ u.reg R.REEL_TXBYTES = s.reg R.REEL_TXBYTES + BitVec.ofNat 64 bs.length))))

/-- `Claims.ReelSlotsAndDeadlines` and `Claims.ReelMessages` hold, both. -/
def Obligations.ReelCollectives : Prop := Claims.ReelSlotsAndDeadlines ∧ Claims.ReelMessages

/-! ### Start, host and mailbox -/

/-- R11, R12, R338, R523, R525, R527, R532–R534, R617, R620–R624: PWRGD and PERST_L leave the registers at their reset values beside the
straps, and PERST_L leaves HBM and the count of warm starts; the boot ROM starts the selected slot that verifies, or waits for an image; the end of the self-test puts the
stacks that passed into SERVICE; training and a hot reset set the endpoint's state.
Where the rules leave a point open, it rests on the model's choices (assumptions 61, 62, 89, 90, 91 and 92). -/
def Obligations.StartOfDevice : Prop :=
  ∀ (s : State),
    let atReset (u : State) : Prop := (∀ off, off ≠ R.GCTL_STRAPS → off ≠ R.GCTL_COMPAT → off ≠ R.GCTL_BOOTINFO → u.reg off = State.reset.reg off) ∧
      (∀ t, u.thr t = {}) ∧ u.flash = s.flash ∧ u.pending = s.pending
    let box (u : State) : Nat := u.fld R.MBOX_STATE F.MBOX_STATE_STATE
    (∀ (compat : Bool) (sel : BitVec 2),
      (s.power.powered = true → exec (.pwrgdRise compat sel) s = .next (settle s)) ∧
      (s.power.powered = false → s.power.perst = true → Leaves (.pwrgdRise compat sel) s (fun u => atReset u ∧ u.reg R.GCTL_BOOTINFO = 0 ∧ u.mem = [] ∧ u.power.powered = true ∧
        u.reg R.GCTL_STRAPS = BitVec.ofNat 64 (sel.toNat + (if compat then 4 else 0)) ∧ u.reg R.GCTL_COMPAT = if compat then 3 else 0))) ∧
    (∃ u, exec .pwrgdFall s = .next u ∧ u.power.powered = false ∧ u.regs = s.regs ∧ u.mem = s.mem ∧
      (s.power.powered = true → u.power.tripped = false)) ∧
    (s.power.perst = true → exec .perstAssert s = .next s) ∧
    (s.power.perst = false → s.dead = false → ∃ u, exec .perstAssert s = .next u ∧ atReset u ∧ u.power.perst = true ∧
      u.reg R.GCTL_STRAPS = s.reg R.GCTL_STRAPS ∧ u.reg R.GCTL_BOOTINFO = putF 0 F.GCTL_BOOTINFO_WARMCNT (s.fld R.GCTL_BOOTINFO F.GCTL_BOOTINFO_WARMCNT) ∧
      ∀ k, SMap.get 0 u.mem k = if k < Config.hbmBytes then SMap.get 0 s.mem k else 0) ∧
    (∀ a b, s.power.perst = false → exec (.perstDeassert a b) s = .next (settle s)) ∧
    (∀ a b, s.power.perst = true → s.dead = false → s.boot.started = false →
      let image (k : Nat) : Verified := slotImage (putImage (putImage s 0 a) 1 b) k
      let sel := s.fld R.GCTL_STRAPS F.GCTL_STRAPS_BOOT_SEL
      let first := if sel = 1 then 1 else 0
      let runs (u : State) (k : Nat) (i : Image) : Prop := box u = 2 ∧ u.fld R.MBOX_STATE F.MBOX_STATE_BOOTSRC = k ∧ u.sec.fw = some i
      Leaves (.perstDeassert a b) s (fun u => u.power.perst = false ∧ u.mc.running = true ∧
        (sel = 3 → u.flag R.MBOX_STATE F.MBOX_STATE_STRAPERR = true) ∧
        (sel = 2 → box u = 1) ∧
        (sel ≠ 2 → ∀ i, image first = .ok i → runs u first i) ∧
        (sel ≠ 2 → (∀ i, image first ≠ .ok i) → ∀ i, image (1 - first) = .ok i → runs u (1 - first) i) ∧
        (sel ≠ 2 → (∀ i, image 0 ≠ .ok i) → (∀ i, image 1 ≠ .ok i) → box u = 1 ∧ u.fld R.MBOX_STATE F.MBOX_STATE_BOOTSRC = 2))) ∧
    (∀ (fails : BitVec 24) (pchs : List (StackId × BitVec 6)) (spindles : BitVec 12) (mcOk : Bool) (ms : BitVec 16),
      ((s.dead = true ∨ box s ≠ 2) → exec (.selftestEnd fails pchs spindles mcOk ms) s = .next (settle s)) ∧
      (s.dead = false → box s = 2 → Leaves (.selftestEnd fails pchs spindles mcOk ms) s (fun u => box u = (if mcOk then 3 else 5) ∧
        u.flag R.GCTL_BOOTINFO F.GCTL_BOOTINFO_VALID = true ∧ u.flag R.GCTL_BOOTINFO F.GCTL_BOOTINFO_WARM = s.boot.warm ∧
        u.fld R.GCTL_BOOTINFO F.GCTL_BOOTINFO_TREADY = ms.toNat ∧
        (∀ n : SpindleId, spindles.getLsbD n.val = true → bit (u.reg R.MC_FENCED) n.val = true) ∧
        (∀ k : StackId, fails.getLsbD k.val = true → u.fld (R.MEM_STAT k) F.MEM_STAT_STATE = 3) ∧
        (s.flash.log = [] → pchs = [] → (∀ k, Config.hbmBytes ≤ k → SMap.get 0 u.mem k = 0) ∧
          ∀ k : StackId, fails.getLsbD k.val = false → s.fld (R.MEM_STAT k) F.MEM_STAT_STATE = 0 → u.fld (R.MEM_STAT k) F.MEM_STAT_STATE = 1)))) ∧
    (∀ (speed : BitVec 3) (width : BitVec 5),
      let fits := s.dead = false ∧ s.power.perst = false ∧ 1 ≤ speed.toNat ∧ speed.toNat ≤ 6 ∧ width.toNat ∈ [1, 2, 4, 8, 16]
      let v := if s.level1 then min 5 speed.toNat else speed.toNat
      (¬fits → exec (.linkTraining speed width) s = .next (settle s)) ∧
      (fits → Leaves (.linkTraining speed width) s (fun u => u.host.linkUp = true ∧
        u.reg R.GCTL_PCIESTAT = BitVec.ofNat 64 (v + width.toNat * 2 ^ 4 + (if v = 6 then 2 ^ 9 else 0) + 2 ^ 10)))) ∧
    (s.dead = false → Leaves .hotReset s (fun u => u.host.linkUp = false ∧ u.host.bme = false ∧ u.host.msixEn = false ∧ u.host.atsEn = false ∧
      u.host.priEn = false ∧ u.host.d3hot = false ∧ u.host.barLog2 = 36 ∧ u.reg R.GCTL_PCIESTAT = 0 ∧ SameMem u s ∧
      ∀ t, (u.thr t).orphans = [] ∧ ∀ h ∈ (u.thr t).host, h.reply ≠ .waiting))

/-- R6, R402, R523–R531: what the endpoint's configuration becomes; a masked vector's message leaves when it is unmasked; a BAR0 request is a
register access, or completes as a refusal; a BAR2 request is refused and recorded, or reads or writes the device address of its view.
Where the rules leave a point open, it rests on the model's choices (assumptions 17, 18 and 19). -/
def Obligations.HostRequests : Prop :=
  ∀ (s : State), s.dead = false →
    Leaves .busMasterEnableClear s (fun u => u.host = { s.host with bme := false } ∧ SameMem u s) ∧
    (∀ (ats pri : Bool) (alloc : BitVec 32) (b : Nat), Leaves (.busMasterEnableSet ats pri alloc b) s (fun u => u.host.bme = true ∧ u.host.atsEn = ats ∧
      u.host.priEn = pri ∧ u.host.priAlloc = alloc.toNat ∧ u.host.barLog2 = min 41 (max 28 b))) ∧
    (∀ d3, Leaves (.d3hotTransition d3) s (fun u => u.host.d3hot = d3)) ∧
    (∀ v : Fin 2048, Leaves (.msixUnmask (some v)) s (fun u => SMap.get false u.host.unmasked v.val = true ∧
      (s.host.msixEn = true → s.host.bme = true → s.host.funcMask = false → s.host.d3hot = false →
        SMap.get false u.host.pba v.val = false ∧ (SMap.get false s.host.pba v.val = true → .msix v.val ∈ u.out)))) ∧
    Leaves (.msixUnmask none) s (fun u => u.host.funcMask = false ∧ u.host.unmasked = s.host.unmasked) ∧
    (∀ m, Leaves (.msixEnableSet m) s (fun u => u.host.msixEn = true ∧ u.host.funcMask = m)) ∧
    (s.power.perst = false → ∀ (write : Bool) (off size : Nat) (v : Word), off < Config.ctlBytes →
      (s.host.d3hot = true → Leaves (.bar0Access write off size v) s (fun u => u.out = s.out ++ [.unsupportedRequest] ∧ u.regs = s.regs)) ∧
      (s.host.d3hot = false →
        ((size ≠ 4 ∧ size ≠ 8) ∨ off % size ≠ 0 → Leaves (.bar0Access write off size v) s (fun u => u.out = s.out ++ [.completerAbort] ∧ u.regs = s.regs)) ∧
        ((size = 4 ∨ size = 8) → off % size = 0 →
          exec (.bar0Access true off size v) s = exec (.registerWrite .host off (decide (size = 8)) v) s ∧
          Leaves (.bar0Access false off size v) s (fun u => u.regs = s.regs ∧
            u.out = s.out ++ [.completion (leBytes size (mmioRead s .host off (decide (size = 8))).toNat) false])))) ∧
    (s.stopped = false → s.power.perst = false → s.host.d3hot = false → ∀ (off n : Nat) (data : List Byte) (poisoned : Bool), 0 < n → data.length = n →
      off + n ≤ 2 ^ s.host.barLog2 →
      let h := hostView s off
      let refused (u : State) (w : Bool) (k : Nat) : Prop := u.reg R.GCTL_BAR2REF = s.reg R.GCTL_BAR2REF + 1 ∧ SameMem u s ∧
        u.reg R.GCTL_BAR2ERR = if s.flag R.GCTL_BAR2ERR F.GCTL_BAR2ERR_VALID then s.reg R.GCTL_BAR2ERR
          else BitVec.ofNat 64 (1 + h % 2 ^ 41 * 2 + (if w then 2 ^ 42 else 0) + k * 2 ^ 43)
      (∀ k, bar2Route s h n = .error k →
        Leaves (.bar2Read off n []) s (fun u => refused u false k ∧ u.out = s.out ++ [.completerAbort]) ∧
        Leaves (.bar2Write off data poisoned []) s (fun u => refused u true k ∧ u.out = s.out)) ∧
      (∀ a, bar2Route s h n = .ok a → windowOf a ≠ .tstore →
        (anyRowBusy s a n = false →
          let r := memRead s .host 0 a n
          Leaves (.bar2Read off n []) s (fun u => SameMem u r.1 ∧ u.out = r.1.out ++ [.completion (r.2.map (·.1)) (r.2.any (·.2))])) ∧
        (anyWriteBusy s a n = false → Leaves (.bar2Write off data poisoned []) s (fun u => SameMem u (memWrite s .host a data poisoned)))))

/-- R535–R545: a doorbell latches the command and makes the mailbox BUSY, or sets DBERR; each command does its work and leaves its result and
PROGRESS; its end writes RSPBUF and DONE and the next state; ABORT stops it after the part that has been done.
Where the rules leave a point open, it rests on the model's choices (assumptions 85, 86, 87 and 88). -/
def Obligations.MailboxCommands : Prop :=
  ∀ (s : State), s.dead = false →
    let st (u : State) : Nat := u.fld R.MBOX_STATE F.MBOX_STATE_STATE
    let w (i : Nat) : Nat := boxNat s i
    let ends (u : State) (r : Nat) (ws : List Word) : Prop := u.box.result = some (r, ws) ∧ u.box.cmd = s.box.cmd ∧ u.box.seq = s.box.seq
    let progress (u : State) (n : Nat) : Prop := u.reg R.MBOX_PROGRESS = BitVec.ofNat 64 n
    (∀ seq : BitVec 16, mcUp s = true →
      let cmd := (List.range 32).flatMap (fun i => leBytes 8 (s.reg (R.MBOX_CMDBUF i)).toNat)
      let z := { s with box := { active := true, cmd := cmd, seq := seq, result := none } }
      let wait := decide (st s = 1)
      Leaves (.doorbell seq) s (fun u =>
        if st s = 3 ∨ (st s = 1 ∧ cmd.head? = some 0x10) then st u = 4 ∧ progress u 0 ∧ u.box.active = true ∧ u.box.cmd = cmd ∧ u.box.seq = seq ∧
          u.box.result = (boxFault z wait).map (fun f => (f, []))
        else u.flag R.MBOX_STATE F.MBOX_STATE_DBERR = true ∧ st u = st s ∧ u.box = s.box)) ∧
    (s.stopped = false →
      (working s 0x01 = true → Leaves .identify s (fun u => ends u BX.OK (identity s) ∧ SameMem u s)) ∧
      (working s 0x02 = true → ∀ c, Leaves (.memtest [] c) s (fun u => (∃ x, ends u BX.OK [0, x, 0, BitVec.ofNat 64 c]) ∧ progress u (w 2) ∧
        SameMem u (testWrites s (w 2)))) ∧
      (working s 0x03 = true → ∀ s1 bs, memRead s .mc 0 (w 2) (w 3) = (s1, bs) → Leaves .mailboxCopy s (fun u =>
        SameMem u (memWriteMarked s1 .mc (w 1) bs) ∧ progress u (w 3) ∧ ends u (if bs.any (·.2) then BX.POISONED else BX.OK) [BitVec.ofNat 64 (w 3)])) ∧
      (working s 0x04 = true → Leaves .fill s (fun u => progress u (w 2) ∧ ends u BX.OK [BitVec.ofNat 64 (w 2)] ∧
        SameMem u (memWrite s .mc (w 1) ((List.range (w 2)).map (fun i => (leBytes 8 (w 3)).getD (i % 8) 0))))) ∧
      (working s 0x05 = true → ∀ s1 bs, memRead s .mc 0 (w 1) (w 2) = (s1, bs) → Leaves .check s (fun u => SameMem u s1 ∧ progress u (w 2) ∧
        ends u (if bs.any (·.2) then BX.POISONED else BX.OK) [BitVec.ofNat 64 (crc (w 3 % 128) (w 4 % 2 ^ (w 3 % 128)) (w 5)
          (decide (w 3 / 256 % 2 = 1)) (decide (w 3 / 512 % 2 = 1)) (w 6) (bs.map (·.1))), BitVec.ofNat 64 (w 2)])) ∧
      (working s 0x06 = true → ∀ g s1 fl bad (t : Word) mm, gemmOf s = some g → gemmRun s g (g.m * g.n) = (s1, fl, bad) →
        Leaves (.gemm t mm) s (fun u => SameMem u s1 ∧ progress u (g.m * g.n) ∧
          ends u (if bad then BX.POISONED else BX.OK) [fl.zeroExtend 64, t, BitVec.ofNat 64 mm])) ∧
      (working s 0x07 = true → ∀ errs : List Nat, Leaves (.linktest errs) s (fun u => ∃ ws : List Word, ws.length = 16 ∧
        ends u (if linkMode s = 0 then (if (portsOf s).all (fun p => decide (portState s p = PS.UP)) then BX.OK else BX.TEST_FAIL)
          else if (portsOf s).all (fun p => decide (errs.getD p.val 0 = 0)) then BX.OK else BX.TEST_FAIL) ws ∧
        ∀ p : PortId, p ∉ portsOf s → ws.getD p.val 0 = 0)) ∧
      (working s 0x10 = true → Leaves .bootload s (fun u => progress u (w 2) ∧ (w 3 ≠ 1 → ends u BX.OK []) ∧ (w 3 = 1 → ends u BX.OK [] ∨ ends u BX.AUTH []) ∧
        ∀ i, i < w 2 → SMap.get 0 u.boot.image (w 1 + i) = (leBytes 8 (s.reg (R.MBOX_DATA (i / 8))).toNat).getD (i % 8) 0))) ∧
    (∀ r ws, s.box.active = true → mcUp s = true → s.box.result = some (r, ws) → r < 256 → ws.length < 32 →
      Leaves .commandEnd s (fun u => u.box = {} ∧ bit (u.reg R.MBOX_IRQ) 0 = true ∧
        u.reg (R.MBOX_RSPBUF 0) = BitVec.ofNat 64 (r + s.box.seq.toNat * 2 ^ 16) ∧ u.reg R.MBOX_DONE = BitVec.ofNat 64 (s.box.seq.toNat + r * 2 ^ 16) ∧
        (∀ i, i < ws.length → u.reg (R.MBOX_RSPBUF (i + 1)) = ws.getD i 0) ∧
        (¬(boxOp s = 0x10 ∧ s.sec.fw = none) → st u = 3) ∧
        (boxOp s = 0x10 → s.sec.fw = none → st u = 1 ∨ (st u = 2 ∧ r = BX.OK ∧ w 3 = 1 ∧ u.sec.fw.isSome = true)))) ∧
    ((s.box.active && s.box.result.isNone && mcUp s) = false → ∀ n, exec (.mboxAbort n) s = .next (settle s)) ∧
    ((s.box.active && s.box.result.isNone && mcUp s) = true → ∀ n, Leaves (.mboxAbort n) s (fun u => ends u BX.ABORTED [] ∧
      (s.stopped = false → boxOp s = 0x04 → progress u (min n (w 2)) ∧
        SameMem u (memWrite s .mc (w 1) ((List.range (min n (w 2))).map (fun i => (leBytes 8 (w 3)).getD (i % 8) 0))))))


/-! ### Security -/

/-- R549, R551, R553, R555, R566, R567: each SEC.CMD operation ends with its result; one that fails leaves the Sealed world as it was; LOAD_SEALED
starts the verified image with its memory, banks and first thread; TEARDOWN ends the Sealed world and its keys; the Sealed supervisor changes
regions, pans and counters, and no counter decreases. That LOAD_SEALED of a thread above 47, or of a header outside HBM, ends with RANGE is the
model's choice (assumption 129).
Where the rules leave a point open, it rests on the model's choices (assumptions 95, 101, 102, 103, 104 and 105). -/
def Obligations.SealedWorld : Prop :=
  ∀ (s : State) (who : Agent), mcUp s = true → mayCtl s who = true →
    let res (u : State) : Nat := u.fld R.SEC_CMD F.SEC_CMD_RESULT
    let sup := sealedSup s who
    let ends (c : Instr) (r : Nat) (P : State → Prop) : Prop := Leaves c s (fun u => res u = r ∧ P u)
    let fails (c : Instr) (r : Nat) : Prop := ends c r (fun u => u.sec = s.sec ∧ u.flash = s.flash ∧ sealedState u = sealedState s ∧
      u.reg R.SEC_SPAN = s.reg R.SEC_SPAN ∧ ∀ t, u.thr t = s.thr t)
    (∀ t : Byte,
      let p := (s.reg R.SEC_CMDADDR).toNat
      let x := s.thr (thrNo t.toNat)
      (sealedState s ≠ 0 → fails (.loadSealed who t) 4) ∧
      (sealedState s = 0 → debugOpen s = true → fails (.loadSealed who t) 7) ∧
      (sealedState s = 0 → debugOpen s = false → 48 ≤ t.toNat → fails (.loadSealed who t) 5) ∧
      (sealedState s = 0 → debugOpen s = false → t.toNat < 48 → x.run = .halted → x.world = false → Config.hbmBytes < p + 512 → fails (.loadSealed who t) 5) ∧
      (sealedState s = 0 → debugOpen s = false → t.toNat < 48 → (x.run ≠ .halted ∨ x.world = true) → fails (.loadSealed who t) 1) ∧
      (sealedState s = 0 → debugOpen s = false → t.toNat < 48 → x.run = .halted → x.world = false →
        ∀ s1 hd s2 bs,
          let h := hd.map (·.1)
          let len := bytesAt h 0x018 8
          let load := bytesAt h 0x010 8
          let region := bytesAt h 0x028 8
          memRead (secFields s 1 t.toNat) .mc 0 p 512 = (s1, hd) → p + 512 ≤ Config.hbmBytes → p + 512 + len ≤ Config.hbmBytes →
          memRead s1 .mc 0 (p + 512) len = (s2, bs) →
          let v := verifyImage s2 2 (h ++ bs.map (·.1))
          let refused (r : Nat) : Prop := ends (.loadSealed who t) r (fun u => u.sec = s.sec ∧ sealedState u = 0 ∧ ∀ k, (u.thr k).world = (s.thr k).world)
          (((hd ++ bs).any (·.2) = true ∨ v = .auth) → refused 2) ∧
          ((hd ++ bs).any (·.2) = false → v = .rollback → refused 3) ∧
          (∀ i, (hd ++ bs).any (·.2) = false → v = .ok i →
            let fits := load % 0x200000 = 0 ∧ 0 < region ∧ load + region ≤ Config.hbmBytes ∧
              ∀ j, 1 ≤ j → j < 8 → getF (s.sregion j) F.SEC_SREGION_EN ≠ 0 → load + region ≤ regionBase (s.sregion j) ∨ regionLimit (s.sregion j) ≤ load
            (¬fits → refused 5) ∧
            (fits → ends (.loadSealed who t) 0 (fun u => sealedState u = 2 ∧ u.sec.sealedImg = some i ∧
              u.sregion 0 = BitVec.ofNat 64 (3 + load / 0x200000 * 2 ^ 2 + (load + region) / 0x200000 * 2 ^ 22) ∧
              (∀ k : Thr, (u.thr k).bcr true CR.GTB = BitVec.ofNat 64 (bytesAt h 0x030 8) &&& 0x0000FFFFFFFFC1FF ∧
                (u.thr k).bcr true CR.TSBR = BitVec.ofNat 64 (bytesAt h 0x038 8 + 512 * k.val) &&& 0x0000FFFFFFFFFE00) ∧
              (u.thr (thrNo t.toNat)).run = .running ∧ (u.thr (thrNo t.toNat)).world = true ∧ (u.thr (thrNo t.toNat)).level = true ∧
              (u.thr (thrNo t.toNat)).pc = BitVec.ofNat 48 (bytesAt h 0x020 8 / 4 * 4) ∧
              (u.thr (thrNo t.toNat)).rg 1 = BitVec.ofNat 64 load ∧ (u.thr (thrNo t.toNat)).rg 2 = BitVec.ofNat 64 region))))) ∧
    (sealedState s ≠ 2 → fails (.teardown who) 4) ∧
    (sealedState s = 2 → ends (.teardown who) 0 (fun u => sealedState u = 0 ∧ u.sec.sealedImg = none ∧
      (∀ i, i < 8 → getF (u.sregion i) F.SEC_SREGION_EN = 0) ∧ (∀ n : SpindleId, bit (u.reg R.SEC_SPAN) n.val = false) ∧
      (∀ k j, k < 16 → j < 4 → u.reg (R.SEC_TKEY_KEY k j) = 0 ∧ u.reg (R.SEC_TKEY_CTL k) = 0) ∧
      (∀ k j, k < 2 → j < 4 → u.reg (R.SEC_FKEY_KEY k j) = 0 ∧ u.reg (R.SEC_FKEY_CTL k) = 0) ∧
      ∀ t, (u.thr t).suspended = none ∧ (u.thr t).bankS = [(CR.FCSR, 0x100000)])) ∧
    (∀ i : Byte,
      let w := s.reg (R.SEC_SREGION i.toNat)
      let fits := i.toNat < 8 ∧ regionBase w < regionLimit w ∧ regionLimit w ≤ Config.hbmBytes ∧
        ∀ j, j < 8 → j ≠ i.toNat → getF (s.sregion j) F.SEC_SREGION_EN ≠ 0 → regionLimit w ≤ regionBase (s.sregion j) ∨ regionLimit (s.sregion j) ≤ regionBase w
      (sup = false → fails (.addRegion who i) 6 ∧ fails (.removeRegion who i) 6) ∧
      (sup = true → ¬fits → fails (.addRegion who i) 5) ∧
      (sup = true → fits → ends (.addRegion who i) 0 (fun u => u.sregion i.toNat = putF w F.SEC_SREGION_EN 1 ∧ SameMem u s ∧
        (∀ j, j < 8 → j ≠ i.toNat → u.sregion j = s.sregion j) ∧
        u.sec.draws = s.sec.draws + (if getF w F.SEC_SREGION_ENC = 1 then 1 else 0))) ∧
      (sup = true → (7 < i.toNat ∨ getF (s.sregion i.toNat) F.SEC_SREGION_EN = 0) → fails (.removeRegion who i) 5) ∧
      (sup = true → i.toNat < 8 → getF (s.sregion i.toNat) F.SEC_SREGION_EN ≠ 0 → ends (.removeRegion who i) 0 (fun u =>
        u.sregion i.toNat = 0 ∧ (∀ j, j < 8 → j ≠ i.toNat → u.sregion j = s.sregion j) ∧
        let z := (secFields s 4 i.toNat).setReg (R.SEC_SREGION i.toNat) (putF w F.SEC_SREGION_EN 0)
        SameMem u (zeroArea (setRegions z i.toNat 0 0) (regionBase (s.sregion i.toNat)) (regionLimit (s.sregion i.toNat) - regionBase (s.sregion i.toNat)))))) ∧
    (∀ n : Byte,
      (sup = false → fails (.addPan who n) 6 ∧ fails (.removePan who n) 6) ∧
      (sup = true → 11 < n.toNat → fails (.addPan who n) 5 ∧ fails (.removePan who n) 5) ∧
      (sup = true → n.toNat < 12 → ends (.addPan who n) 0 (fun u => u.reg R.SEC_SPAN = setBit (s.reg R.SEC_SPAN) n.toNat true ∧ SameMem u s)) ∧
      (sup = true → n.toNat < 12 → bit (s.reg R.SEC_SPAN) n.toNat = true → ends (.removePan who n) 0 (fun u =>
        u.reg R.SEC_SPAN = setBit (s.reg R.SEC_SPAN) n.toNat false ∧
        ∀ k, SMap.get 0 u.mem k =
          if panAddr (spindleNo n.toNat) 0 ≤ k ∧ k < panAddr (spindleNo n.toNat) 0 + Config.panBytes then 0 else SMap.get 0 s.mem k))) ∧
    (∀ i : Byte,
      let old := s.flash.arctr.toList.getD i.toNat 0
      let v := if i = 0 then s.sec.fw.map (·.svn) else if i = 1 then s.sec.sealedImg.map (·.svn) else some ((s.reg R.SEC_CMDADDR).toNat % 128)
      (1 < i.toNat → sup = false → fails (.advance who i) 6) ∧
      ((i.toNat ≤ 1 ∨ sup = true) → i.toNat < 64 →
        (v = none → fails (.advance who i) 4) ∧
        (∀ n, v = some n →
          ((n < old ∨ 64 < n) → fails (.advance who i) 5) ∧
          (old ≤ n → n ≤ 64 → ends (.advance who i) 0 (fun u => u.fld (R.SEC_ARCTR i.toNat) F.SEC_ARCTR_VALUE = n ∧
            u.flash = { s.flash with arctr := s.flash.arctr.set! i.toNat n } ∧ SameMem u s)))))

/-- R559, R564, R565: a write of a transfer key clears both sequences; keys arrive only in a secure session, while the Sealed world runs and
EXTKEY is set; the responder answers each request; only a valid signature opens debug, and a running Sealed world is torn down first.
Where the rules leave a point open, it rests on the model's choices (assumptions 95 and 106). -/
def Obligations.KeysAndAttestation : Prop :=
  ∀ (s : State), mcUp s = true →
    let open' (ses : Option (BitVec 32)) : Prop := ses.isSome = true ∧ sealedState s = 2 ∧ s.flag R.SEC_FCTL F.SEC_FCTL_EXTKEY = true
    let same (u : State) : Prop := ∀ k j, u.reg (R.SEC_TKEY_KEY k j) = s.reg (R.SEC_TKEY_KEY k j) ∧ u.reg (R.SEC_FKEY_KEY k j) = s.reg (R.SEC_FKEY_KEY k j)
    let answered (u : State) : Prop := u.sec.answers = s.sec.answers + 1 ∧ ∃ ses b, u.out = s.out ++ [.spdm ses b]
    (∀ (who : Agent) (k : Fin 16) (i : Fin 4) (v : Word),
      (reaches s who (R.SEC_TKEY_KEY k i) = true → Leaves (.tkeyWrite who k i v) s (fun u => u.reg (R.SEC_TKEY_KEY k i) = v ∧
        u.reg (R.SEC_TKEY_TXSEQ k) = 0 ∧ u.reg (R.SEC_TKEY_RXSEQ k) = 0 ∧
        ∀ o, o ≠ R.SEC_TKEY_KEY k i → o ≠ R.SEC_TKEY_TXSEQ k → o ≠ R.SEC_TKEY_RXSEQ k → u.reg o = s.reg o)) ∧
      (reaches s who (R.SEC_TKEY_KEY k i) = false → exec (.tkeyWrite who k i v) s = .next (settle s))) ∧
    (∀ ses req, Leaves (.spdmRequest ses req) s (fun u => u.regs = s.regs ∧ u.sec.answers = s.sec.answers + 1 ∧
      u.out = s.out ++ [.spdm ses (Config.spdmAnswer s.sec.answers (measurements s) req)])) ∧
    (∀ ses (slot : Byte) (fixed : BitVec 32) (key : BitVec 256),
      (¬(open' ses ∧ slot.toNat < 16) → Leaves (.setTkey ses slot fixed key) s (fun u => same u ∧ answered u)) ∧
      (open' ses → slot.toNat < 16 → Leaves (.setTkey ses slot fixed key) s (fun u => answered u ∧
        (∀ i, i < 4 → u.reg (R.SEC_TKEY_KEY slot.toNat i) = (key >>> (64 * i)).truncate 64) ∧
        u.fld (R.SEC_TKEY_CTL slot.toNat) F.SEC_TKEY_CTL_FIXED = fixed.toNat ∧ u.flag (R.SEC_TKEY_CTL slot.toNat) F.SEC_TKEY_CTL_VALID = true)) ∧
      (¬(open' ses ∧ slot.toNat < 2) → Leaves (.setFkey ses slot fixed key) s (fun u => same u ∧ answered u)) ∧
      (open' ses → slot.toNat < 2 → Leaves (.setFkey ses slot fixed key) s (fun u => answered u ∧
        (∀ i, i < 4 → u.reg (R.SEC_FKEY_KEY slot.toNat i) = (key >>> (64 * i)).truncate 64) ∧
        u.flag (R.SEC_FKEY_CTL slot.toNat) F.SEC_FKEY_CTL_VALID = true))) ∧
    (∀ pub r sg,
      let good := Config.sha512 pub = Config.fuseDbgKey ∧
        Config.ecdsaVerify pub (Config.sha512 (Config.challenge s.sec.challenges ++ idhashBytes)) r sg = true
      ((s.flash.lifecycle ≠ 1 ∨ ¬good) → Leaves (.debugUnlock pub r sg) s (fun u => u.regs = s.regs)) ∧
      (s.flash.lifecycle = 1 → good → Leaves (.debugUnlock pub r sg) s (fun u => u.flag R.SEC_STAT F.SEC_STAT_DEBUG = true ∧
        (sealedState s = 2 → sealedState u = 0) ∧ (sealedState s ≠ 2 → sealedState u = sealedState s))))

/-! ### Reliability -/

/-- R575–R579: a report reaches the MC's FIFO, or is lost when the MC is away and the FIFO full; each report merges into the entry of its key,
opens the lowest free entry, or is recorded alone; an entry's record is written once; the ring takes a record while it has room, and RFULL shows
one that waits; FMFREE and ERRHEAD act or set their error bits. That FMFREE of an entry without a fault sets FREEERR is the model's choice
(assumption 130).
Where the rules leave a point open, it rests on the model's choices (assumptions 95 and 99). -/
def Obligations.FaultMerging : Prop :=
  ∀ (s : State),
    (∀ r, s.dead = false → Leaves (.faultReport r) s (fun u =>
      if s.mc.running = false ∧ 4096 ≤ s.mc.fifo.length then u.reg R.MC_REPLOST = s.reg R.MC_REPLOST + 1 ∧ u.mc = s.mc
      else u.mc = { s.mc with fifo := s.mc.fifo ++ [r] } ∧ u.regs = s.regs)) ∧
    (∀ r, SMap.wf none s.mc.table = true → (∀ i j m n, mergeAt s i = some m → mergeAt s j = some n → m.key = n.key → i = j) →
      let u := mergeReport s r
      let due (cls : BitVec 2) (count : Nat) : Bool :=
        decide (cls = 3) || (decide (cls = 0) && decide (s.fld R.MC_ERRCFG F.MC_ERRCFG_CETHRESH ≠ 0) && decide (s.fld R.MC_ERRCFG F.MC_ERRCFG_CETHRESH ≤ count))
      let me : BitVec 4096 := BitVec.ofNat 4096 (2 ^ r.reporter.toNat)
      (∀ e m, mergeAt s e = some m → m.key = reportKey r →
        let count := min (m.count + 1) 4294967295
        let cls := if m.cls.toNat < r.cls.toNat then r.cls else m.cls
        u.reg R.MC_REPORTS = s.reg R.MC_REPORTS + 1 ∧
          mergeAt u e = some { m with count := count, map := m.map ||| me, cls := cls, repair := m.repair || r.repair, delivered := m.delivered || due cls count } ∧
          ∀ j, j ≠ e → mergeAt u j = mergeAt s j) ∧
      ((∀ e m, mergeAt s e = some m → m.key ≠ reportKey r) →
        (∀ e, e < 256 → mergeAt s e = none → (∀ j, j < e → mergeAt s j ≠ none) →
          u.reg R.MC_REPORTS = s.reg R.MC_REPORTS + 1 ∧
            mergeAt u e = some (Merge.mk (reportKey r) r.cls r.code r.repair r.detail r.reporter r.time s.beatNo 1 me (due r.cls 1) s.now) ∧
            ∀ j, j ≠ e → mergeAt u j = mergeAt s j) ∧
        ((∀ e, e < 256 → mergeAt s e ≠ none) → u.mc.table = s.mc.table ∧ u.reg R.MC_FMOVF = s.reg R.MC_FMOVF + 1 ∧ (s.mc.waiting = [] → errRoom s = true → bit (u.reg R.MC_IRQ) 2 = true) ∧
          u.reg R.MC_REPORTS = s.reg R.MC_REPORTS))) ∧
    (∀ r, s.mc.waiting = [] →
      let u := putRecord s r
      let a := ringSlot (s.fld R.MC_ERRBASE F.MC_ERRBASE_ADDR * 64) (errSize s) (errTail s)
      (errRoom s = false → u.mc.waiting = [r] ∧ u.regs = (s.setFlag R.MC_FMSTAT F.MC_FMSTAT_RFULL true).regs ∧ SameMem u s) ∧
      (errRoom s = true → u.mc.waiting = [] ∧ u.fld R.MC_ERRTAIL F.MC_ERRTAIL_INDEX = (errTail s + 1) % 2 ^ 32 ∧
        u.reg R.MC_RECORDS = s.reg R.MC_RECORDS + 1 ∧ bit (u.reg R.MC_IRQ) 0 = true ∧ (r.unmerged = true → bit (u.reg R.MC_IRQ) 2 = true) ∧
        u.flag R.MC_FMSTAT F.MC_FMSTAT_RFULL = false ∧ SameMem u (memWrite s .mc a (recordBytes r (errSize s) (errTail s))))) ∧
    (∀ e : Fin 256, mcUp s = true →
      let settled (m : Merge) : Prop := m.delivered = true ∨ (m.cls = 0 ∧ s.fld R.MC_ERRCFG F.MC_ERRCFG_CETHRESH = 0)
      ((∀ m, mergeAt s e = some m → m.delivered = true) → exec (.mergeWindowExpiry e) s = .next (settle s)) ∧
      (∀ m, mergeAt s e = some m → Leaves (.mergeWindowExpiry e) s (fun u =>
        (settled m → mergeAt u e = some m) ∧ (¬settled m → mergeAt u e = some { m with delivered := true }) ∧ ∀ j, j ≠ e.val → mergeAt u j = mergeAt s j)) ∧
      (reaches s .mc R.MC_FMFREE = true →
        (∀ m, mergeAt s e = some m → m.delivered = true → recordOut s e = true →
          Leaves (.fmfree e) s (fun u => mergeAt u e = none ∧ ∀ j, j ≠ e.val → mergeAt u j = mergeAt s j)) ∧
        ((∀ m, mergeAt s e = some m → m.delivered = false ∨ recordOut s e = false) →
          Leaves (.fmfree e) s (fun u => u.mc = s.mc ∧ u.flag R.MC_FMSTAT F.MC_FMSTAT_FREEERR = true)))) ∧
    (∀ v : BitVec 32, reaches s .mc R.MC_ERRHEAD = true → Leaves (.errheadWrite v) s (fun u =>
      if errUsed s < (v.toNat + 2 ^ 32 - s.fld R.MC_ERRHEAD F.MC_ERRHEAD_INDEX) % 2 ^ 32 then
        u.flag R.MC_FMSTAT F.MC_FMSTAT_HEADERR = true ∧ u.reg R.MC_ERRHEAD = s.reg R.MC_ERRHEAD
      else u.fld R.MC_ERRHEAD F.MC_ERRHEAD_INDEX = v.toNat))

/-- R581–R584, R587: each repair command ends with its result, and one that fails changes nothing; FENCE_SPINDLE takes a drained Open
Spindle, with its pan, out of service; UNFENCE_SPINDLE and STAGE_FW stay BUSY until their test or write is over.
Where the rules leave a point open, it rests on the model's choices (assumptions 95 and 96). -/
def Obligations.RepairCommands : Prop :=
  ∀ (s : State), mcUp s = true →
    let busy (u : State) : Bool := u.flag R.MC_REPCMD F.MC_REPCMD_BUSY
    let ends (c : Instr) (r : Nat) (P : State → Prop) : Prop :=
      Leaves c s (fun u => u.fld R.MC_REPCMD F.MC_REPCMD_RESULT = r ∧ busy u = false ∧ bit (u.reg R.MC_IRQ) 3 = true ∧ P u)
    let fails (c : Instr) (r : Nat) : Prop := ends c r (fun u => u.reg R.MC_FENCED = s.reg R.MC_FENCED ∧ u.flash = s.flash)
    let fenced (n : Nat) : Bool := bit (s.reg R.MC_FENCED) n
    (busy s = true → ∀ a p q, exec (.fenceSpindle a p q) s = .next (settle s) ∧ exec (.unfenceSpindle a) s = .next (settle s) ∧
      exec (.stageFw a) s = .next (settle s) ∧ exec .clearlog s = .next (settle s)) ∧
    (busy s = false → ∀ (a : BitVec 12) (scope persist : Bool),
      let n := a.toNat
      let sp := spindleNo n
      let isSealed : Prop := (∃ k : Fin 4, (s.thr (thrOf sp k)).world = true ∨ ∃ o, (s.tile sp k).owner = some (o, true)) ∨ bit (s.reg R.SEC_SPAN) n = true
      let drained : Prop := (∀ k : Fin 4, (s.thr (thrOf sp k)).run = .halted ∧ takesPart s (thrOf sp k) = false ∧ (s.tile sp k).state = .idle ∧
        (s.tile sp k).owner = none) ∧ (s.mx sp).fills = [] ∧ fenced n = false
      let c : Instr := .fenceSpindle a scope persist
      (11 < n → fails c 4) ∧
      (n ≤ 11 → isSealed → fails c 3) ∧
      (n ≤ 11 → ¬isSealed → ¬drained → fails c 2) ∧
      (n ≤ 11 → ¬isSealed → drained → persist = true → 1024 ≤ s.flash.log.length → fails c 7) ∧
      (n ≤ 11 → ¬isSealed → drained → (persist = false ∨ s.flash.log.length < 1024) → ends c 0 (fun u =>
        (∀ i, i < 64 → bit (u.reg R.MC_FENCED) i = (fenced i || decide (i = n) || (scope && decide (i = 16 + n)))) ∧
        u.flash = { s.flash with log := if persist then s.flash.log ++ [.spindle n scope] else s.flash.log })) ∧
      (11 < n → fails (.unfenceSpindle a) 4) ∧
      (n ≤ 11 → fenced n = false → fails (.unfenceSpindle a) 2) ∧
      (n ≤ 11 → fenced n = true → Leaves (.unfenceSpindle a) s (fun u => busy u = true ∧ u.reg R.MC_FENCED = s.reg R.MC_FENCED)) ∧
      (1 < n → fails (.stageFw a) 4) ∧
      (n ≤ 1 → s.fld R.MC_FWSTAT F.MC_FWSTAT_RUNSLOT = n → fails (.stageFw a) 2) ∧
      (n ≤ 1 → s.fld R.MC_FWSTAT F.MC_FWSTAT_RUNSLOT ≠ n →
        let p := s.fld R.MC_REPADDR F.MC_REPADDR_ADDR
        let z := ((s.setFld R.MC_REPCMD F.MC_REPCMD_OP 3).setFld R.MC_REPCMD F.MC_REPCMD_ARG n).setFlag R.MC_REPCMD F.MC_REPCMD_SCOPE false
        ∀ s1 hd s2 bs,
          let len := min (bytesAt (hd.map (·.1)) 0x018 8) 0x400000
          let img := (hd ++ bs).map (·.1)
          memRead (z.setFlag R.MC_REPCMD F.MC_REPCMD_PERSIST false) .mc 0 p 512 = (s1, hd) → p + 512 + len ≤ Config.hbmBytes →
          memRead s1 .mc 0 (p + 512) len = (s2, bs) →
          let bad : Prop := (hd ++ bs).any (·.2) = true ∨ anySealed s2 p (512 + len) = true
          ((bad ∨ verifyImage s2 1 img = .auth) → fails (.stageFw a) 5) ∧
          (¬bad → verifyImage s2 1 img = .rollback → fails (.stageFw a) 6) ∧
          (∀ i, ¬bad → verifyImage s2 1 img = .ok i → Leaves (.stageFw a) s (fun u => busy u = true ∧
            u.flash = { s.flash with img := s.flash.img.set! n img } ∧ bit (u.reg R.MC_FWSTAT) (1 + n) = false)))) ∧
    (busy s = false →
      ((∃ k : StackId, s.fld (R.MEM_STAT k) F.MEM_STAT_STATE ≠ 0) → fails .clearlog 2) ∧
      ((∀ k : StackId, s.fld (R.MEM_STAT k) F.MEM_STAT_STATE = 0) → ends .clearlog 0 (fun u => u.flash = { s.flash with log := [] } ∧
        u.fld R.MC_REPLOG F.MC_REPLOG_USED = 0))) ∧
    (∀ ok : Bool,
      let n := s.fld R.MC_REPCMD F.MC_REPCMD_ARG
      let op := s.fld R.MC_REPCMD F.MC_REPCMD_OP
      let c : Instr := .repairCommandEnd ok
      (busy s = false → exec c s = .next (settle s)) ∧
      (busy s = true → op = 2 → ok = false → fails c 8) ∧
      (busy s = true → op = 2 → n < 12 → ok = true → ends c 0 (fun u =>
        (∀ i, i < 64 → bit (u.reg R.MC_FENCED) i = (fenced i && decide (i ≠ n) && decide (i ≠ 16 + n))) ∧
        u.flash.log = s.flash.log.filter (fun e => match e with | .spindle m _ => decide (m ≠ n) | _ => true) ∧
        ∀ k, SMap.get 0 u.mem k = if fenced (16 + n) = true ∧ panAddr (spindleNo n) 0 ≤ k ∧ k < panAddr (spindleNo n) 0 + Config.panBytes then 0
          else SMap.get 0 s.mem k)) ∧
      (busy s = true → op = 3 → n < 2 → ends c 0 (fun u => u.flash = s.flash ∧
        bit (u.reg R.MC_FWSTAT) (1 + n) = (match slotImage s n with | .ok _ => true | _ => false))))

/-- R570, R571, R580, R588, R589: the watchdog restarts the MC, which keeps its table and log; a kick by the MC alone defers it; new firmware
takes over, or the previous slot starts again; a weft packet delivered after retries is reported, and one that fails 16 stops the device. In which
state the mailbox shows a restarted MC, and that the running image must verify again, are the model's choices (assumption 130).
Where the rules leave a point open, it rests on the model's choices (assumptions 12, 97 and 100). -/
def Obligations.RestartsSwapsAndStops : Prop :=
  ∀ (s : State), s.dead = false →
    let box (u : State) : Nat := u.fld R.MBOX_STATE F.MBOX_STATE_STATE
    let ready (u : State) : Prop := box u = (if u.sec.fw = none then 1 else if s.selfTested then 3 else 2) ∧ u.mc.running = true ∧ u.mc.swapTo = none ∧ u.mc.watchdog = false ∧ u.mc.table = s.mc.table
    let fellBack (u : State) : Prop := ready u ∧ u.flag R.MC_FWSTAT F.MC_FWSTAT_FALLBACK = true ∧ u.flag R.MC_FWSWAP F.MC_FWSWAP_REQ = false ∧
      u.fld R.MC_FWSTAT F.MC_FWSTAT_RUNSLOT = s.fld R.MC_FWSTAT F.MC_FWSTAT_RUNSLOT ∧ u.sec.fw = s.sec.fw
    (s.mc.running = false → exec .watchdogExpiry s = .next (settle s)) ∧
    (s.mc.running = true → Leaves .watchdogExpiry s (fun u => u.mc.running = false ∧ u.mc.watchdog = true ∧ u.mc.table = s.mc.table ∧
      u.mc.waiting = s.mc.waiting ∧ u.flash = s.flash ∧ u.reg R.MC_FENCED = s.reg R.MC_FENCED ∧ u.box = {} ∧ box u = 0)) ∧
    (∀ who, reaches s who R.MC_WDOG = true →
      (who = .mc → s.mc.running = true → Leaves (.kick who) s (fun u => u.mc = { s.mc with kickAt := s.now } ∧ u.regs = s.regs)) ∧
      (who ≠ .mc → exec (.kick who) s = .next (settle s))) ∧
    (s.mc.swapTo = none → s.mc.watchdog = false → exec .newFirmwareReady s = .next (settle s)) ∧
    (s.mc.swapTo = none → exec .swapFallback s = .next (settle s)) ∧
    (s.mc.swapTo = none → restartOk s = false → exec .newFirmwareReady s = .next (settle s)) ∧
    (s.mc.swapTo = none → s.mc.watchdog = true → restartOk s = true → Leaves .newFirmwareReady s (fun u => ready u ∧
      ∃ r, u.mc.fifo = s.mc.fifo ++ [r] ∧ r.code = 0x13 ∧ r.kind = 10 ∧ r.cls = 2 ∧ r.detail = BitVec.ofNat 64 (s.fld R.MC_FWSTAT F.MC_FWSTAT_RUNSLOT))) ∧
    (∀ k, k < 2 → s.mc.swapTo = some k →
      Leaves .swapFallback s fellBack ∧
      ((∀ i, slotImage s k ≠ .ok i) → Leaves .newFirmwareReady s fellBack) ∧
      (∀ i, slotImage s k = .ok i → Leaves .newFirmwareReady s (fun u => ready u ∧ u.fld R.MC_FWSTAT F.MC_FWSTAT_RUNSLOT = k ∧
        u.flag R.MC_FWSWAP F.MC_FWSWAP_REQ = false ∧ u.reg R.MC_SWAPS = s.reg R.MC_SWAPS + 1 ∧ u.sec.fw = some i))) ∧
    (∀ link n,
      ((s.stopped = true ∨ n = 0) → exec (.weftPacketFailure link n) s = .next (settle s)) ∧
      (s.stopped = false → 0 < n → n < 16 → s.mc.running = true → Leaves (.weftPacketFailure link n) s (fun u => u.regs = s.regs ∧
        ∃ r, u.mc.fifo = s.mc.fifo ++ [r] ∧ r.code = 0x10 ∧ r.kind = 9 ∧ r.cls = 0 ∧ r.detail = BitVec.ofNat 64 link)) ∧
      (s.stopped = false → 16 ≤ n → Leaves (.weftPacketFailure link n) s (fun u => u.fatal = true ∧ u.fld R.MC_ERRSTAT F.MC_ERRSTAT_FSRC = 1 ∧
        u.flag R.BEAT_CTRL F.BEAT_CTRL_RUN = false ∧ (∀ t, (u.thr t).run = .halted) ∧ ∀ p : PortId, u.flag (R.HANK_CTRL p) F.HANK_CTRL_EN = false)))

/-! ### Power and temperature -/

/-- R593, R596, R597, R600–R603, R605: each sample sets the sensors, the quadrants' temperature and level, and trips at 115 °C; energy and
current reach their counters and throttle a quadrant above its limit; a voltage outside its tolerance is counted; at an edge the thermal limit
moves by the level, and the governing limit is shown.
Where the rules leave a point open, it rests on the model's choices (assumptions 107 and 108). -/
def Obligations.PowerAndTemperature : Prop :=
  ∀ (s : State),
    let failed (u : State) (i : Nat) : Bool := u.flag (R.MON_DIETEMP i) F.MON_DIETEMP_FAIL
    let temp (u : State) (i : Nat) : Nat := u.fld (R.MON_DIETEMP i) F.MON_DIETEMP_TEMP
    let throttled (u : State) (q : Nat) : Nat := u.fld R.THERM_STAT ⟨8 + q, 8 + q⟩
    (s.dead = false → ∀ temps : List (Option (BitVec 10)), Leaves (.dieTempSample temps) s (fun u =>
      (∀ i, i < 160 →
        (temps.getD i none = none → failed u i = true ∧ temp u i = temp s i) ∧
        (∀ x, temps.getD i none = some x → temp u i = x.toNat ∧ failed u i = decide (600 < x.toNat) ∧
          u.fld (R.MON_DIETEMP i) F.MON_DIETEMP_MAX =
            if x.toNat ≤ 600 then max x.toNat (s.fld (R.MON_DIETEMP i) F.MON_DIETEMP_MAX) else s.fld (R.MON_DIETEMP i) F.MON_DIETEMP_MAX)) ∧
      (∀ q, q < 4 →
        let good := ((List.range 40).map (fun k => 40 * q + k)).filter (fun i => !failed u i)
        let t := u.fld (R.MON_QTEMP q) F.MON_QTEMP_TEMP
        let old := quadLevel s q
        let w := s.fld R.THERM_CFG F.THERM_CFG_DWARM
        let h := s.fld R.THERM_CFG F.THERM_CFG_DHOT
        (good ≠ [] → (∃ i ∈ good, t = temp u i) ∧ ∀ i ∈ good, temp u i ≤ t) ∧
        u.fld R.THERM_STAT ⟨12 + q, 12 + q⟩ = (if good.length < 36 then 1 else 0) ∧
        (good.length < 36 → quadLevel u q = 2 ∧ (s.fld R.THERM_STAT ⟨12 + q, 12 + q⟩ = 0 → bit (u.reg R.THERM_IRQ) 5 = true)) ∧
        (36 ≤ good.length → quadLevel u q = dieLevel w h (s.fld R.THERM_CFG F.THERM_CFG_DCRIT) old t) ∧
        (quadLevel u q = 3 → throttled u q = 1) ∧
        (old < quadLevel u q → bit (u.reg R.THERM_IRQ) (quadLevel u q - 1) = true)) ∧
      ((∀ i, i < 160 → failed u i = false → temp u i < 460) → u.power.tripped = false ∧ u.flash = s.flash) ∧
      (∀ i, i < 160 → failed u i = false → 460 ≤ temp u i → (∀ j, j < i → failed u j = true ∨ temp u j < 460) →
        u.power.tripped = true ∧ u.flash = { s.flash with trip := (1, i) } ∧ .pin .thermtrip false ∈ u.out))) ∧
    (∀ w h c l t : Nat, w ≤ h → h ≤ c →
      (c ≤ t → dieLevel w h c l t = 3) ∧ (t < c → h ≤ t → 3 ≤ l → dieLevel w h c l t = 3) ∧
      (t < c → h ≤ t → l ≤ 2 → dieLevel w h c l t = 2) ∧
      (t < h → h < t + 12 → l = 2 → dieLevel w h c l t = 2) ∧
      (t < h → w ≤ t → l ≤ 1 → dieLevel w h c l t = 1) ∧ (t < h → t < w → w < t + 12 → l = 1 → dieLevel w h c l t = 1) ∧
      (t < w → l = 0 → dieLevel w h c l t = 0) ∧ (t + 12 ≤ w → l ≤ 2 → dieLevel w h c l t = 0)) ∧
    (s.dead = false → ∀ uj amps : List Nat, Leaves (.energyUpdate uj amps) s (fun u =>
      (∀ r, r < 12 → u.reg (R.PWR_ENERGY r) = s.reg (R.PWR_ENERGY r) + BitVec.ofNat 64 (uj.getD r 0)) ∧
      ∀ q : Fin 4,
        let a := amps.getD q.val 0
        let lim := s.fld (R.PWR_ILIM q) F.PWR_ILIM_AMPS
        (lim < a → u.power.overAmps[q] = true ∧ throttled u q = 1) ∧
        (a ≤ lim → u.power.overAmps[q] = (s.power.overAmps[q] && decide (lim * 9 ≤ a * 10)) ∧ throttled u q = throttled s q))) ∧
    (s.dead = false → ∀ (mv : List (BitVec 16)) (proc : List (BitVec 24)), Leaves (.monitorSample mv proc) s (fun u =>
      (∀ j v, j < 96 → mv[j]? = some v → u.fld (R.MON_VOLT j) F.MON_VOLT_V = v.toNat ∧
        u.fld (R.MON_VOLT j) F.MON_VOLT_MIN = min v.toNat (s.fld (R.MON_VOLT j) F.MON_VOLT_MIN) ∧
        u.fld (R.MON_VOLT j) F.MON_VOLT_MAX = max v.toNat (s.fld (R.MON_VOLT j) F.MON_VOLT_MAX)) ∧
      (∀ j, j < 96 → mv[j]? = none → u.reg (R.MON_VOLT j) = s.reg (R.MON_VOLT j)) ∧
      u.reg R.MON_VEXCCNT = s.reg R.MON_VEXCCNT + BitVec.ofNat 64 ((List.range 96).countP (fun j => match mv[j]? with
        | some v =>
          let r := railSpec s (s.fld (R.MON_VOLT j) F.MON_VOLT_RAIL)
          outside v.toNat r.1 r.2
        | none => false)) ∧
      (∀ k c, k < 48 → proc[k]? = some c → u.fld (R.MON_PROC k) F.MON_PROC_COUNT = c.toNat) ∧ SameMem u s)) ∧
    (∀ q : Fin 4,
      let u := switchQuad s q
      let fmax := s.fld (R.PWR_QFREQ q) F.PWR_QFREQ_FMAX
      let lim := u.power.thermLim[q]
      lim = (if quadLevel s q = 0 then min 84 (s.power.thermLim[q] + stepUp s)
        else if quadLevel s q = 2 then max 32 (s.power.thermLim[q] - stepDn s) else s.power.thermLim[q]) ∧
      u.fld (R.PWR_QFREQ q) F.PWR_QFREQ_LIM =
        (if fmax ≤ s.power.capLim ∧ fmax ≤ lim then 1 else if s.power.capLim ≤ lim then 2 else 3) ∧
      (min fmax (min s.power.capLim lim) < s.fld (R.PWR_QFREQ q) F.PWR_QFREQ_FCUR →
        u.fld (R.PWR_QFREQ q) F.PWR_QFREQ_FCUR = min fmax (min s.power.capLim lim)))

/-! ### Retirement -/

/-- R71, R101, R103, R222 (a write of LC or LE by the instruction itself counts before the loops are judged: assumption 121): an instruction that completes and raises no trap counts once, clears VRES.VRV, closes a loop's body as R71 says, or goes
where it branches; the thread's other registers and flags, every other thread, the other registers and memory are as its body left them. -/
def Obligations.RetirementFrame : Prop :=
  ∀ (s s1 : State) (is : Issue) (i : Insn) (target : Addr), firstAfter (s.thr is.thr) = none →
    let t := is.thr
    let x := s1.thr t
    let pc := (s.thr t).pc
    let issued := R.SPINDLE_ISSUED (spindleOf t) (threadIn t)
    let paired := R.SPINDLE_PAIRED (spindleOf t) (threadIn t)
    let slotB := (s.thr t).group.isSome
    let ends (j : Nat) : Prop := lcOf x j ≠ 0 ∧ leOf x j = pc
    let back1 : Prop := ends 1 ∧ lcOf x 1 ≠ 1
    let kept (r : State) : Prop :=
      (let y := r.thr t
       y.g = x.g ∧ y.v = x.v ∧ y.m = x.m ∧ y.run = x.run ∧ y.world = x.world ∧ y.level = x.level ∧ y.bankO = x.bankO ∧ y.bankS = x.bankS ∧
        y.tx = x.tx ∧ y.instret = x.instret + 1 ∧ y.ucr CR.VRES = setBit (x.ucr CR.VRES) 32 false ∧
        ∀ n, n ≠ CR.VRES → n ≠ CR.LC 0 → n ≠ CR.LC 1 → y.ucr n = x.ucr n) ∧
      (∀ u, u ≠ t → r.thr u = s1.thr u) ∧ SameMem r s1 ∧ r.out = s1.out ∧ r.spindles = s1.spindles ∧
      r.reg issued = s1.reg issued + (if slotB then 0 else 1) ∧ r.reg paired = s1.reg paired + (if slotB then 1 else 0) ∧
      ∀ o, o ≠ issued → o ≠ paired → r.reg o = s1.reg o
    (kept (retire s s1 is i none) ∧
      (let y := (retire s s1 is i none).thr t
       (back1 → y.pc = lsOf x 1 ∧ y.ucr (CR.LC 0) = x.ucr (CR.LC 0)) ∧
        (¬back1 → ends 0 → y.pc = (if lcOf x 0 = 1 then pc + BitVec.ofNat 48 i.len else lsOf x 0) ∧
          y.ucr (CR.LC 0) = x.ucr (CR.LC 0) - 1) ∧
        (¬back1 → ¬ends 0 → y.pc = pc + BitVec.ofNat 48 i.len ∧ y.ucr (CR.LC 0) = x.ucr (CR.LC 0)) ∧
        (ends 1 → y.ucr (CR.LC 1) = x.ucr (CR.LC 1) - 1) ∧ (¬ends 1 → y.ucr (CR.LC 1) = x.ucr (CR.LC 1)))) ∧
    (kept (retireJump s s1 is i target) ∧
      (let y := (retireJump s s1 is i target).thr t
       y.pc = target ∧ y.group = none ∧ y.ucr (CR.LC 0) = x.ucr (CR.LC 0) ∧ y.ucr (CR.LC 1) = x.ucr (CR.LC 1)))

/-! ### The block as a whole -/

/-- The queue is first in, first out: a step runs the command at its front on everything else. -/
def Obligations.StepTakesTheFront : Prop :=
  ∀ (c : Instr) (cs : List Instr) (s : State), step { s with pending := c :: cs } = exec c { s with pending := cs }

/-- The model's own choice (log entry 2): with no command waiting, one nanosecond of the timebase clock passes. BEAT.TIMEBASE then advances at
the servo's rate (R43), each quadrant's cycles at its frequency (R1, R99), and the clocks that count stalls and heat while their condition holds. -/
def Claims.AnEmptyQueueIsTime : Prop :=
  ∀ (s : State), s.pending = [] →
    ∃ u, step s = .next u ∧ u.pending = [] ∧ SameMem u s ∧ u.threads = s.threads ∧ u.out = s.out ∧
      (s.beat.rate = 0 → s.beat.frac < 10 ^ 9 → u.now = s.now + 1 ∧ u.beat = s.beat) ∧
      (∀ q : Fin 4, 40 * u.cycles[q] + u.cycleFrac[q] = 40 * s.cycles[q] + s.cycleFrac[q] + s.fld (R.PWR_QFREQ q) F.PWR_QFREQ_FCUR) ∧
      (∀ k : StackId, u.reg (R.MEM_HOTNS k) = s.reg (R.MEM_HOTNS k) + (if 2 ≤ s.fld (R.MEM_STAT k) F.MEM_STAT_TLEVEL then 1 else 0)) ∧
      (∀ q : Fin 4, u.reg (R.PWR_THROTNS q) = s.reg (R.PWR_THROTNS q) + (if s.fld R.THERM_STAT ⟨8 + q, 8 + q⟩ = 1 then 1 else 0))

/-- The model's own choice (log entry 11): what a command sets off inside the device is carried out with it. Where no message waits, no fault report waits
for the management controller, no access, store or reduction waits for a copy, no descriptor waits for the check unit or to end on a refused translation,
no channel holds a message for a descriptor that waits, nothing is due on a link and the fault channel is not being collected, nothing more happens. -/
def Claims.QuietStatesSettle : Prop :=
  ∀ (s : State), s.fab.inbox = [] → s.fab.waiting = [] → linksDue s = false → readyTake s = none → (mcUp s = false ∨ s.mc.fifo = []) → collects s = none →
    (∀ e q, (s.slq e q).refusal = none ∧ (s.slq e q).waitChk = false) → (∀ k, (s.stack k).held = []) → (∀ t, (s.thr t).storeQ = []) →
    (∀ i, (s.rslot i).stalled = false) → settle s = s

/-- `Claims.AnEmptyQueueIsTime` and `Claims.QuietStatesSettle` hold, both. -/
def Obligations.TimeAndQuiet : Prop := Claims.AnEmptyQueueIsTime ∧ Claims.QuietStatesSettle

/-- Values that the spec gives for reset (R11, R100, R187, R590): threads HALTED in the Open world with FCSR at its reset value and every vector and mask
register zero, no fault record, no session, no Sealed world, and the registers with a reset value other than zero. -/
def Obligations.ResetValues : Prop :=
  let s := State.reset
  (∀ t, (s.thr t).run = .halted ∧ (s.thr t).world = false ∧ (s.thr t).level = true ∧ (s.thr t).bcr false CR.FCSR = 0x100000 ∧
      (∀ r : Fin 32, (s.thr t).v[r] = 0) ∧ (∀ r : Fin 8, (s.thr t).m[r] = 0)) ∧
    s.mc.table = [] ∧ sealedState s = 0 ∧
    s.fld R.MC_ERRCFG F.MC_ERRCFG_SIZE = 10 ∧ s.fld R.MC_ERRCFG F.MC_ERRCFG_CETHRESH = 1000 ∧ s.fld R.MC_FMCFG F.MC_FMCFG_WINDOW = 100 ∧
    s.flag R.BEAT_CTRL F.BEAT_CTRL_RUN = false ∧ s.flag R.GCTL_BOOTINFO F.GCTL_BOOTINFO_VALID = false

/-- Every table of the state that a key leads into is canonical: memory (its unlisted bytes read zero), the Deferred marks, the latent errors and
the registers. -/
def Claims.Canonical (s : State) : Prop :=
  Memory.wf s.mem ∧ SMap.wf false s.marks = true ∧ SMap.wf 0 s.errs = true ∧ SMap.wf 0 s.regs = true

/-- The device leaves reset with its tables canonical; no command waits, and, by the model's choice (assumption 3), memory lists nothing. -/
def Obligations.CanonicalAtReset : Prop :=
  Claims.Canonical State.reset ∧ State.reset.pending = [] ∧ State.reset.mem = [] ∧ State.reset.out = []

/-- Every step keeps the tables canonical, so that equal memories are equal data; it takes one command from the queue and adds none; and what has
left the device is never taken back. -/
def Obligations.EveryStepKeepsTheState : Prop :=
  ∀ (s u : State), Claims.Canonical s → step s = .next u → Claims.Canonical u ∧ u.pending = s.pending.drop 1 ∧ s.out <+: u.out

/-- R548, R549: over every step, the life cycle and the revoked keys stay as blown, and no counter decreases. -/
def Obligations.FusesStayBlown : Prop :=
  ∀ (s u : State), step s = .next u →
    u.flash.lifecycle = s.flash.lifecycle ∧ u.flash.revoked = s.flash.revoked ∧
      ∀ i, i < 64 → s.flash.arctr.toList.getD i 0 ≤ u.flash.arctr.toList.getD i 0
end
end

