-- ==== Sys2Proof/Laws/SMap.lean ====
section
/-! SUPPORT. Laws of the sparse tables: a read after a write, and the canonical form, which every operation keeps. -/

namespace Sys2Proof.Machine
open Sys2Proof

variable {α : Type} [DecidableEq α] {d : α}

omit [DecidableEq α] in
@[simp] theorem SMap.get_nil (i : Nat) : SMap.get d ([] : SMap α) i = d := rfl

/-- Below every key of a canonical table nothing is listed. -/
theorem SMap.get_of_wfFrom {m : SMap α} {l : Nat} (h : SMap.wfFrom d (some l) m = true) {i : Nat} (hi : i ≤ l) :
    SMap.get d m i = d := by
  induction m generalizing l with
  | nil => rfl
  | cons e m ih =>
    obtain ⟨k, v⟩ := e
    simp only [SMap.wfFrom, Bool.and_eq_true, decide_eq_true_eq] at h
    have : i ≠ k := by omega
    simp only [SMap.get, this, if_false]
    exact ih h.2 (by omega)

theorem SMap.wfFrom_mono {m : SMap α} {l l' : Nat} (h : SMap.wfFrom d (some l) m = true) (hl : l' ≤ l) :
    SMap.wfFrom d (some l') m = true := by
  cases m with
  | nil => rfl
  | cons e m =>
    obtain ⟨k, v⟩ := e
    simp only [SMap.wfFrom, Bool.and_eq_true, decide_eq_true_eq] at h ⊢
    exact ⟨⟨by omega, h.1.2⟩, h.2⟩

theorem SMap.wfFrom_none {m : SMap α} {l : Nat} (h : SMap.wfFrom d (some l) m = true) : SMap.wfFrom d none m = true := by
  cases m with
  | nil => rfl
  | cons e m =>
    obtain ⟨k, v⟩ := e
    simp only [SMap.wfFrom, Bool.and_eq_true, decide_eq_true_eq] at h ⊢
    exact ⟨⟨trivial, h.1.2⟩, h.2⟩

theorem SMap.wfFrom_put {m : SMap α} {l i : Nat} {x : α} (hx : x ≠ d) (h : SMap.wfFrom d (some l) m = true) (hi : l < i) :
    SMap.wfFrom d (some l) (SMap.put m i x) = true := by
  induction m generalizing l with
  | nil => simp [SMap.put, hx, SMap.wfFrom, hi]
  | cons e m ih =>
    obtain ⟨k, v⟩ := e
    simp only [SMap.wfFrom, Bool.and_eq_true, decide_eq_true_eq] at h
    obtain ⟨⟨hk, hv⟩, hm⟩ := h
    simp only [SMap.put]
    split
    · rename_i hik
      simp only [SMap.wfFrom, Bool.and_eq_true, decide_eq_true_eq]
      exact ⟨⟨hi, hx⟩, ⟨hik, hv⟩, hm⟩
    · split
      · rename_i hik
        subst hik
        simp only [SMap.wfFrom, Bool.and_eq_true, decide_eq_true_eq]
        exact ⟨⟨hi, hx⟩, hm⟩
      · simp only [SMap.wfFrom, Bool.and_eq_true, decide_eq_true_eq]
        exact ⟨⟨hk, hv⟩, ih hm (by omega)⟩

theorem SMap.wf_put {m : SMap α} {i : Nat} {x : α} (hx : x ≠ d) (h : SMap.wf d m = true) : SMap.wf d (SMap.put m i x) = true := by
  unfold SMap.wf at *
  cases m with
  | nil => simp [SMap.put, hx, SMap.wfFrom]
  | cons e m =>
    obtain ⟨k, v⟩ := e
    simp only [SMap.wfFrom, Bool.and_eq_true, decide_eq_true_eq] at h
    obtain ⟨⟨-, hv⟩, hm⟩ := h
    simp only [SMap.put]
    split
    · rename_i hik
      simp only [SMap.wfFrom, Bool.and_eq_true, decide_eq_true_eq]
      exact ⟨⟨trivial, hx⟩, ⟨hik, hv⟩, hm⟩
    · split
      · rename_i hik
        subst hik
        simp only [SMap.wfFrom, Bool.and_eq_true, decide_eq_true_eq]
        exact ⟨⟨trivial, hx⟩, hm⟩
      · simp only [SMap.wfFrom, Bool.and_eq_true, decide_eq_true_eq]
        exact ⟨⟨trivial, hv⟩, SMap.wfFrom_put hx hm (by omega)⟩

theorem SMap.wfFrom_filter {m : SMap α} {l : Nat} (p : Nat × α → Bool) (h : SMap.wfFrom d (some l) m = true) :
    SMap.wfFrom d (some l) (m.filter p) = true := by
  induction m generalizing l with
  | nil => rfl
  | cons e m ih =>
    obtain ⟨k, v⟩ := e
    simp only [SMap.wfFrom, Bool.and_eq_true, decide_eq_true_eq] at h
    simp only [List.filter]
    split
    · simp only [SMap.wfFrom, Bool.and_eq_true, decide_eq_true_eq]
      exact ⟨h.1, ih h.2⟩
    · exact ih (SMap.wfFrom_mono h.2 (by omega))

/-- Leaving entries out keeps the canonical form. -/
theorem SMap.wf_filter {m : SMap α} (p : Nat × α → Bool) (h : SMap.wf d m = true) : SMap.wf d (m.filter p) = true := by
  unfold SMap.wf at *
  cases m with
  | nil => rfl
  | cons e m =>
    obtain ⟨k, v⟩ := e
    simp only [SMap.wfFrom, Bool.and_eq_true, decide_eq_true_eq] at h
    simp only [List.filter]
    split
    · simp only [SMap.wfFrom, Bool.and_eq_true, decide_eq_true_eq]
      exact ⟨h.1, SMap.wfFrom_filter p h.2⟩
    · exact SMap.wfFrom_none (SMap.wfFrom_filter p h.2)

/-- A write keeps the canonical form. -/
theorem SMap.wf_set {m : SMap α} (i : Nat) (x : α) (h : SMap.wf d m = true) : SMap.wf d (SMap.set d m i x) = true := by
  unfold SMap.set
  split
  · exact SMap.wf_filter _ h
  · rename_i hx
    exact SMap.wf_put hx h

theorem SMap.wf_clear {m : SMap α} (p : Nat → Bool) (h : SMap.wf d m = true) : SMap.wf d (SMap.clear m p) = true :=
  SMap.wf_filter _ h

theorem SMap.wf_setAll {m : SMap α} (l : List (Nat × α)) (h : SMap.wf d m = true) : SMap.wf d (SMap.setAll d m l) = true := by
  induction l generalizing m with
  | nil => exact h
  | cons e l ih => exact ih (SMap.wf_set _ _ h)

/-! Reads and writes. -/

omit [DecidableEq α] in
theorem SMap.get_put (m : SMap α) (i j : Nat) (x : α) :
    SMap.get d (SMap.put m i x) j = if j = i then x else SMap.get d m j := by
  induction m with
  | nil => rfl
  | cons e m ih =>
    obtain ⟨k, v⟩ := e
    simp only [SMap.put]
    split
    · rfl
    · split
      · rename_i hik
        subst hik
        simp only [SMap.get]
        split <;> rfl
      · rename_i _ hik
        simp only [SMap.get, ih]
        by_cases hj : j = k
        · subst hj
          simp [Ne.symm hik]
        · simp [hj]

omit [DecidableEq α] in
theorem SMap.get_filter (m : SMap α) (p : Nat → Bool) (j : Nat) :
    SMap.get d (m.filter (fun e => p e.1)) j = if p j then SMap.get d m j else d := by
  induction m with
  | nil => simp [SMap.get]
  | cons e m ih =>
    obtain ⟨k, v⟩ := e
    simp only [List.filter]
    by_cases hj : j = k
    · subst hj
      cases hp : p j
      · simpa [hp] using ih
      · simp [SMap.get]
    · cases hp : p k
      · simp only [SMap.get, hj, if_false]
        exact ih
      · simp only [SMap.get, hj, if_false]
        exact ih

/-- A read after a write. -/
theorem SMap.get_set (m : SMap α) (i j : Nat) (x : α) :
    SMap.get d (SMap.set d m i x) j = if j = i then x else SMap.get d m j := by
  unfold SMap.set
  split
  · rename_i hx
    rw [SMap.get_filter m (fun k => !decide (k = i)) j]
    by_cases hj : j = i <;> simp [hj, hx]
  · exact SMap.get_put m i j x

@[simp] theorem SMap.get_set_self (m : SMap α) (i : Nat) (x : α) : SMap.get d (SMap.set d m i x) i = x := by
  simp [SMap.get_set]

@[simp] theorem SMap.get_set_of_ne {m : SMap α} {i j : Nat} (x : α) (h : j ≠ i) :
    SMap.get d (SMap.set d m i x) j = SMap.get d m j := by
  simp [SMap.get_set, h]

omit [DecidableEq α] in
/-- Clearing puts the keys it names back at the default. -/
theorem SMap.get_clear (m : SMap α) (p : Nat → Bool) (j : Nat) :
    SMap.get d (SMap.clear m p) j = if p j then d else SMap.get d m j := by
  unfold SMap.clear
  rw [SMap.get_filter m (fun k => !p k) j]
  cases p j <;> simp

end Sys2Proof.Machine
end

