-- ==== Sys2Proof/Laws/Evolves.lean ====
section
/-! SUPPORT. What every shared operation keeps: the canonical form of memory, of the Deferred marks, of the latent errors and of
the registers; the queue of commands; what has left the device; and the fuses. One lemma per operation, each in the form in which
a proof over a chain of operations applies it. -/

namespace Sys2Proof.Machine
open Sys2Proof

/-- `u` comes from `s` by operations that keep the canonical forms, take no command, recall nothing that has left, and blow fuses
and raise counters only. -/
structure Evolves (s u : State) : Prop where
  mem : Memory.wf s.mem → Memory.wf u.mem
  marks : SMap.wf false s.marks = true → SMap.wf false u.marks = true
  errs : SMap.wf 0 s.errs = true → SMap.wf 0 u.errs = true
  regs : SMap.wf 0 s.regs = true → SMap.wf 0 u.regs = true
  pending : u.pending = s.pending
  out : s.out <+: u.out
  lifecycle : u.flash.lifecycle = s.flash.lifecycle
  revoked : u.flash.revoked = s.flash.revoked
  arctr : ∀ i, i < 64 → s.flash.arctr.toList.getD i 0 ≤ u.flash.arctr.toList.getD i 0

theorem Evolves.refl (s : State) : Evolves s s :=
  ⟨id, id, id, id, rfl, List.prefix_refl _, rfl, rfl, fun _ _ => Nat.le_refl _⟩

theorem Evolves.trans {s t u : State} (h : Evolves s t) (k : Evolves t u) : Evolves s u :=
  ⟨k.mem ∘ h.mem, k.marks ∘ h.marks, k.errs ∘ h.errs, k.regs ∘ h.regs, k.pending.trans h.pending, h.out.trans k.out,
    k.lifecycle.trans h.lifecycle, k.revoked.trans h.revoked, fun i hi => Nat.le_trans (h.arctr i hi) (k.arctr i hi)⟩

/-- Another state whose tables are canonical if those of `s` are, with the same queue and fuses. -/
theorem Evolves.of {z s u : State} (h : Evolves z s) (hm : Memory.wf s.mem → Memory.wf u.mem)
    (hk : SMap.wf false s.marks = true → SMap.wf false u.marks = true) (he : SMap.wf 0 s.errs = true → SMap.wf 0 u.errs = true)
    (hr : SMap.wf 0 s.regs = true → SMap.wf 0 u.regs = true) (hp : u.pending = s.pending) (ho : s.out <+: u.out)
    (hf : u.flash = s.flash) : Evolves z u := by
  refine h.trans ⟨hm, hk, he, hr, hp, ho, by rw [hf], by rw [hf], ?_⟩
  rw [hf]
  exact fun _ _ => Nat.le_refl _

/-- Another state with the same tables, queue, output and fuses. -/
theorem Evolves.same {z s u : State} (h : Evolves z s) (hm : u.mem = s.mem) (hk : u.marks = s.marks) (he : u.errs = s.errs)
    (hr : u.regs = s.regs) (hp : u.pending = s.pending) (ho : u.out = s.out) (hf : u.flash = s.flash) : Evolves z u :=
  h.of (hm ▸ id) (hk ▸ id) (he ▸ id) (hr ▸ id) hp (ho ▸ List.prefix_refl _) hf

variable {z s : State}

/-! ### Updates of one field -/

theorem Evolves.mem_set (h : Evolves z s) (k : Nat) (b : Byte) : Evolves z { s with mem := SMap.set 0 s.mem k b } :=
  h.of (SMap.wf_set k b) id id id rfl (List.prefix_refl _) rfl

theorem Evolves.errs_set (h : Evolves z s) (k v : Nat) : Evolves z { s with errs := SMap.set 0 s.errs k v } :=
  h.of id id (SMap.wf_set k v) id rfl (List.prefix_refl _) rfl

theorem Evolves.marks_set (h : Evolves z s) (k : Nat) (b : Bool) : Evolves z { s with marks := SMap.set false s.marks k b } :=
  h.of id (SMap.wf_set k b) id id rfl (List.prefix_refl _) rfl

theorem Evolves.errs_marks_set (h : Evolves z s) (k v k' : Nat) (b : Bool) :
    Evolves z { s with errs := SMap.set 0 s.errs k v, marks := SMap.set false s.marks k' b } :=
  h.of id (SMap.wf_set k' b) (SMap.wf_set k v) id rfl (List.prefix_refl _) rfl

theorem Evolves.setReg (h : Evolves z s) (o : Nat) (v : Word) : Evolves z (s.setReg o v) :=
  h.of id id id (SMap.wf_set o v) rfl (List.prefix_refl _) rfl

theorem Evolves.setFld (h : Evolves z s) (o : Nat) (f : Fld) (v : Nat) : Evolves z (s.setFld o f v) := h.setReg _ _
theorem Evolves.setFlag (h : Evolves z s) (o : Nat) (f : Fld) (b : Bool) : Evolves z (s.setFlag o f b) := h.setFld _ _ _
theorem Evolves.bump (h : Evolves z s) (o n : Nat) : Evolves z (s.bump o n) := h.setReg _ _
theorem Evolves.bump32 (h : Evolves z s) (o n : Nat) : Evolves z (s.bump32 o n) := h.setReg _ _

theorem Evolves.emit (h : Evolves z s) (o : Out) : Evolves z (s.emit o) :=
  h.of id id id id rfl (List.prefix_append _ _) rfl

theorem Evolves.setThr (h : Evolves z s) (t : Thr) (x : Thread) : Evolves z (s.setThr t x) := h.same rfl rfl rfl rfl rfl rfl rfl
theorem Evolves.updThr (h : Evolves z s) (t : Thr) (f : Thread → Thread) : Evolves z (s.updThr t f) := h.setThr _ _
theorem Evolves.setSpin (h : Evolves z s) (n : SpindleId) (x : Spindle) : Evolves z (s.setSpin n x) := h.same rfl rfl rfl rfl rfl rfl rfl
theorem Evolves.updSpin (h : Evolves z s) (n : SpindleId) (f : Spindle → Spindle) : Evolves z (s.updSpin n f) := h.setSpin _ _
theorem Evolves.setStack (h : Evolves z s) (k : StackId) (x : Stack) : Evolves z (s.setStack k x) := h.same rfl rfl rfl rfl rfl rfl rfl
theorem Evolves.updStack (h : Evolves z s) (k : StackId) (f : Stack → Stack) : Evolves z (s.updStack k f) := h.setStack _ _
theorem Evolves.freeWord (h : Evolves z s) : Evolves z s.freeWord.1 := h.same rfl rfl rfl rfl rfl rfl rfl
theorem Evolves.freeByte (h : Evolves z s) : Evolves z s.freeByte.1 := h.same rfl rfl rfl rfl rfl rfl rfl

/-- A fold of operations that each keep all this keeps it. -/
theorem Evolves.foldl {α : Type} {f : State → α → State} (hf : ∀ s a, Evolves z s → Evolves z (f s a)) (h : Evolves z s) (l : List α) :
    Evolves z (l.foldl f s) := by
  induction l generalizing s with
  | nil => exact h
  | cons a l ih => exact ih (hf s a h)

theorem Evolves.foldl_fst {α β : Type} {f : State × β → α → State × β} (hf : ∀ s b a, Evolves z s → Evolves z (f (s, b) a).1)
    (h : Evolves z s) (b : β) (l : List α) : Evolves z (l.foldl f (s, b)).1 := by
  induction l generalizing s b with
  | nil => exact h
  | cons a l ih =>
    rw [List.foldl_cons]
    exact ih (hf s b a h) _

/-! ### Events, messages and reports (Ops) -/

theorem Evolves.wakeWfi (h : Evolves z s) (t : Thr) : Evolves z (wakeWfi s t) := by
  unfold Machine.wakeWfi
  dsimp only
  split
  · exact h.setThr _ _
  · exact h

theorem Evolves.raiseLine (h : Evolves z s) (t : Thr) (w : Bool) (i : Nat) : Evolves z (raiseLine s t w i) := (h.setThr _ _).wakeWfi _

theorem Evolves.raiseSource (h : Evolves z s) (n : Nat) : Evolves z (raiseSource s n) := by
  unfold Machine.raiseSource
  dsimp only
  split
  · exact h.raiseLine _ _ _
  · exact h

theorem Evolves.sendMsix (h : Evolves z s) (v : Nat) : Evolves z (sendMsix s v) := by
  unfold Machine.sendMsix
  split
  · split
    · exact h.same rfl rfl rfl rfl rfl rfl rfl
    · exact h.emit _
  · exact h

theorem Evolves.releaseMsix (h : Evolves z s) : Evolves z (releaseMsix s) := by
  unfold Machine.releaseMsix
  split
  · dsimp only
    refine Evolves.foldl (fun _ _ k => k.emit _) ?_ _
    exact h.same rfl rfl rfl rfl rfl rfl rfl
  · exact h

theorem Evolves.unitEvent (h : Evolves z s) (off ev en : Nat) (vec msi : Fld) (src : Option Nat) :
    Evolves z (unitEvent s off ev en vec msi src) := by
  unfold Machine.unitEvent
  dsimp only
  split
  · cases src
    · dsimp only
      split
      · exact (h.setReg _ _).sendMsix _
      · exact h.setReg _ _
    · dsimp only
      split
      · exact ((h.setReg _ _).raiseSource _).sendMsix _
      · exact (h.setReg _ _).raiseSource _
  · exact h.setReg _ _

theorem Evolves.memEvent (h : Evolves z s) (k : StackId) (ev : Nat) : Evolves z (memEvent s k ev) := h.unitEvent _ _ _ _ _ _
theorem Evolves.hankEvent (h : Evolves z s) (p : PortId) (ev : Nat) : Evolves z (hankEvent s p ev) := h.unitEvent _ _ _ _ _ _
theorem Evolves.mcEvent (h : Evolves z s) (ev : Nat) : Evolves z (mcEvent s ev) := h.unitEvent _ _ _ _ _ _
theorem Evolves.mboxEvent (h : Evolves z s) (ev : Nat) : Evolves z (mboxEvent s ev) := h.unitEvent _ _ _ _ _ _

theorem Evolves.alertAfter {old : State} (h : Evolves z s) : Evolves z (alertAfter old s) := by
  unfold Machine.alertAfter
  split
  · exact h
  · exact h.emit _

theorem Evolves.thermEvent (h : Evolves z s) (ev : Nat) : Evolves z (thermEvent s ev) := (h.unitEvent _ _ _ _ _ _).alertAfter

theorem Evolves.fqEvent (h : Evolves z s) (ev en : Fld) : Evolves z (fqEvent s ev en) := by
  unfold Machine.fqEvent
  dsimp only
  split
  · split
    · exact ((h.setFlag _ _ _).raiseSource _).sendMsix _
    · exact (h.setFlag _ _ _).raiseSource _
  · exact h.setFlag _ _ _

theorem Evolves.pushReport (h : Evolves z s) (r : Report) : Evolves z (pushReport s r) := by
  unfold Machine.pushReport
  split
  · exact h.bump _ _
  · exact h.same rfl rfl rfl rfl rfl rfl rfl

theorem Evolves.reportOn (h : Evolves z s) (dev : BitVec 12) (kind index code : Nat) (repair : Bool) (detail : Word) :
    Evolves z (reportOn s dev kind index code repair detail) := h.pushReport _
theorem Evolves.report (h : Evolves z s) (kind index code : Nat) (detail : Word) : Evolves z (report s kind index code detail) :=
  h.pushReport _

end Sys2Proof.Machine
end

