-- ==== Sys2Proof/Laws/State.lean ====
section
/-! SUPPORT. Laws of the state: for each update, what it leaves as it was, one lemma per field, and what its accessor reads. -/

namespace Sys2Proof.Machine
open Sys2Proof

variable (s : State)

/-! `setReg` changes `regs` alone. -/

@[simp] theorem State.setReg_pending (o : Nat) (v : Word) : (s.setReg o v).pending = s.pending := rfl
@[simp] theorem State.setReg_mem (o : Nat) (v : Word) : (s.setReg o v).mem = s.mem := rfl
@[simp] theorem State.setReg_marks (o : Nat) (v : Word) : (s.setReg o v).marks = s.marks := rfl
@[simp] theorem State.setReg_errs (o : Nat) (v : Word) : (s.setReg o v).errs = s.errs := rfl
@[simp] theorem State.setReg_rttBad (o : Nat) (v : Word) : (s.setReg o v).rttBad = s.rttBad := rfl
@[simp] theorem State.setReg_beat (o : Nat) (v : Word) : (s.setReg o v).beat = s.beat := rfl
@[simp] theorem State.setReg_cycles (o : Nat) (v : Word) : (s.setReg o v).cycles = s.cycles := rfl
@[simp] theorem State.setReg_cycleFrac (o : Nat) (v : Word) : (s.setReg o v).cycleFrac = s.cycleFrac := rfl
@[simp] theorem State.setReg_threads (o : Nat) (v : Word) : (s.setReg o v).threads = s.threads := rfl
@[simp] theorem State.setReg_spindles (o : Nat) (v : Word) : (s.setReg o v).spindles = s.spindles := rfl
@[simp] theorem State.setReg_hbm (o : Nat) (v : Word) : (s.setReg o v).hbm = s.hbm := rfl
@[simp] theorem State.setReg_rtt (o : Nat) (v : Word) : (s.setReg o v).rtt = s.rtt := rfl
@[simp] theorem State.setReg_fq (o : Nat) (v : Word) : (s.setReg o v).fq = s.fq := rfl
@[simp] theorem State.setReg_sluice (o : Nat) (v : Word) : (s.setReg o v).sluice = s.sluice := rfl
@[simp] theorem State.setReg_chk (o : Nat) (v : Word) : (s.setReg o v).chk = s.chk := rfl
@[simp] theorem State.setReg_host (o : Nat) (v : Word) : (s.setReg o v).host = s.host := rfl
@[simp] theorem State.setReg_mc (o : Nat) (v : Word) : (s.setReg o v).mc = s.mc := rfl
@[simp] theorem State.setReg_box (o : Nat) (v : Word) : (s.setReg o v).box = s.box := rfl
@[simp] theorem State.setReg_power (o : Nat) (v : Word) : (s.setReg o v).power = s.power := rfl
@[simp] theorem State.setReg_flash (o : Nat) (v : Word) : (s.setReg o v).flash = s.flash := rfl
@[simp] theorem State.setReg_sec (o : Nat) (v : Word) : (s.setReg o v).sec = s.sec := rfl
@[simp] theorem State.setReg_fab (o : Nat) (v : Word) : (s.setReg o v).fab = s.fab := rfl
@[simp] theorem State.setReg_reel (o : Nat) (v : Word) : (s.setReg o v).reel = s.reel := rfl
@[simp] theorem State.setReg_sess (o : Nat) (v : Word) : (s.setReg o v).sess = s.sess := rfl
@[simp] theorem State.setReg_boot (o : Nat) (v : Word) : (s.setReg o v).boot = s.boot := rfl
@[simp] theorem State.setReg_out (o : Nat) (v : Word) : (s.setReg o v).out = s.out := rfl
@[simp] theorem State.setReg_free (o : Nat) (v : Word) : (s.setReg o v).free = s.free := rfl

/-! `setThr` changes `threads` alone. -/

@[simp] theorem State.setThr_pending (t : Thr) (x : Thread) : (s.setThr t x).pending = s.pending := rfl
@[simp] theorem State.setThr_regs (t : Thr) (x : Thread) : (s.setThr t x).regs = s.regs := rfl
@[simp] theorem State.setThr_mem (t : Thr) (x : Thread) : (s.setThr t x).mem = s.mem := rfl
@[simp] theorem State.setThr_marks (t : Thr) (x : Thread) : (s.setThr t x).marks = s.marks := rfl
@[simp] theorem State.setThr_errs (t : Thr) (x : Thread) : (s.setThr t x).errs = s.errs := rfl
@[simp] theorem State.setThr_rttBad (t : Thr) (x : Thread) : (s.setThr t x).rttBad = s.rttBad := rfl
@[simp] theorem State.setThr_beat (t : Thr) (x : Thread) : (s.setThr t x).beat = s.beat := rfl
@[simp] theorem State.setThr_cycles (t : Thr) (x : Thread) : (s.setThr t x).cycles = s.cycles := rfl
@[simp] theorem State.setThr_cycleFrac (t : Thr) (x : Thread) : (s.setThr t x).cycleFrac = s.cycleFrac := rfl
@[simp] theorem State.setThr_spindles (t : Thr) (x : Thread) : (s.setThr t x).spindles = s.spindles := rfl
@[simp] theorem State.setThr_hbm (t : Thr) (x : Thread) : (s.setThr t x).hbm = s.hbm := rfl
@[simp] theorem State.setThr_rtt (t : Thr) (x : Thread) : (s.setThr t x).rtt = s.rtt := rfl
@[simp] theorem State.setThr_fq (t : Thr) (x : Thread) : (s.setThr t x).fq = s.fq := rfl
@[simp] theorem State.setThr_sluice (t : Thr) (x : Thread) : (s.setThr t x).sluice = s.sluice := rfl
@[simp] theorem State.setThr_chk (t : Thr) (x : Thread) : (s.setThr t x).chk = s.chk := rfl
@[simp] theorem State.setThr_host (t : Thr) (x : Thread) : (s.setThr t x).host = s.host := rfl
@[simp] theorem State.setThr_mc (t : Thr) (x : Thread) : (s.setThr t x).mc = s.mc := rfl
@[simp] theorem State.setThr_box (t : Thr) (x : Thread) : (s.setThr t x).box = s.box := rfl
@[simp] theorem State.setThr_power (t : Thr) (x : Thread) : (s.setThr t x).power = s.power := rfl
@[simp] theorem State.setThr_flash (t : Thr) (x : Thread) : (s.setThr t x).flash = s.flash := rfl
@[simp] theorem State.setThr_sec (t : Thr) (x : Thread) : (s.setThr t x).sec = s.sec := rfl
@[simp] theorem State.setThr_fab (t : Thr) (x : Thread) : (s.setThr t x).fab = s.fab := rfl
@[simp] theorem State.setThr_reel (t : Thr) (x : Thread) : (s.setThr t x).reel = s.reel := rfl
@[simp] theorem State.setThr_sess (t : Thr) (x : Thread) : (s.setThr t x).sess = s.sess := rfl
@[simp] theorem State.setThr_boot (t : Thr) (x : Thread) : (s.setThr t x).boot = s.boot := rfl
@[simp] theorem State.setThr_out (t : Thr) (x : Thread) : (s.setThr t x).out = s.out := rfl
@[simp] theorem State.setThr_free (t : Thr) (x : Thread) : (s.setThr t x).free = s.free := rfl

/-! `setSpin` changes `spindles` alone. -/

@[simp] theorem State.setSpin_pending (n : SpindleId) (x : Spindle) : (s.setSpin n x).pending = s.pending := rfl
@[simp] theorem State.setSpin_regs (n : SpindleId) (x : Spindle) : (s.setSpin n x).regs = s.regs := rfl
@[simp] theorem State.setSpin_mem (n : SpindleId) (x : Spindle) : (s.setSpin n x).mem = s.mem := rfl
@[simp] theorem State.setSpin_marks (n : SpindleId) (x : Spindle) : (s.setSpin n x).marks = s.marks := rfl
@[simp] theorem State.setSpin_errs (n : SpindleId) (x : Spindle) : (s.setSpin n x).errs = s.errs := rfl
@[simp] theorem State.setSpin_rttBad (n : SpindleId) (x : Spindle) : (s.setSpin n x).rttBad = s.rttBad := rfl
@[simp] theorem State.setSpin_beat (n : SpindleId) (x : Spindle) : (s.setSpin n x).beat = s.beat := rfl
@[simp] theorem State.setSpin_cycles (n : SpindleId) (x : Spindle) : (s.setSpin n x).cycles = s.cycles := rfl
@[simp] theorem State.setSpin_cycleFrac (n : SpindleId) (x : Spindle) : (s.setSpin n x).cycleFrac = s.cycleFrac := rfl
@[simp] theorem State.setSpin_threads (n : SpindleId) (x : Spindle) : (s.setSpin n x).threads = s.threads := rfl
@[simp] theorem State.setSpin_hbm (n : SpindleId) (x : Spindle) : (s.setSpin n x).hbm = s.hbm := rfl
@[simp] theorem State.setSpin_rtt (n : SpindleId) (x : Spindle) : (s.setSpin n x).rtt = s.rtt := rfl
@[simp] theorem State.setSpin_fq (n : SpindleId) (x : Spindle) : (s.setSpin n x).fq = s.fq := rfl
@[simp] theorem State.setSpin_sluice (n : SpindleId) (x : Spindle) : (s.setSpin n x).sluice = s.sluice := rfl
@[simp] theorem State.setSpin_chk (n : SpindleId) (x : Spindle) : (s.setSpin n x).chk = s.chk := rfl
@[simp] theorem State.setSpin_host (n : SpindleId) (x : Spindle) : (s.setSpin n x).host = s.host := rfl
@[simp] theorem State.setSpin_mc (n : SpindleId) (x : Spindle) : (s.setSpin n x).mc = s.mc := rfl
@[simp] theorem State.setSpin_box (n : SpindleId) (x : Spindle) : (s.setSpin n x).box = s.box := rfl
@[simp] theorem State.setSpin_power (n : SpindleId) (x : Spindle) : (s.setSpin n x).power = s.power := rfl
@[simp] theorem State.setSpin_flash (n : SpindleId) (x : Spindle) : (s.setSpin n x).flash = s.flash := rfl
@[simp] theorem State.setSpin_sec (n : SpindleId) (x : Spindle) : (s.setSpin n x).sec = s.sec := rfl
@[simp] theorem State.setSpin_fab (n : SpindleId) (x : Spindle) : (s.setSpin n x).fab = s.fab := rfl
@[simp] theorem State.setSpin_reel (n : SpindleId) (x : Spindle) : (s.setSpin n x).reel = s.reel := rfl
@[simp] theorem State.setSpin_sess (n : SpindleId) (x : Spindle) : (s.setSpin n x).sess = s.sess := rfl
@[simp] theorem State.setSpin_boot (n : SpindleId) (x : Spindle) : (s.setSpin n x).boot = s.boot := rfl
@[simp] theorem State.setSpin_out (n : SpindleId) (x : Spindle) : (s.setSpin n x).out = s.out := rfl
@[simp] theorem State.setSpin_free (n : SpindleId) (x : Spindle) : (s.setSpin n x).free = s.free := rfl

/-! `setStack` changes `hbm` alone. -/

@[simp] theorem State.setStack_pending (k : StackId) (x : Stack) : (s.setStack k x).pending = s.pending := rfl
@[simp] theorem State.setStack_regs (k : StackId) (x : Stack) : (s.setStack k x).regs = s.regs := rfl
@[simp] theorem State.setStack_mem (k : StackId) (x : Stack) : (s.setStack k x).mem = s.mem := rfl
@[simp] theorem State.setStack_marks (k : StackId) (x : Stack) : (s.setStack k x).marks = s.marks := rfl
@[simp] theorem State.setStack_errs (k : StackId) (x : Stack) : (s.setStack k x).errs = s.errs := rfl
@[simp] theorem State.setStack_rttBad (k : StackId) (x : Stack) : (s.setStack k x).rttBad = s.rttBad := rfl
@[simp] theorem State.setStack_beat (k : StackId) (x : Stack) : (s.setStack k x).beat = s.beat := rfl
@[simp] theorem State.setStack_cycles (k : StackId) (x : Stack) : (s.setStack k x).cycles = s.cycles := rfl
@[simp] theorem State.setStack_cycleFrac (k : StackId) (x : Stack) : (s.setStack k x).cycleFrac = s.cycleFrac := rfl
@[simp] theorem State.setStack_threads (k : StackId) (x : Stack) : (s.setStack k x).threads = s.threads := rfl
@[simp] theorem State.setStack_spindles (k : StackId) (x : Stack) : (s.setStack k x).spindles = s.spindles := rfl
@[simp] theorem State.setStack_rtt (k : StackId) (x : Stack) : (s.setStack k x).rtt = s.rtt := rfl
@[simp] theorem State.setStack_fq (k : StackId) (x : Stack) : (s.setStack k x).fq = s.fq := rfl
@[simp] theorem State.setStack_sluice (k : StackId) (x : Stack) : (s.setStack k x).sluice = s.sluice := rfl
@[simp] theorem State.setStack_chk (k : StackId) (x : Stack) : (s.setStack k x).chk = s.chk := rfl
@[simp] theorem State.setStack_host (k : StackId) (x : Stack) : (s.setStack k x).host = s.host := rfl
@[simp] theorem State.setStack_mc (k : StackId) (x : Stack) : (s.setStack k x).mc = s.mc := rfl
@[simp] theorem State.setStack_box (k : StackId) (x : Stack) : (s.setStack k x).box = s.box := rfl
@[simp] theorem State.setStack_power (k : StackId) (x : Stack) : (s.setStack k x).power = s.power := rfl
@[simp] theorem State.setStack_flash (k : StackId) (x : Stack) : (s.setStack k x).flash = s.flash := rfl
@[simp] theorem State.setStack_sec (k : StackId) (x : Stack) : (s.setStack k x).sec = s.sec := rfl
@[simp] theorem State.setStack_fab (k : StackId) (x : Stack) : (s.setStack k x).fab = s.fab := rfl
@[simp] theorem State.setStack_reel (k : StackId) (x : Stack) : (s.setStack k x).reel = s.reel := rfl
@[simp] theorem State.setStack_sess (k : StackId) (x : Stack) : (s.setStack k x).sess = s.sess := rfl
@[simp] theorem State.setStack_boot (k : StackId) (x : Stack) : (s.setStack k x).boot = s.boot := rfl
@[simp] theorem State.setStack_out (k : StackId) (x : Stack) : (s.setStack k x).out = s.out := rfl
@[simp] theorem State.setStack_free (k : StackId) (x : Stack) : (s.setStack k x).free = s.free := rfl

/-! `emit` changes `out` alone. -/

@[simp] theorem State.emit_pending (o : Out) : (s.emit o).pending = s.pending := rfl
@[simp] theorem State.emit_regs (o : Out) : (s.emit o).regs = s.regs := rfl
@[simp] theorem State.emit_mem (o : Out) : (s.emit o).mem = s.mem := rfl
@[simp] theorem State.emit_marks (o : Out) : (s.emit o).marks = s.marks := rfl
@[simp] theorem State.emit_errs (o : Out) : (s.emit o).errs = s.errs := rfl
@[simp] theorem State.emit_rttBad (o : Out) : (s.emit o).rttBad = s.rttBad := rfl
@[simp] theorem State.emit_beat (o : Out) : (s.emit o).beat = s.beat := rfl
@[simp] theorem State.emit_cycles (o : Out) : (s.emit o).cycles = s.cycles := rfl
@[simp] theorem State.emit_cycleFrac (o : Out) : (s.emit o).cycleFrac = s.cycleFrac := rfl
@[simp] theorem State.emit_threads (o : Out) : (s.emit o).threads = s.threads := rfl
@[simp] theorem State.emit_spindles (o : Out) : (s.emit o).spindles = s.spindles := rfl
@[simp] theorem State.emit_hbm (o : Out) : (s.emit o).hbm = s.hbm := rfl
@[simp] theorem State.emit_rtt (o : Out) : (s.emit o).rtt = s.rtt := rfl
@[simp] theorem State.emit_fq (o : Out) : (s.emit o).fq = s.fq := rfl
@[simp] theorem State.emit_sluice (o : Out) : (s.emit o).sluice = s.sluice := rfl
@[simp] theorem State.emit_chk (o : Out) : (s.emit o).chk = s.chk := rfl
@[simp] theorem State.emit_host (o : Out) : (s.emit o).host = s.host := rfl
@[simp] theorem State.emit_mc (o : Out) : (s.emit o).mc = s.mc := rfl
@[simp] theorem State.emit_box (o : Out) : (s.emit o).box = s.box := rfl
@[simp] theorem State.emit_power (o : Out) : (s.emit o).power = s.power := rfl
@[simp] theorem State.emit_flash (o : Out) : (s.emit o).flash = s.flash := rfl
@[simp] theorem State.emit_sec (o : Out) : (s.emit o).sec = s.sec := rfl
@[simp] theorem State.emit_fab (o : Out) : (s.emit o).fab = s.fab := rfl
@[simp] theorem State.emit_reel (o : Out) : (s.emit o).reel = s.reel := rfl
@[simp] theorem State.emit_sess (o : Out) : (s.emit o).sess = s.sess := rfl
@[simp] theorem State.emit_boot (o : Out) : (s.emit o).boot = s.boot := rfl
@[simp] theorem State.emit_free (o : Out) : (s.emit o).free = s.free := rfl

/-! `setBeat` changes `beat` alone. -/

@[simp] theorem State.setBeat_pending (f : Beat → Beat) : (s.setBeat f).pending = s.pending := rfl
@[simp] theorem State.setBeat_regs (f : Beat → Beat) : (s.setBeat f).regs = s.regs := rfl
@[simp] theorem State.setBeat_mem (f : Beat → Beat) : (s.setBeat f).mem = s.mem := rfl
@[simp] theorem State.setBeat_marks (f : Beat → Beat) : (s.setBeat f).marks = s.marks := rfl
@[simp] theorem State.setBeat_errs (f : Beat → Beat) : (s.setBeat f).errs = s.errs := rfl
@[simp] theorem State.setBeat_rttBad (f : Beat → Beat) : (s.setBeat f).rttBad = s.rttBad := rfl
@[simp] theorem State.setBeat_cycles (f : Beat → Beat) : (s.setBeat f).cycles = s.cycles := rfl
@[simp] theorem State.setBeat_cycleFrac (f : Beat → Beat) : (s.setBeat f).cycleFrac = s.cycleFrac := rfl
@[simp] theorem State.setBeat_threads (f : Beat → Beat) : (s.setBeat f).threads = s.threads := rfl
@[simp] theorem State.setBeat_spindles (f : Beat → Beat) : (s.setBeat f).spindles = s.spindles := rfl
@[simp] theorem State.setBeat_hbm (f : Beat → Beat) : (s.setBeat f).hbm = s.hbm := rfl
@[simp] theorem State.setBeat_rtt (f : Beat → Beat) : (s.setBeat f).rtt = s.rtt := rfl
@[simp] theorem State.setBeat_fq (f : Beat → Beat) : (s.setBeat f).fq = s.fq := rfl
@[simp] theorem State.setBeat_sluice (f : Beat → Beat) : (s.setBeat f).sluice = s.sluice := rfl
@[simp] theorem State.setBeat_chk (f : Beat → Beat) : (s.setBeat f).chk = s.chk := rfl
@[simp] theorem State.setBeat_host (f : Beat → Beat) : (s.setBeat f).host = s.host := rfl
@[simp] theorem State.setBeat_mc (f : Beat → Beat) : (s.setBeat f).mc = s.mc := rfl
@[simp] theorem State.setBeat_box (f : Beat → Beat) : (s.setBeat f).box = s.box := rfl
@[simp] theorem State.setBeat_power (f : Beat → Beat) : (s.setBeat f).power = s.power := rfl
@[simp] theorem State.setBeat_flash (f : Beat → Beat) : (s.setBeat f).flash = s.flash := rfl
@[simp] theorem State.setBeat_sec (f : Beat → Beat) : (s.setBeat f).sec = s.sec := rfl
@[simp] theorem State.setBeat_fab (f : Beat → Beat) : (s.setBeat f).fab = s.fab := rfl
@[simp] theorem State.setBeat_reel (f : Beat → Beat) : (s.setBeat f).reel = s.reel := rfl
@[simp] theorem State.setBeat_sess (f : Beat → Beat) : (s.setBeat f).sess = s.sess := rfl
@[simp] theorem State.setBeat_boot (f : Beat → Beat) : (s.setBeat f).boot = s.boot := rfl
@[simp] theorem State.setBeat_out (f : Beat → Beat) : (s.setBeat f).out = s.out := rfl
@[simp] theorem State.setBeat_free (f : Beat → Beat) : (s.setBeat f).free = s.free := rfl

/-! `updRtt` changes `rtt` alone. -/

@[simp] theorem State.updRtt_pending (f : Rtt → Rtt) : (s.updRtt f).pending = s.pending := rfl
@[simp] theorem State.updRtt_regs (f : Rtt → Rtt) : (s.updRtt f).regs = s.regs := rfl
@[simp] theorem State.updRtt_mem (f : Rtt → Rtt) : (s.updRtt f).mem = s.mem := rfl
@[simp] theorem State.updRtt_marks (f : Rtt → Rtt) : (s.updRtt f).marks = s.marks := rfl
@[simp] theorem State.updRtt_errs (f : Rtt → Rtt) : (s.updRtt f).errs = s.errs := rfl
@[simp] theorem State.updRtt_rttBad (f : Rtt → Rtt) : (s.updRtt f).rttBad = s.rttBad := rfl
@[simp] theorem State.updRtt_beat (f : Rtt → Rtt) : (s.updRtt f).beat = s.beat := rfl
@[simp] theorem State.updRtt_cycles (f : Rtt → Rtt) : (s.updRtt f).cycles = s.cycles := rfl
@[simp] theorem State.updRtt_cycleFrac (f : Rtt → Rtt) : (s.updRtt f).cycleFrac = s.cycleFrac := rfl
@[simp] theorem State.updRtt_threads (f : Rtt → Rtt) : (s.updRtt f).threads = s.threads := rfl
@[simp] theorem State.updRtt_spindles (f : Rtt → Rtt) : (s.updRtt f).spindles = s.spindles := rfl
@[simp] theorem State.updRtt_hbm (f : Rtt → Rtt) : (s.updRtt f).hbm = s.hbm := rfl
@[simp] theorem State.updRtt_fq (f : Rtt → Rtt) : (s.updRtt f).fq = s.fq := rfl
@[simp] theorem State.updRtt_sluice (f : Rtt → Rtt) : (s.updRtt f).sluice = s.sluice := rfl
@[simp] theorem State.updRtt_chk (f : Rtt → Rtt) : (s.updRtt f).chk = s.chk := rfl
@[simp] theorem State.updRtt_host (f : Rtt → Rtt) : (s.updRtt f).host = s.host := rfl
@[simp] theorem State.updRtt_mc (f : Rtt → Rtt) : (s.updRtt f).mc = s.mc := rfl
@[simp] theorem State.updRtt_box (f : Rtt → Rtt) : (s.updRtt f).box = s.box := rfl
@[simp] theorem State.updRtt_power (f : Rtt → Rtt) : (s.updRtt f).power = s.power := rfl
@[simp] theorem State.updRtt_flash (f : Rtt → Rtt) : (s.updRtt f).flash = s.flash := rfl
@[simp] theorem State.updRtt_sec (f : Rtt → Rtt) : (s.updRtt f).sec = s.sec := rfl
@[simp] theorem State.updRtt_fab (f : Rtt → Rtt) : (s.updRtt f).fab = s.fab := rfl
@[simp] theorem State.updRtt_reel (f : Rtt → Rtt) : (s.updRtt f).reel = s.reel := rfl
@[simp] theorem State.updRtt_sess (f : Rtt → Rtt) : (s.updRtt f).sess = s.sess := rfl
@[simp] theorem State.updRtt_boot (f : Rtt → Rtt) : (s.updRtt f).boot = s.boot := rfl
@[simp] theorem State.updRtt_out (f : Rtt → Rtt) : (s.updRtt f).out = s.out := rfl
@[simp] theorem State.updRtt_free (f : Rtt → Rtt) : (s.updRtt f).free = s.free := rfl

/-! `setSlq` changes `sluice` alone. -/

@[simp] theorem State.setSlq_pending (e : EngineId) (q : QueueId) (x : SlQueue) : (s.setSlq e q x).pending = s.pending := rfl
@[simp] theorem State.setSlq_regs (e : EngineId) (q : QueueId) (x : SlQueue) : (s.setSlq e q x).regs = s.regs := rfl
@[simp] theorem State.setSlq_mem (e : EngineId) (q : QueueId) (x : SlQueue) : (s.setSlq e q x).mem = s.mem := rfl
@[simp] theorem State.setSlq_marks (e : EngineId) (q : QueueId) (x : SlQueue) : (s.setSlq e q x).marks = s.marks := rfl
@[simp] theorem State.setSlq_errs (e : EngineId) (q : QueueId) (x : SlQueue) : (s.setSlq e q x).errs = s.errs := rfl
@[simp] theorem State.setSlq_rttBad (e : EngineId) (q : QueueId) (x : SlQueue) : (s.setSlq e q x).rttBad = s.rttBad := rfl
@[simp] theorem State.setSlq_beat (e : EngineId) (q : QueueId) (x : SlQueue) : (s.setSlq e q x).beat = s.beat := rfl
@[simp] theorem State.setSlq_cycles (e : EngineId) (q : QueueId) (x : SlQueue) : (s.setSlq e q x).cycles = s.cycles := rfl
@[simp] theorem State.setSlq_cycleFrac (e : EngineId) (q : QueueId) (x : SlQueue) : (s.setSlq e q x).cycleFrac = s.cycleFrac := rfl
@[simp] theorem State.setSlq_threads (e : EngineId) (q : QueueId) (x : SlQueue) : (s.setSlq e q x).threads = s.threads := rfl
@[simp] theorem State.setSlq_spindles (e : EngineId) (q : QueueId) (x : SlQueue) : (s.setSlq e q x).spindles = s.spindles := rfl
@[simp] theorem State.setSlq_hbm (e : EngineId) (q : QueueId) (x : SlQueue) : (s.setSlq e q x).hbm = s.hbm := rfl
@[simp] theorem State.setSlq_rtt (e : EngineId) (q : QueueId) (x : SlQueue) : (s.setSlq e q x).rtt = s.rtt := rfl
@[simp] theorem State.setSlq_fq (e : EngineId) (q : QueueId) (x : SlQueue) : (s.setSlq e q x).fq = s.fq := rfl
@[simp] theorem State.setSlq_chk (e : EngineId) (q : QueueId) (x : SlQueue) : (s.setSlq e q x).chk = s.chk := rfl
@[simp] theorem State.setSlq_host (e : EngineId) (q : QueueId) (x : SlQueue) : (s.setSlq e q x).host = s.host := rfl
@[simp] theorem State.setSlq_mc (e : EngineId) (q : QueueId) (x : SlQueue) : (s.setSlq e q x).mc = s.mc := rfl
@[simp] theorem State.setSlq_box (e : EngineId) (q : QueueId) (x : SlQueue) : (s.setSlq e q x).box = s.box := rfl
@[simp] theorem State.setSlq_power (e : EngineId) (q : QueueId) (x : SlQueue) : (s.setSlq e q x).power = s.power := rfl
@[simp] theorem State.setSlq_flash (e : EngineId) (q : QueueId) (x : SlQueue) : (s.setSlq e q x).flash = s.flash := rfl
@[simp] theorem State.setSlq_sec (e : EngineId) (q : QueueId) (x : SlQueue) : (s.setSlq e q x).sec = s.sec := rfl
@[simp] theorem State.setSlq_fab (e : EngineId) (q : QueueId) (x : SlQueue) : (s.setSlq e q x).fab = s.fab := rfl
@[simp] theorem State.setSlq_reel (e : EngineId) (q : QueueId) (x : SlQueue) : (s.setSlq e q x).reel = s.reel := rfl
@[simp] theorem State.setSlq_sess (e : EngineId) (q : QueueId) (x : SlQueue) : (s.setSlq e q x).sess = s.sess := rfl
@[simp] theorem State.setSlq_boot (e : EngineId) (q : QueueId) (x : SlQueue) : (s.setSlq e q x).boot = s.boot := rfl
@[simp] theorem State.setSlq_out (e : EngineId) (q : QueueId) (x : SlQueue) : (s.setSlq e q x).out = s.out := rfl
@[simp] theorem State.setSlq_free (e : EngineId) (q : QueueId) (x : SlQueue) : (s.setSlq e q x).free = s.free := rfl

/-! `updHost` changes `host` alone. -/

@[simp] theorem State.updHost_pending (f : Endpoint → Endpoint) : (s.updHost f).pending = s.pending := rfl
@[simp] theorem State.updHost_regs (f : Endpoint → Endpoint) : (s.updHost f).regs = s.regs := rfl
@[simp] theorem State.updHost_mem (f : Endpoint → Endpoint) : (s.updHost f).mem = s.mem := rfl
@[simp] theorem State.updHost_marks (f : Endpoint → Endpoint) : (s.updHost f).marks = s.marks := rfl
@[simp] theorem State.updHost_errs (f : Endpoint → Endpoint) : (s.updHost f).errs = s.errs := rfl
@[simp] theorem State.updHost_rttBad (f : Endpoint → Endpoint) : (s.updHost f).rttBad = s.rttBad := rfl
@[simp] theorem State.updHost_beat (f : Endpoint → Endpoint) : (s.updHost f).beat = s.beat := rfl
@[simp] theorem State.updHost_cycles (f : Endpoint → Endpoint) : (s.updHost f).cycles = s.cycles := rfl
@[simp] theorem State.updHost_cycleFrac (f : Endpoint → Endpoint) : (s.updHost f).cycleFrac = s.cycleFrac := rfl
@[simp] theorem State.updHost_threads (f : Endpoint → Endpoint) : (s.updHost f).threads = s.threads := rfl
@[simp] theorem State.updHost_spindles (f : Endpoint → Endpoint) : (s.updHost f).spindles = s.spindles := rfl
@[simp] theorem State.updHost_hbm (f : Endpoint → Endpoint) : (s.updHost f).hbm = s.hbm := rfl
@[simp] theorem State.updHost_rtt (f : Endpoint → Endpoint) : (s.updHost f).rtt = s.rtt := rfl
@[simp] theorem State.updHost_fq (f : Endpoint → Endpoint) : (s.updHost f).fq = s.fq := rfl
@[simp] theorem State.updHost_sluice (f : Endpoint → Endpoint) : (s.updHost f).sluice = s.sluice := rfl
@[simp] theorem State.updHost_chk (f : Endpoint → Endpoint) : (s.updHost f).chk = s.chk := rfl
@[simp] theorem State.updHost_mc (f : Endpoint → Endpoint) : (s.updHost f).mc = s.mc := rfl
@[simp] theorem State.updHost_box (f : Endpoint → Endpoint) : (s.updHost f).box = s.box := rfl
@[simp] theorem State.updHost_power (f : Endpoint → Endpoint) : (s.updHost f).power = s.power := rfl
@[simp] theorem State.updHost_flash (f : Endpoint → Endpoint) : (s.updHost f).flash = s.flash := rfl
@[simp] theorem State.updHost_sec (f : Endpoint → Endpoint) : (s.updHost f).sec = s.sec := rfl
@[simp] theorem State.updHost_fab (f : Endpoint → Endpoint) : (s.updHost f).fab = s.fab := rfl
@[simp] theorem State.updHost_reel (f : Endpoint → Endpoint) : (s.updHost f).reel = s.reel := rfl
@[simp] theorem State.updHost_sess (f : Endpoint → Endpoint) : (s.updHost f).sess = s.sess := rfl
@[simp] theorem State.updHost_boot (f : Endpoint → Endpoint) : (s.updHost f).boot = s.boot := rfl
@[simp] theorem State.updHost_out (f : Endpoint → Endpoint) : (s.updHost f).out = s.out := rfl
@[simp] theorem State.updHost_free (f : Endpoint → Endpoint) : (s.updHost f).free = s.free := rfl

/-! `updMc` changes `mc` alone. -/

@[simp] theorem State.updMc_pending (f : Mc → Mc) : (s.updMc f).pending = s.pending := rfl
@[simp] theorem State.updMc_regs (f : Mc → Mc) : (s.updMc f).regs = s.regs := rfl
@[simp] theorem State.updMc_mem (f : Mc → Mc) : (s.updMc f).mem = s.mem := rfl
@[simp] theorem State.updMc_marks (f : Mc → Mc) : (s.updMc f).marks = s.marks := rfl
@[simp] theorem State.updMc_errs (f : Mc → Mc) : (s.updMc f).errs = s.errs := rfl
@[simp] theorem State.updMc_rttBad (f : Mc → Mc) : (s.updMc f).rttBad = s.rttBad := rfl
@[simp] theorem State.updMc_beat (f : Mc → Mc) : (s.updMc f).beat = s.beat := rfl
@[simp] theorem State.updMc_cycles (f : Mc → Mc) : (s.updMc f).cycles = s.cycles := rfl
@[simp] theorem State.updMc_cycleFrac (f : Mc → Mc) : (s.updMc f).cycleFrac = s.cycleFrac := rfl
@[simp] theorem State.updMc_threads (f : Mc → Mc) : (s.updMc f).threads = s.threads := rfl
@[simp] theorem State.updMc_spindles (f : Mc → Mc) : (s.updMc f).spindles = s.spindles := rfl
@[simp] theorem State.updMc_hbm (f : Mc → Mc) : (s.updMc f).hbm = s.hbm := rfl
@[simp] theorem State.updMc_rtt (f : Mc → Mc) : (s.updMc f).rtt = s.rtt := rfl
@[simp] theorem State.updMc_fq (f : Mc → Mc) : (s.updMc f).fq = s.fq := rfl
@[simp] theorem State.updMc_sluice (f : Mc → Mc) : (s.updMc f).sluice = s.sluice := rfl
@[simp] theorem State.updMc_chk (f : Mc → Mc) : (s.updMc f).chk = s.chk := rfl
@[simp] theorem State.updMc_host (f : Mc → Mc) : (s.updMc f).host = s.host := rfl
@[simp] theorem State.updMc_box (f : Mc → Mc) : (s.updMc f).box = s.box := rfl
@[simp] theorem State.updMc_power (f : Mc → Mc) : (s.updMc f).power = s.power := rfl
@[simp] theorem State.updMc_flash (f : Mc → Mc) : (s.updMc f).flash = s.flash := rfl
@[simp] theorem State.updMc_sec (f : Mc → Mc) : (s.updMc f).sec = s.sec := rfl
@[simp] theorem State.updMc_fab (f : Mc → Mc) : (s.updMc f).fab = s.fab := rfl
@[simp] theorem State.updMc_reel (f : Mc → Mc) : (s.updMc f).reel = s.reel := rfl
@[simp] theorem State.updMc_sess (f : Mc → Mc) : (s.updMc f).sess = s.sess := rfl
@[simp] theorem State.updMc_boot (f : Mc → Mc) : (s.updMc f).boot = s.boot := rfl
@[simp] theorem State.updMc_out (f : Mc → Mc) : (s.updMc f).out = s.out := rfl
@[simp] theorem State.updMc_free (f : Mc → Mc) : (s.updMc f).free = s.free := rfl

/-! `updBox` changes `box` alone. -/

@[simp] theorem State.updBox_pending (f : Mailbox → Mailbox) : (s.updBox f).pending = s.pending := rfl
@[simp] theorem State.updBox_regs (f : Mailbox → Mailbox) : (s.updBox f).regs = s.regs := rfl
@[simp] theorem State.updBox_mem (f : Mailbox → Mailbox) : (s.updBox f).mem = s.mem := rfl
@[simp] theorem State.updBox_marks (f : Mailbox → Mailbox) : (s.updBox f).marks = s.marks := rfl
@[simp] theorem State.updBox_errs (f : Mailbox → Mailbox) : (s.updBox f).errs = s.errs := rfl
@[simp] theorem State.updBox_rttBad (f : Mailbox → Mailbox) : (s.updBox f).rttBad = s.rttBad := rfl
@[simp] theorem State.updBox_beat (f : Mailbox → Mailbox) : (s.updBox f).beat = s.beat := rfl
@[simp] theorem State.updBox_cycles (f : Mailbox → Mailbox) : (s.updBox f).cycles = s.cycles := rfl
@[simp] theorem State.updBox_cycleFrac (f : Mailbox → Mailbox) : (s.updBox f).cycleFrac = s.cycleFrac := rfl
@[simp] theorem State.updBox_threads (f : Mailbox → Mailbox) : (s.updBox f).threads = s.threads := rfl
@[simp] theorem State.updBox_spindles (f : Mailbox → Mailbox) : (s.updBox f).spindles = s.spindles := rfl
@[simp] theorem State.updBox_hbm (f : Mailbox → Mailbox) : (s.updBox f).hbm = s.hbm := rfl
@[simp] theorem State.updBox_rtt (f : Mailbox → Mailbox) : (s.updBox f).rtt = s.rtt := rfl
@[simp] theorem State.updBox_fq (f : Mailbox → Mailbox) : (s.updBox f).fq = s.fq := rfl
@[simp] theorem State.updBox_sluice (f : Mailbox → Mailbox) : (s.updBox f).sluice = s.sluice := rfl
@[simp] theorem State.updBox_chk (f : Mailbox → Mailbox) : (s.updBox f).chk = s.chk := rfl
@[simp] theorem State.updBox_host (f : Mailbox → Mailbox) : (s.updBox f).host = s.host := rfl
@[simp] theorem State.updBox_mc (f : Mailbox → Mailbox) : (s.updBox f).mc = s.mc := rfl
@[simp] theorem State.updBox_power (f : Mailbox → Mailbox) : (s.updBox f).power = s.power := rfl
@[simp] theorem State.updBox_flash (f : Mailbox → Mailbox) : (s.updBox f).flash = s.flash := rfl
@[simp] theorem State.updBox_sec (f : Mailbox → Mailbox) : (s.updBox f).sec = s.sec := rfl
@[simp] theorem State.updBox_fab (f : Mailbox → Mailbox) : (s.updBox f).fab = s.fab := rfl
@[simp] theorem State.updBox_reel (f : Mailbox → Mailbox) : (s.updBox f).reel = s.reel := rfl
@[simp] theorem State.updBox_sess (f : Mailbox → Mailbox) : (s.updBox f).sess = s.sess := rfl
@[simp] theorem State.updBox_boot (f : Mailbox → Mailbox) : (s.updBox f).boot = s.boot := rfl
@[simp] theorem State.updBox_out (f : Mailbox → Mailbox) : (s.updBox f).out = s.out := rfl
@[simp] theorem State.updBox_free (f : Mailbox → Mailbox) : (s.updBox f).free = s.free := rfl

/-! `updPower` changes `power` alone. -/

@[simp] theorem State.updPower_pending (f : Power → Power) : (s.updPower f).pending = s.pending := rfl
@[simp] theorem State.updPower_regs (f : Power → Power) : (s.updPower f).regs = s.regs := rfl
@[simp] theorem State.updPower_mem (f : Power → Power) : (s.updPower f).mem = s.mem := rfl
@[simp] theorem State.updPower_marks (f : Power → Power) : (s.updPower f).marks = s.marks := rfl
@[simp] theorem State.updPower_errs (f : Power → Power) : (s.updPower f).errs = s.errs := rfl
@[simp] theorem State.updPower_rttBad (f : Power → Power) : (s.updPower f).rttBad = s.rttBad := rfl
@[simp] theorem State.updPower_beat (f : Power → Power) : (s.updPower f).beat = s.beat := rfl
@[simp] theorem State.updPower_cycles (f : Power → Power) : (s.updPower f).cycles = s.cycles := rfl
@[simp] theorem State.updPower_cycleFrac (f : Power → Power) : (s.updPower f).cycleFrac = s.cycleFrac := rfl
@[simp] theorem State.updPower_threads (f : Power → Power) : (s.updPower f).threads = s.threads := rfl
@[simp] theorem State.updPower_spindles (f : Power → Power) : (s.updPower f).spindles = s.spindles := rfl
@[simp] theorem State.updPower_hbm (f : Power → Power) : (s.updPower f).hbm = s.hbm := rfl
@[simp] theorem State.updPower_rtt (f : Power → Power) : (s.updPower f).rtt = s.rtt := rfl
@[simp] theorem State.updPower_fq (f : Power → Power) : (s.updPower f).fq = s.fq := rfl
@[simp] theorem State.updPower_sluice (f : Power → Power) : (s.updPower f).sluice = s.sluice := rfl
@[simp] theorem State.updPower_chk (f : Power → Power) : (s.updPower f).chk = s.chk := rfl
@[simp] theorem State.updPower_host (f : Power → Power) : (s.updPower f).host = s.host := rfl
@[simp] theorem State.updPower_mc (f : Power → Power) : (s.updPower f).mc = s.mc := rfl
@[simp] theorem State.updPower_box (f : Power → Power) : (s.updPower f).box = s.box := rfl
@[simp] theorem State.updPower_flash (f : Power → Power) : (s.updPower f).flash = s.flash := rfl
@[simp] theorem State.updPower_sec (f : Power → Power) : (s.updPower f).sec = s.sec := rfl
@[simp] theorem State.updPower_fab (f : Power → Power) : (s.updPower f).fab = s.fab := rfl
@[simp] theorem State.updPower_reel (f : Power → Power) : (s.updPower f).reel = s.reel := rfl
@[simp] theorem State.updPower_sess (f : Power → Power) : (s.updPower f).sess = s.sess := rfl
@[simp] theorem State.updPower_boot (f : Power → Power) : (s.updPower f).boot = s.boot := rfl
@[simp] theorem State.updPower_out (f : Power → Power) : (s.updPower f).out = s.out := rfl
@[simp] theorem State.updPower_free (f : Power → Power) : (s.updPower f).free = s.free := rfl

/-! `updFab` changes `fab` alone. -/

@[simp] theorem State.updFab_pending (f : Fabric → Fabric) : (s.updFab f).pending = s.pending := rfl
@[simp] theorem State.updFab_regs (f : Fabric → Fabric) : (s.updFab f).regs = s.regs := rfl
@[simp] theorem State.updFab_mem (f : Fabric → Fabric) : (s.updFab f).mem = s.mem := rfl
@[simp] theorem State.updFab_marks (f : Fabric → Fabric) : (s.updFab f).marks = s.marks := rfl
@[simp] theorem State.updFab_errs (f : Fabric → Fabric) : (s.updFab f).errs = s.errs := rfl
@[simp] theorem State.updFab_rttBad (f : Fabric → Fabric) : (s.updFab f).rttBad = s.rttBad := rfl
@[simp] theorem State.updFab_beat (f : Fabric → Fabric) : (s.updFab f).beat = s.beat := rfl
@[simp] theorem State.updFab_cycles (f : Fabric → Fabric) : (s.updFab f).cycles = s.cycles := rfl
@[simp] theorem State.updFab_cycleFrac (f : Fabric → Fabric) : (s.updFab f).cycleFrac = s.cycleFrac := rfl
@[simp] theorem State.updFab_threads (f : Fabric → Fabric) : (s.updFab f).threads = s.threads := rfl
@[simp] theorem State.updFab_spindles (f : Fabric → Fabric) : (s.updFab f).spindles = s.spindles := rfl
@[simp] theorem State.updFab_hbm (f : Fabric → Fabric) : (s.updFab f).hbm = s.hbm := rfl
@[simp] theorem State.updFab_rtt (f : Fabric → Fabric) : (s.updFab f).rtt = s.rtt := rfl
@[simp] theorem State.updFab_fq (f : Fabric → Fabric) : (s.updFab f).fq = s.fq := rfl
@[simp] theorem State.updFab_sluice (f : Fabric → Fabric) : (s.updFab f).sluice = s.sluice := rfl
@[simp] theorem State.updFab_chk (f : Fabric → Fabric) : (s.updFab f).chk = s.chk := rfl
@[simp] theorem State.updFab_host (f : Fabric → Fabric) : (s.updFab f).host = s.host := rfl
@[simp] theorem State.updFab_mc (f : Fabric → Fabric) : (s.updFab f).mc = s.mc := rfl
@[simp] theorem State.updFab_box (f : Fabric → Fabric) : (s.updFab f).box = s.box := rfl
@[simp] theorem State.updFab_power (f : Fabric → Fabric) : (s.updFab f).power = s.power := rfl
@[simp] theorem State.updFab_flash (f : Fabric → Fabric) : (s.updFab f).flash = s.flash := rfl
@[simp] theorem State.updFab_sec (f : Fabric → Fabric) : (s.updFab f).sec = s.sec := rfl
@[simp] theorem State.updFab_reel (f : Fabric → Fabric) : (s.updFab f).reel = s.reel := rfl
@[simp] theorem State.updFab_sess (f : Fabric → Fabric) : (s.updFab f).sess = s.sess := rfl
@[simp] theorem State.updFab_boot (f : Fabric → Fabric) : (s.updFab f).boot = s.boot := rfl
@[simp] theorem State.updFab_out (f : Fabric → Fabric) : (s.updFab f).out = s.out := rfl
@[simp] theorem State.updFab_free (f : Fabric → Fabric) : (s.updFab f).free = s.free := rfl

/-! `setRslot` changes `reel` alone. -/

@[simp] theorem State.setRslot_pending (i : SlotId) (x : RSlot) : (s.setRslot i x).pending = s.pending := rfl
@[simp] theorem State.setRslot_regs (i : SlotId) (x : RSlot) : (s.setRslot i x).regs = s.regs := rfl
@[simp] theorem State.setRslot_mem (i : SlotId) (x : RSlot) : (s.setRslot i x).mem = s.mem := rfl
@[simp] theorem State.setRslot_marks (i : SlotId) (x : RSlot) : (s.setRslot i x).marks = s.marks := rfl
@[simp] theorem State.setRslot_errs (i : SlotId) (x : RSlot) : (s.setRslot i x).errs = s.errs := rfl
@[simp] theorem State.setRslot_rttBad (i : SlotId) (x : RSlot) : (s.setRslot i x).rttBad = s.rttBad := rfl
@[simp] theorem State.setRslot_beat (i : SlotId) (x : RSlot) : (s.setRslot i x).beat = s.beat := rfl
@[simp] theorem State.setRslot_cycles (i : SlotId) (x : RSlot) : (s.setRslot i x).cycles = s.cycles := rfl
@[simp] theorem State.setRslot_cycleFrac (i : SlotId) (x : RSlot) : (s.setRslot i x).cycleFrac = s.cycleFrac := rfl
@[simp] theorem State.setRslot_threads (i : SlotId) (x : RSlot) : (s.setRslot i x).threads = s.threads := rfl
@[simp] theorem State.setRslot_spindles (i : SlotId) (x : RSlot) : (s.setRslot i x).spindles = s.spindles := rfl
@[simp] theorem State.setRslot_hbm (i : SlotId) (x : RSlot) : (s.setRslot i x).hbm = s.hbm := rfl
@[simp] theorem State.setRslot_rtt (i : SlotId) (x : RSlot) : (s.setRslot i x).rtt = s.rtt := rfl
@[simp] theorem State.setRslot_fq (i : SlotId) (x : RSlot) : (s.setRslot i x).fq = s.fq := rfl
@[simp] theorem State.setRslot_sluice (i : SlotId) (x : RSlot) : (s.setRslot i x).sluice = s.sluice := rfl
@[simp] theorem State.setRslot_chk (i : SlotId) (x : RSlot) : (s.setRslot i x).chk = s.chk := rfl
@[simp] theorem State.setRslot_host (i : SlotId) (x : RSlot) : (s.setRslot i x).host = s.host := rfl
@[simp] theorem State.setRslot_mc (i : SlotId) (x : RSlot) : (s.setRslot i x).mc = s.mc := rfl
@[simp] theorem State.setRslot_box (i : SlotId) (x : RSlot) : (s.setRslot i x).box = s.box := rfl
@[simp] theorem State.setRslot_power (i : SlotId) (x : RSlot) : (s.setRslot i x).power = s.power := rfl
@[simp] theorem State.setRslot_flash (i : SlotId) (x : RSlot) : (s.setRslot i x).flash = s.flash := rfl
@[simp] theorem State.setRslot_sec (i : SlotId) (x : RSlot) : (s.setRslot i x).sec = s.sec := rfl
@[simp] theorem State.setRslot_fab (i : SlotId) (x : RSlot) : (s.setRslot i x).fab = s.fab := rfl
@[simp] theorem State.setRslot_sess (i : SlotId) (x : RSlot) : (s.setRslot i x).sess = s.sess := rfl
@[simp] theorem State.setRslot_boot (i : SlotId) (x : RSlot) : (s.setRslot i x).boot = s.boot := rfl
@[simp] theorem State.setRslot_out (i : SlotId) (x : RSlot) : (s.setRslot i x).out = s.out := rfl
@[simp] theorem State.setRslot_free (i : SlotId) (x : RSlot) : (s.setRslot i x).free = s.free := rfl

/-! ### Accessors after updates -/

/-- Two registers at different offsets do not share their contents. -/
theorem State.reg_setReg (o o' : Nat) (v : Word) : (s.setReg o v).reg o' = if o' = o then v else s.reg o' :=
  SMap.get_set s.regs o o' v
@[simp] theorem State.reg_setReg_self (o : Nat) (v : Word) : (s.setReg o v).reg o = v := SMap.get_set_self s.regs o v
@[simp] theorem State.reg_setReg_of_ne {o o' : Nat} (v : Word) (h : o' ≠ o) : (s.setReg o v).reg o' = s.reg o' :=
  SMap.get_set_of_ne v h
@[simp] theorem State.thr_setReg (o : Nat) (v : Word) (t : Thr) : (s.setReg o v).thr t = s.thr t := rfl
@[simp] theorem State.reg_setThr (t : Thr) (x : Thread) (o : Nat) : (s.setThr t x).reg o = s.reg o := rfl
@[simp] theorem State.thr_setThr_self (t : Thr) (x : Thread) : (s.setThr t x).thr t = x := by
  simp [State.thr, State.setThr]
@[simp] theorem State.thr_setThr_of_ne {t u : Thr} (x : Thread) (h : u ≠ t) : (s.setThr t x).thr u = s.thr u := by
  have h' : t.val ≠ u.val := fun e => h (Fin.ext e.symm)
  simp [State.thr, State.setThr, Vector.getElem_set_ne, h']
@[simp] theorem State.setThr_setThr (t : Thr) (x y : Thread) : (s.setThr t x).setThr t y = s.setThr t y := by
  simp [State.setThr]
@[simp] theorem State.spin_setSpin_self (n : SpindleId) (x : Spindle) : (s.setSpin n x).spin n = x := by
  simp [State.spin, State.setSpin]
@[simp] theorem State.spin_setSpin_of_ne {n m : SpindleId} (x : Spindle) (h : m ≠ n) : (s.setSpin n x).spin m = s.spin m := by
  have h' : n.val ≠ m.val := fun e => h (Fin.ext e.symm)
  simp [State.spin, State.setSpin, Vector.getElem_set_ne, h']
@[simp] theorem State.stack_setStack_self (k : StackId) (x : Stack) : (s.setStack k x).stack k = x := by
  simp [State.stack, State.setStack]
@[simp] theorem State.stack_setStack_of_ne {k j : StackId} (x : Stack) (h : j ≠ k) : (s.setStack k x).stack j = s.stack j := by
  have h' : k.val ≠ j.val := fun e => h (Fin.ext e.symm)
  simp [State.stack, State.setStack, Vector.getElem_set_ne, h']
@[simp] theorem State.reg_emit (o : Out) (r : Nat) : (s.emit o).reg r = s.reg r := rfl
@[simp] theorem State.thr_emit (o : Out) (t : Thr) : (s.emit o).thr t = s.thr t := rfl
@[simp] theorem State.reg_updFab (f : Fabric → Fabric) (r : Nat) : (s.updFab f).reg r = s.reg r := rfl
@[simp] theorem State.reg_updMc (f : Mc → Mc) (r : Nat) : (s.updMc f).reg r = s.reg r := rfl

/-! ### Threads -/

/-- g0 reads zero (R60). -/
@[simp] theorem Thread.rg_zero (x : Thread) : x.rg 0 = 0 := rfl
/-- A write of register `r` and then a read of `q`. -/
theorem Thread.rg_wg (x : Thread) (r q : Reg6) (v : Word) : (x.wg r v).rg q = if q = r ∧ r ≠ 0 then v else x.rg q := by
  unfold Thread.rg Thread.wg
  by_cases hr : r = 0
  · subst hr
    simp
  · rw [if_neg hr]
    by_cases hq : q = 0
    · subst hq
      rw [if_pos rfl, if_pos rfl, if_neg (fun h => h.2 h.1.symm)]
    · rw [if_neg hq, if_neg hq]
      by_cases h : q = r
      · subst h
        rw [if_pos ⟨rfl, hr⟩]
        simp
      · have h' : r.toNat ≠ q.toNat := fun e => h (BitVec.eq_of_toNat_eq e.symm)
        rw [if_neg (fun e => h e.1)]
        simp [Vector.getElem_set_ne, h']
@[simp] theorem Thread.ucr_setUcr_self (x : Thread) (n : Nat) (v : Word) : (x.setUcr n v).ucr n = v := SMap.get_set_self x.cr n v
@[simp] theorem Thread.ucr_setUcr_of_ne (x : Thread) {n m : Nat} (v : Word) (h : m ≠ n) : (x.setUcr n v).ucr m = x.ucr m :=
  SMap.get_set_of_ne v h
@[simp] theorem Thread.bcr_setBcr_self (x : Thread) (w : Bool) (n : Nat) (v : Word) : (x.setBcr w n v).bcr w n = v := by
  cases w <;> simp [Thread.bcr, Thread.setBcr, Thread.bank, Thread.setBank]
@[simp] theorem Thread.bcr_setBcr_of_ne (x : Thread) (w u : Bool) {n m : Nat} (v : Word) (h : u ≠ w ∨ m ≠ n) :
    (x.setBcr w n v).bcr u m = x.bcr u m := by
  cases w <;> cases u <;> simp_all [Thread.bcr, Thread.setBcr, Thread.bank, Thread.setBank]

end Sys2Proof.Machine
end

