-- ==== Sys2Proof/Laws/Issue.lean ====
section
/-! SUPPORT. What issue does with each way in which an instruction's body ends, and what retirement leaves alone. -/

namespace Sys2Proof.Machine
open Sys2Proof Sys2Proof.Safety

variable {s s1 : State} {is : Issue} {i : Insn} {body : State → Res}

/-- An instruction that can issue runs its body. -/
theorem issue_eq (h : Issues s is i) :
    issue s is i body =
      match body s with
      | .done s1 after => retire s s1 is i after
      | .jump s1 target => retireJump s s1 is i target
      | .trap s1 info => retireFault s s1 is i info
      | .wait s1 => notReady s s1 is.thr
      | .left s1 => countIssue s1 is.thr (s.thr is.thr).group.isSome := by
  obtain ⟨hr, hs, hg, ht, hh⟩ := h
  have htx : ((s.thr is.thr).tx.isSome && !i.inTx) = false := by
    rcases ht with ht | ht <;> simp [ht]
  have hin : issueIn s is i body =
      match body s with
      | .done s1 after => retire s s1 is i after
      | .jump s1 target => retireJump s s1 is i target
      | .trap s1 info => retireFault s s1 is i info
      | .wait s1 => notReady s s1 is.thr
      | .left s1 => countIssue s1 is.thr (s.thr is.thr).group.isSome := by
    simp only [issueIn, htx, Bool.false_eq_true, if_false] <;> rfl
  unfold issue
  simp only [hr, hs, hh, ne_eq, not_true_eq_false, Bool.false_eq_true, or_self, if_false]
  unfold groupFits at hg
  split
  · rename_i g hgr
    rw [hgr] at hg
    simp only [hg, if_true]
    exact hin
  · exact hin

theorem issue_done {after : Option (Nat × Word)} (h : Issues s is i) (hb : body s = .done s1 after) :
    issue s is i body = retire s s1 is i after := by
  rw [issue_eq h, hb]

theorem issue_jump {target : Addr} (h : Issues s is i) (hb : body s = .jump s1 target) :
    issue s is i body = retireJump s s1 is i target := by
  rw [issue_eq h, hb]

theorem issue_trap {info : TrapInfo} (h : Issues s is i) (hb : body s = .trap s1 info) :
    issue s is i body = retireFault s s1 is i info := by
  rw [issue_eq h, hb]

theorem issue_wait (h : Issues s is i) (hb : body s = .wait s1) : issue s is i body = notReady s s1 is.thr := by
  rw [issue_eq h, hb]

/-- Without an open group, an instruction that is not ready leaves what its body left. -/
theorem notReady_of_none {t : Thr} (hg : (s1.thr t).group = none) (hf : firstAfter (s.thr t) = none) : notReady s s1 t = s1 := by
  simp [notReady, hf, endGroup, hg]

theorem issue_left (h : Issues s is i) (hb : body s = .left s1) :
    issue s is i body = countIssue s1 is.thr (s.thr is.thr).group.isSome := by
  rw [issue_eq h, hb]

end Sys2Proof.Machine
end

