-- ==== Sys2Proof/Laws/Mem.lean ====
section
/-! SUPPORT. Every memory operation keeps the canonical forms and what `Evolves` names; the memory of reset has the form; and a
read after a write of one stored byte. -/

namespace Sys2Proof.Machine
open Sys2Proof

variable {z s : State}

/-! ### Refusals, transactions and caches -/

theorem Evolves.refuseHbm (h : Evolves z s) (p : Place) (a : Nat) : Evolves z (refuseHbm s p a) := by
  unfold Machine.refuseHbm
  extract_lets k first s1 s2
  have h2 : Evolves z s2 := (h.bump _ _).updStack _ _
  split
  · exact h2.report _ _ _ _
  · exact h2.report _ _ _ _

theorem Evolves.refusePan (h : Evolves z s) (n : SpindleId) (a : Nat) : Evolves z (refusePan s n a) := (h.updSpin _ _).report _ _ _ _

theorem Evolves.freeBytes (h : Evolves z s) (n : Nat) : Evolves z (freeBytes s n).1 := h.same rfl rfl rfl rfl rfl rfl rfl

theorem Evolves.txAbort (h : Evolves z s) (t : Thr) (cause code : Nat) (retry : Bool) : Evolves z (txAbort s t cause code retry) := by
  unfold Machine.txAbort
  dsimp only
  split
  · exact h
  · exact (h.setThr _ _).bump32 _ _

theorem Evolves.txConflict (h : Evolves z s) (w : Who) (line : Nat) : Evolves z (txConflict s w line) := by
  unfold Machine.txConflict
  refine Evolves.foldl (fun s t k => ?_) h _
  split
  · split
    · exact k.txAbort _ _ _ _
    · exact k
  · exact k

theorem Evolves.txEcc (h : Evolves z s) (line : Nat) : Evolves z (txEcc s line) := by
  unfold Machine.txEcc
  refine Evolves.foldl (fun s t k => ?_) h _
  split
  · split
    · exact k.txAbort _ _ _ _
    · exact k
  · exact k

theorem Evolves.setCache (h : Evolves z s) (n : SpindleId) (d : Bool) (c : Cache) : Evolves z (s.setCache n d c) := h.updSpin _ _

theorem Evolves.l1Parity (h : Evolves z s) (n : SpindleId) (d : Bool) (set : Nat) : Evolves z (l1Parity s n d set) :=
  (h.bump _ _).report _ _ _ _

theorem Evolves.checkTags (h : Evolves z s) (n : SpindleId) (d : Bool) (set : Nat) : Evolves z (checkTags s n d set) := by
  unfold Machine.checkTags
  refine Evolves.foldl (fun s w k => ?_) h _
  dsimp only
  split
  · exact (k.setCache _ _ _).l1Parity _ _ _
  · exact k

theorem Evolves.invalLine (h : Evolves z s) (n : SpindleId) (d : Bool) (line : Nat) : Evolves z (invalLine s n d line) :=
  (h.checkTags _ _ _).setCache _ _ _

theorem Evolves.storePasses (h : Evolves z s) (n : SpindleId) (a : Nat) (data : List Byte) : Evolves z (storePasses s n a data) := by
  unfold Machine.storePasses
  exact ((h.checkTags _ _ _).checkTags _ _ _).updSpin _ _

theorem Evolves.panCoherence (h : Evolves z s) (w : Who) (n : SpindleId) (line : Nat) : Evolves z (panCoherence s w n line) := by
  unfold Machine.panCoherence
  dsimp only
  with_reducible
    split
    · split
      · exact h
      · exact h.invalLine _ _ _
    · split
      · exact h
      · exact h.invalLine _ _ _

/-! ### Bytes of storage -/

theorem Evolves.rawStore (h : Evolves z s) (k : Nat) (b : Byte) : Evolves z (rawStore s k b) := by
  unfold Machine.rawStore
  dsimp only
  split
  · split
    · exact h.mem_set _ _
    · exact (h.mem_set _ _).updStack _ _
  · exact h.mem_set _ _

theorem Evolves.rekeyLine (h : Evolves z s) (line t n : Nat) : Evolves z (rekeyLine s line t n) := by
  unfold Machine.rekeyLine
  exact (Evolves.foldl (fun s e k => k.rawStore _ _) h _).same rfl rfl rfl rfl rfl rfl rfl

theorem Evolves.storeByte (h : Evolves z s) (k : Nat) (b : Byte) : Evolves z (storeByte s k b) := by
  unfold Machine.storeByte
  dsimp only
  split
  · exact h.rawStore _ _
  · refine Evolves.rawStore ?_ _ _
    split
    · exact h
    · exact h.rekeyLine _ _ _

theorem Evolves.storeBytes (h : Evolves z s) (k : Nat) (bs : List Byte) : Evolves z (storeBytes s k bs) := by
  induction bs generalizing s k with
  | nil => exact h
  | cons b bs ih => exact ih (h.storeByte k b) _

/-! ### Checked units -/

theorem Evolves.checkCodeword (h : Evolves z s) (k agent : Nat) : Evolves z (checkCodeword s k agent).1 := by
  unfold Machine.checkCodeword
  dsimp only
  split
  · exact h
  · exact ((h.errs_set _ _).bump _ _).report _ _ _ _
  · split
    · exact h.errs_set _ _
    · refine Evolves.report (Evolves.memEvent ?_ _ _) _ _ _ _
      split
      · refine Evolves.bump ?_ _ _
        exact h.errs_marks_set _ _ _ _
      · refine Evolves.setReg (Evolves.bump ?_ _ _) _ _
        exact h.errs_marks_set _ _ _ _

theorem Evolves.checkWord (h : Evolves z s) (w : Who) (k : Nat) : Evolves z (checkWord s w k).1 := by
  unfold Machine.checkWord
  dsimp only
  split
  · exact h
  · split
    · refine Evolves.report (Evolves.bump ?_ _ _) _ _ _ _
      exact h.errs_set _ _
    · exact h.errs_set _ _
  · split
    · dsimp only
      exact h.errs_set _ _
    · split
      · dsimp only
        with_reducible refine Evolves.report (Evolves.txEcc ?_ _) _ _ _ _
        split
        · refine Evolves.bump ?_ _ _
          exact h.errs_marks_set _ _ _ _
        · refine Evolves.setReg (Evolves.bump ?_ _ _) _ _
          exact h.errs_marks_set _ _ _ _
      · refine Evolves.report ?_ _ _ _ _
        exact h.errs_marks_set _ _ _ _
      · exact h.errs_marks_set _ _ _ _

theorem Evolves.writeUnit {check : State → Nat → State × Bool} (hc : ∀ s n, Evolves z s → Evolves z (check s n).1) (h : Evolves z s)
    (k u : Nat) (data : List Byte) (deferred : Bool) : Evolves z (writeUnit s k u data deferred check) := by
  unfold Machine.writeUnit
  dsimp only
  split
  · exact (h.errs_marks_set _ _ _ _).storeBytes _ _
  · split
    · exact hc _ _ h
    · exact ((hc _ _ h).marks_set _ _).storeBytes _ _

/-! ### Write-combining buffers -/

theorem Evolves.wcbFail (h : Evolves z s) (k : StackId) : Evolves z (wcbFail s k) :=
  (((h.setFld _ _ _).setFlag _ _ _).report _ _ _ _).memEvent _ _

theorem Evolves.drainEntry (h : Evolves z s) (e : WcbEntry) : Evolves z (drainEntry s e) := by
  unfold Machine.drainEntry
  dsimp only
  refine Evolves.foldl (fun s c k => ?_) h _
  split
  · exact Evolves.writeUnit (fun s n k => k.checkCodeword _ _) k _ _ _ _
  · split
    · exact k
    · split
      · exact k.checkCodeword _ _
      · exact Evolves.foldl (fun s r k => k.storeBytes _ _) (k.checkCodeword _ _) _

theorem Evolves.flushEntry (h : Evolves z s) (k : StackId) (e : WcbEntry) : Evolves z (flushEntry s k e) := by
  unfold Machine.flushEntry
  split
  · exact h
  · split
    · exact h.wcbFail _
    · exact (h.updStack _ _).drainEntry _

theorem Evolves.flushWhere (h : Evolves z s) (k : StackId) (p : WcbEntry → Bool) : Evolves z (flushWhere s k p) :=
  Evolves.foldl (fun _ _ k => k.flushEntry _ _) h _

theorem Evolves.flushHigh (h : Evolves z s) (k : StackId) : Evolves z (flushHigh s k) :=
  Evolves.foldl (fun _ _ k => k.flushEntry _ _) h _

theorem Evolves.writeCodeword (h : Evolves z s) (k agent : Nat) (data : List Byte) (deferred : Bool) :
    Evolves z (Machine.writeUnit s k 32 data deferred (fun x u => Machine.checkCodeword x u agent)) :=
  Evolves.writeUnit (fun _ _ k => k.checkCodeword _ _) h _ _ _ _

theorem Evolves.writeLine (h : Evolves z s) (key : Nat) (data : List Byte) (deferred : Bool) :
    Evolves z (writeLine s key data deferred) := by
  unfold Machine.writeLine
  dsimp only
  split
  · repeat' (first
      | exact h.bump _ _
      | with_reducible refine Evolves.flushEntry ?_ _ _
      | with_reducible refine Evolves.writeCodeword ?_ _ _ _ _
      | split)
  · split
    · split
      · exact (h.bump _ _).wcbFail _
      · split
        · exact ((h.bump _ _).updStack _ _).flushEntry _ _
        · exact (h.bump _ _).updStack _ _
    · split
      · exact (h.bump _ _).drainEntry _
      · exact ((h.bump _ _).updStack _ _).flushHigh _

theorem Evolves.readCodeword (h : Evolves z s) (key n agent : Nat) : Evolves z (readCodeword s key n agent).1 := by
  unfold Machine.readCodeword
  dsimp only
  split
  · exact (h.bump _ _).checkCodeword _ _
  · split
    · exact (h.bump _ _).wcbFail _
    · split
      · exact h.bump _ _
      · exact (h.bump _ _).checkCodeword _ _

theorem Evolves.writeSealedLine (h : Evolves z s) (key : Nat) (data : List Byte) (deferred : Bool) :
    Evolves z (writeSealedLine s key data deferred) := by
  unfold Machine.writeSealedLine
  dsimp only
  split
  · exact h.writeLine _ _ _
  · split
    · exact (h.readCodeword _ _ _).readCodeword _ _ _
    · exact ((h.readCodeword _ _ _).readCodeword _ _ _).writeLine _ _ _

/-! ### By device address -/

theorem Evolves.readPieces {f : State → Nat → Nat → State × List (Byte × Bool)} (hf : ∀ s a n, Evolves z s → Evolves z (f s a n).1)
    (h : Evolves z s) (l : List (Nat × Nat)) : Evolves z (readPieces f s l).1 :=
  Evolves.foldl_fst (fun s _ pc k => hf s pc.1 pc.2 k) h _ l

theorem Evolves.readHbm (agent : Nat) (h : Evolves z s) (a n : Nat) : Evolves z (readHbm agent s a n).1 := by
  unfold Machine.readHbm
  dsimp only
  split
  · exact h.readCodeword _ _ _
  · exact (h.readCodeword _ _ _).checkCodeword _ _

theorem Evolves.readWord (w : Who) (h : Evolves z s) (a n : Nat) : Evolves z (readWord w s a n).1 := h.checkWord _ _

theorem Evolves.refusedBytes (h : Evolves z s) (n : Nat) : Evolves z (refusedBytes s n).1 := h.freeBytes _

theorem Evolves.readLine (w : Who) (agent : Nat) (h : Evolves z s) (a n : Nat) : Evolves z (readLine w agent s a n).1 := by
  unfold Machine.readLine
  split
  · dsimp only
    split
    · exact Evolves.readPieces (fun _ _ _ k => k.readHbm _ _ _) h _
    · exact (h.refuseHbm _ _).refusedBytes _
  · split
    · exact (h.refusePan _ _).refusedBytes _
    · exact Evolves.readPieces (fun _ _ _ k => k.readWord _ _ _) h _
  · exact Evolves.readPieces (fun _ _ _ k => k.readWord _ _ _) h _
  · exact h

theorem Evolves.memRead (h : Evolves z s) (w : Who) (agent a n : Nat) : Evolves z (memRead s w agent a n).1 :=
  Evolves.readPieces (fun _ _ _ k => k.readLine _ _ _ _) h _

theorem Evolves.memWrite (h : Evolves z s) (w : Who) (a : Nat) (data : List Byte) (deferred : Bool) :
    Evolves z (memWrite s w a data deferred) := by
  have words {s : State} (k : Evolves z s) (l : List (Nat × Nat)) (g : Nat × Nat → List Byte) :
      Evolves z (l.foldl (fun z q => Machine.writeUnit z q.1 8 (g q) deferred (fun x k => Machine.checkWord x w k)) s) :=
    Evolves.foldl (fun s q k => Evolves.writeUnit (fun s n k => k.checkWord _ _) k _ _ _ _) k l
  unfold Machine.memWrite
  refine Evolves.foldl (fun s pc k => ?_) h _
  dsimp only
  split
  · split
    · split
      · exact k.writeLine _ _ _
      · exact k.writeSealedLine _ _ _
    · exact k.refuseHbm _ _
  · split
    · exact k.refusePan _ _
    · exact words ((k.txConflict _ _).panCoherence _ _ _) _ _
  · exact words k _ _
  · exact k.storeBytes _ _
  · exact k.storeBytes _ _
  · exact k
  · exact k
  · exact k

theorem Evolves.memWriteMarked (h : Evolves z s) (w : Who) (a : Nat) (bs : List (Byte × Bool)) : Evolves z (memWriteMarked s w a bs) := by
  unfold Machine.memWriteMarked
  split
  · exact Evolves.foldl (fun _ _ k => k.memWrite _ _ _ _) h _
  · exact h.memWrite _ _ _ _

theorem Evolves.memAtomic (h : Evolves z s) (w : Who) (a : Nat) (op : AtomOp) (dbl : Bool) (v c : Word) :
    Evolves z (memAtomic s w a op dbl v c).1 := by
  unfold Machine.memAtomic
  extract_lets n
  have h1 := h.memRead w 2 a n
  cases hr : Machine.memRead s w 2 a n with
  | mk s1 bs =>
    rw [hr] at h1
    dsimp only
    split
    · exact h1
    · split
      · exact h1
      · exact h1.memWrite _ _ _ _

theorem Evolves.strike (h : Evolves z s) (u : Upset) : Evolves z (strike s u) := by
  unfold Machine.strike
  split
  · split
    · exact h.errs_set _ _
    · exact h.errs_set _ _
    · exact h
  · split
    · exact h.errs_set _ _
    · exact h
  · exact h.updSpin _ _
  · exact h.updStack _ _
  · exact h.same rfl rfl rfl rfl rfl rfl rfl

theorem Evolves.strikes (h : Evolves z s) (us : List Upset) : Evolves z (strikes s us) := Evolves.foldl (fun _ _ k => k.strike _) h _

/-! ### The canonical form of memory -/

theorem memory_wf_reset : Memory.wf State.reset.mem := rfl

theorem memory_wf_storeBytes (h : Memory.wf s.mem) (k : Nat) (bs : List Byte) : Memory.wf (storeBytes s k bs).mem :=
  ((Evolves.refl s).storeBytes k bs).mem h

theorem memory_wf_memRead (h : Memory.wf s.mem) (w : Who) (agent a n : Nat) : Memory.wf (memRead s w agent a n).1.mem :=
  ((Evolves.refl s).memRead w agent a n).mem h

theorem memory_wf_memWrite (h : Memory.wf s.mem) (w : Who) (a : Nat) (data : List Byte) (deferred : Bool) :
    Memory.wf (memWrite s w a data deferred).mem :=
  ((Evolves.refl s).memWrite w a data deferred).mem h

theorem memory_wf_memAtomic (h : Memory.wf s.mem) (w : Who) (a : Nat) (op : AtomOp) (dbl : Bool) (v c : Word) :
    Memory.wf (memAtomic s w a op dbl v c).1.mem :=
  ((Evolves.refl s).memAtomic w a op dbl v c).mem h

/-! ### One stored byte -/

@[simp] theorem rawStore_mem (k : Nat) (b : Byte) : (rawStore s k b).mem = SMap.set 0 s.mem k b := by
  unfold rawStore
  dsimp only
  split
  · split <;> rfl
  · rfl

/-- Outside HBM a stored byte is what memory lists. -/
theorem rawByte_of_not_hbm {k : Nat} (hk : Config.hbmBytes ≤ k) : rawByte s k = SMap.get 0 s.mem k := by
  unfold rawByte
  rw [if_neg (by omega)]

end Sys2Proof.Machine
end

