-- ==== Sys2Proof/Tests/Slice0.lean ====
section
/-! SUPPORT. Tests: the checks of the command terms refuse ill-formed ones, examples that the spec works out come out as it says,
and each statement's hypotheses are met by a concrete state and operands, clause by clause where a statement has several. -/

namespace Sys2Proof.Tests
open Sys2Proof Sys2Proof.Machine Sys2Proof.Safety Sys2Proof.Claims

set_option maxRecDepth 100000
set_option Elab.async false

/-! ### States for the tests -/

/-- Reset, then power good, PERST_L released, the management controller running and the self-test over. -/
def up : State :=
  ({ State.reset with power := { State.reset.power with powered := true, perst := false }, mc := { State.reset.mc with running := true } } :
    State).setFlag R.GCTL_BOOTINFO F.GCTL_BOOTINFO_VALID true
/-- Thread 0 of Spindle 0, slot A. -/
def is0 : Issue := ⟨0, false⟩
/-- `up` with thread 0 running at 0x1000. -/
def run0 : State := up.updThr 0 (fun x => { x with run := .running, pc := 0x1000 })

theorem issues_of {s : State} (hr : (s.thr 0).run = .running) (hs : s.stopped = false) (hg : (s.thr 0).group = none)
    (ht : (s.thr 0).tx = none) (hh : (s.thr 0).haltReq = false) (i : Insn) : Issues s is0 i := by
  refine ⟨hr, hs, ?_, Or.inl ht, hh⟩
  simp [groupFits, is0, hg]

theorem issues_run0 (i : Insn) : Issues run0 is0 i :=
  issues_of (by decide +kernel) (by decide +kernel) (by decide +kernel) (by decide +kernel) (by decide +kernel) i

/-! ### Ill-formed terms that the checks refuse -/

theorem test_wf_upset_word :
    (Upset.word (Config.panBase + 4) false).wf = false ∧ (Upset.word (Config.panBase + 12 * Config.panBytes) false).wf = false ∧
      (Upset.word (Config.sessBase + 8) true).wf = true := by decide +kernel
theorem test_wf_upset_codeword : (Upset.codeword 33 false).wf = false ∧ (Upset.codeword Config.hbmBytes true).wf = false ∧ (Upset.codeword 32 true).wf = true := by
  decide +kernel
theorem test_wf_upset_entries :
    (Upset.wcb 0 512).wf = false ∧ (Upset.wcb 23 511).wf = true ∧ (Upset.rtt 524288).wf = false ∧ (Upset.rtt 524287).wf = true := by decide +kernel
/-- A message of 213 bytes takes two flits, one of 212 bytes one (R441). -/
abbrev msg (len : BitVec 17) (n : Nat) (marks : List Nat) : Msg := ⟨0, false, false, 0, 0, 0, 0, 0, 0, len, 0, 0, 0, 0, 0, List.replicate n 0, marks⟩
theorem test_wf_message :
    (msg 3 4 []).wf = false ∧ (msg 212 212 [1]).wf = false ∧ (msg 213 213 [1, 2]).wf = false ∧ (msg 213 213 [0, 1]).wf = true ∧
      (Instr.put (msg 3 4 [])).wf = false := by decide +kernel
theorem test_wf_message_length : (msg 65537 65537 []).wf = false := by
  unfold Msg.wf
  rw [List.length_replicate]
  rfl
theorem test_wf_pages :
    (Instr.atsInvalidationRequest 0 0 2048 none false).wf = false ∧ (Instr.atsInvalidationRequest 0 0 12288 none false).wf = false ∧
      (Instr.atsInvalidationRequest 0 4096 8192 none false).wf = false ∧ (Instr.atsInvalidationRequest 0 (2 ^ 64) 4096 none false).wf = false ∧
      (Instr.atsInvalidationRequest 0 8192 8192 none false).wf = true := by decide +kernel
theorem test_wf_translation :
    (Translation.mk 4096 4096 0x800 true true false true false).wf = false ∧ (Translation.mk 0 2048 0 true true false true false).wf = false ∧
      (Translation.mk 4096 4096 0x1000 true true false true false).wf = true := by decide +kernel
theorem test_wf_mismatch : (Mismatch.mk 0 128 0 0).wf = false ∧ (Mismatch.mk 0 127 512 0).wf = false ∧ (Mismatch.mk 0 127 511 0).wf = true := by decide
theorem test_wf_registers :
    (Instr.registerWrite .host 4 true 0).wf = false ∧ (Instr.registerWrite .host 2 false 0).wf = false ∧
      (Instr.stagedWrite .host Config.ctlBytes true 0).wf = false ∧ (Instr.registerWrite .host 4 false 0).wf = true := by decide +kernel
theorem test_wf_hbm :
    (Instr.hbmWrite .host (Config.hbmBytes - 1) [0, 0] []).wf = false ∧ (Instr.hbmWrite .host 0 [] []).wf = false ∧ (Instr.hbmRead .host 0 0 []).wf = false ∧
      (Instr.hbmAtomic .host 4 .add true 0 0 []).wf = false ∧ (Instr.hbmAtomic .host 4 .add false 0 0 []).wf = true := by decide +kernel
theorem test_wf_upsets_of_a_command : (Instr.ld ⟨0, false⟩ .d 1 2 (.short 0) [.wcb 0 512]).wf = false ∧ (Instr.lineFill 0 true (2 ^ 42) []).wf = false := by
  decide +kernel
theorem test_wf_samples :
    (Instr.stackTempSample 0 [0] []).wf = false ∧ (Instr.dieTempSample []).wf = false ∧ (Instr.energyUpdate [] [0, 0, 0, 0]).wf = false ∧
      (Instr.monitorSample [] []).wf = false ∧ (Instr.linktest [0]).wf = false ∧ (Instr.memtest [16] 0).wf = false := by decide +kernel
theorem test_wf_lengths :
    (Instr.bar0Access false 0 0 0).wf = false ∧ (Instr.bar2Read 0 0 []).wf = false ∧ (Instr.bar2Write 0 [] false []).wf = false ∧
      (Instr.flitReceive 0 [0] .later 0).wf = false ∧ (Instr.translationStoreWrite .mc Config.tstoreBase []).wf = false := by decide +kernel
theorem test_wf_bar2_size : (Instr.busMasterEnableSet true true 0 27).wf = false ∧ (Instr.busMasterEnableSet true true 0 42).wf = false ∧
    (Instr.busMasterEnableSet true true 0 41).wf = true := by decide
theorem test_wf_link :
    (Instr.linkTraining 0 16).wf = false ∧ (Instr.linkTraining 7 16).wf = false ∧ (Instr.linkTraining 6 3).wf = false ∧ (Instr.linkTraining 6 16).wf = true := by decide
theorem test_wf_report :
    (Instr.faultReport ⟨0, 0, 0, 0, 0, 0, false, 1, 0, 0⟩).wf = false ∧ (Instr.faultReport ⟨0, 14, 0, 0, 0, 0, false, 1, 0, 0⟩).wf = false ∧
      (Instr.faultReport ⟨0, 1, 0, 0, 0, 0, false, 0, 0, 0⟩).wf = false ∧ (Instr.faultReport ⟨0, 13, 0, 0, 0, 0, false, 1, 0, 0⟩).wf = true := by decide
/-- A first word of 0x3F in its low six bits has a second word, and no other has one (R88). -/
theorem test_wf_illegal :
    (Instr.illegalInstruction ⟨0, false⟩ 0x3F none).wf = false ∧ (Instr.illegalInstruction ⟨0, false⟩ 0x3E (some 0)).wf = false ∧
      (Instr.illegalInstruction ⟨0, false⟩ 0x3F (some 0)).wf = true := by decide

/-! ### The control core -/

/-- A 32-bit operation that has a 32-bit form, and a unary one with rb = g0. -/
theorem witness_AluResults :
    (Issues run0 is0 (opInsn .int AluOp.add.func true 1 2 3) ∧ AluOp.add.allowsW = true) ∧
    (Issues run0 is0 (opInsn .int AluOp.clz.func false 0 63 0) ∧ AluOp.clz.unary = true) :=
  ⟨⟨issues_run0 _, by decide⟩, issues_run0 _, by decide⟩
theorem witness_MulDivResults :
    (Issues run0 is0 (opInsn .int MulOp.mul.func true 1 2 3) ∧ MulOp.mul.allowsW = true) ∧ Issues run0 is0 (opInsn .div DivOp.rem.func true 1 2 0) :=
  ⟨⟨issues_run0 _, by decide⟩, issues_run0 _⟩
theorem witness_ImmediateResults :
    Issues run0 is0 (immInsn .addi 1 2 (.long 0xFFFFF 0x3FFF)) ∧
    (Issues run0 is0 (shiftImmInsn .srai true 1 2 31) ∧ (31 : BitVec 6).getLsbD 5 = false) ∧
    Issues run0 is0 (upperInsn 1 (.short 0x80000) 0x0A) ∧ Issues run0 is0 (upperInsn 0 (.long 0xFFFFFFF 0) 0x0B) :=
  ⟨issues_run0 _, ⟨issues_run0 _, by decide⟩, issues_run0 _, issues_run0 _⟩
/-- A jalr to an address at the top of the 48 bits, and one just past them. -/
theorem witness_BranchesAndJumps :
    Issues run0 is0 (branchInsn .ltu 0 1 (.short 0x2000)) ∧ Issues run0 is0 (jalInsn 63 (.short 0x80000)) ∧
    Issues run0 is0 (jalrInsn 63 1 (.short 0)) ∧
    (((0xFFFFFFFFFFFC : Word) + immS (.short 3)) &&& ~~~3).toNat < 2 ^ 48 ∧
    ¬(((0xFFFFFFFFFFFC : Word) + immS (.short 4)) &&& ~~~3).toNat < 2 ^ 48 :=
  ⟨issues_run0 _, issues_run0 _, issues_run0 _, by decide, by decide⟩
theorem witness_LoopSetup :
    (Issues run0 is0 (loopInsn 0 0 16383) ∧ loopAllowed (run0.thr 0) 0 ((run0.thr 0).pc + 4 + 65532)) ∧
    (Issues run0 is0 (loopiInsn 1 0 4095 (some 0xFFFFF)) ∧ loopAllowed (run0.thr 0) 1 ((run0.thr 0).pc + 8)) :=
  ⟨⟨issues_run0 _, by unfold loopAllowed; decide +kernel⟩, issues_run0 _, by unfold loopAllowed; decide +kernel⟩
/-- A rounding mode of its own and the dynamic one, whose field is RNE at reset. -/
theorem witness_FpResults :
    Issues run0 is0 (fpInsn .fpu FpOp.fadd.func true 7 1 2 3) ∧ Issues run0 is0 (fpInsn .div 3 false 0 1 2 3) ∧
    Issues run0 is0 (fpInsn .div 4 false 0 1 2 0) ∧ Issues run0 is0 (fmaInsn .fmadd true 1 2 3 4 none) ∧ Issues run0 is0 (fcvtInsn 4 1 1 2) ∧
    rmField (run0.thr 0) 7 = some .rne ∧ rmField (run0.thr 0) ((none : Option (BitVec 3)).getD 7) = some .rne ∧ rmField (run0.thr 0) 1 = some .rtz :=
  ⟨issues_run0 _, issues_run0 _, issues_run0 _, issues_run0 _, issues_run0 _, by decide +kernel, by decide +kernel, by decide +kernel⟩
/-- The least signalling NaN of FP32 as the second operand, and the greatest quiet one of FP64 as the first. -/
theorem witness_NanOperands :
    ((0x7F800001 : Nat) < 2 ^ (fmtOf false).width ∧ nanBits false 0x7F800001 = true) ∧
    ((0xFFFFFFFFFFFFFFFF : Nat) < 2 ^ (fmtOf true).width ∧ nanBits true 0xFFFFFFFFFFFFFFFF = true) := by decide

/-- `up` with thread 0 running in the Sealed world as supervisor. -/
def runS : State := run0.updThr 0 (fun x => { x with world := true })
/-- Thread 0 has a transaction that has written one line. -/
def tx0 : Tx := { rd := 5, fail := 0x2000, wset := [], rset := [] }
def runTx : State := run0.updThr 0 (fun x => { x with tx := some tx0 })
/-- The same 16,384 core cycles after tbegin. -/
def runTxOld : State := { runTx with cycles := runTx.cycles.set 0 16384 }

theorem issues_runS (i : Insn) : Issues runS is0 i :=
  issues_of (by decide +kernel) (by decide +kernel) (by decide +kernel) (by decide +kernel) (by decide +kernel) i
theorem issues_runTx (i : Insn) (h : i.inTx = true) : Issues runTx is0 i := by
  have hg : (runTx.thr is0.thr).group = none := by decide +kernel
  refine ⟨by decide +kernel, by decide +kernel, ?_, Or.inr h, by decide +kernel⟩
  simp [groupFits, hg]

/-- FCSR by any thread, a register of the supervisor, and SWAKE by the Sealed supervisor. -/
theorem witness_ControlRegisterAccess :
    (crAssigned 0x030 = true ∧ crPermitted (run0.thr 0) 0x030 = true ∧ Issues run0 is0 (crInsn .r 1 0 0x030)) ∧
    (crAssigned 0x100 = true ∧ crPermitted (run0.thr 0) 0x100 = true ∧ Issues run0 is0 (crInsn .w 1 2 0x100) ∧
      Issues run0 is0 (crInsn .s 1 2 0x100) ∧ Issues run0 is0 (crInsn .c 1 2 0x100)) ∧
    (crAssigned 0x181 = true ∧ crPermitted (runS.thr 0) 0x181 = true ∧ Issues runS is0 (crInsn .w 1 2 0x181)) := by
  refine ⟨⟨?_, ?_, issues_run0 _⟩, ⟨?_, ?_, issues_run0 _, issues_run0 _, issues_run0 _⟩, ?_, ?_, issues_runS _⟩ <;> decide +kernel
theorem witness_PendingWrites :
    (pendingReg 0x100 = true ∧ (run0.thr 0).pendO = [] ∧ (run0.thr 0).pendS = []) ∧
    (pendingReg 0x180 = true ∧ (runS.thr 0).world = true ∧ (runS.thr 0).pendO = [] ∧ (runS.thr 0).pendS = []) := by decide +kernel
theorem witness_SynchronisationInstructions :
    Issues run0 is0 (soloInsn 1 0) ∧ Issues run0 is0 (soloInsn 2 0) ∧
    (run0.thr 0).storeQ = [] ∧
    (Issues run0 is0 (soloInsn 0x0A 0) ∧ pendingLines run0 (run0.thr 0) false &&& ((run0.thr 0).bcr false 0x102).toNat = 0 ∧
      pendingLines run0 (run0.thr 0) true &&& ((run0.thr 0).bcr true 0x102).toNat = 0) ∧
    (Issues run0 is0 (soloInsn 4 0) ∧ (run0.thr 0).entry = false) := by
  refine ⟨issues_run0 _, issues_run0 _, ?_, ⟨issues_run0 _, ?_, ?_⟩, issues_run0 _, ?_⟩ <;> decide +kernel
theorem witness_Transactions :
    (Issues run0 is0 (tbeginInsn 5 (.short 4)) ∧ (run0.thr 0).tx = none) ∧
    (Issues runTx is0 (soloInsn 5 0 true) ∧ Issues runTx is0 (soloInsn 6 255 true) ∧ (runTx.thr 0).tx = some tx0 ∧ (runTx.thr 0).storeQ = [] ∧
      ∃ r, exec (.tabort is0 255) runTx = .next r) ∧
    ((runTxOld.thr 0).tx = some tx0 ∧ 16384 ≤ (coreCycle runTxOld 0 - tx0.began).toNat) ∧
    ((coreCycle runTx 0 - tx0.began).toNat < 16384 ∧ (clocksForCycles runTx 0 (16384 - (coreCycle runTx 0 - tx0.began).toNat)).isSome = true) := by
  refine ⟨⟨issues_run0 _, ?_⟩, ⟨issues_runTx _ rfl, issues_runTx _ rfl, ?_, ?_, _, rfl⟩, ⟨?_, ?_⟩, ?_, ?_⟩ <;> decide +kernel

theorem canTrap_run0 : CanTrap run0 0 := by unfold CanTrap; decide +kernel
/-- The fetch fault at an address of the session table. -/
theorem witness_TrapInstructions :
    CanTrap run0 0 ∧ Issues run0 is0 (soloInsn 0x0B 255) ∧ (Issues run0 is0 (illegalWord 0 none) ∧ decodeInsn is0 0 none = none) ∧
    (CanTrap (run0.updThr 0 (fun x => { x with pc := 0xF20000000000 })) 0 ∧
      ((run0.updThr 0 (fun x => { x with pc := 0xF20000000000 })).thr 0).run = .running ∧
      fetchable ((run0.updThr 0 (fun x => { x with pc := 0xF20000000000 })).thr 0).pc.toNat = false) :=
  ⟨canTrap_run0, issues_run0 _, ⟨issues_run0 _, by decide +kernel⟩, by unfold CanTrap; decide +kernel, by decide +kernel, by decide +kernel⟩
theorem witness_TrapEntry : CanTrap run0 0 ∧ ({ applyPending (run0.thr 0) with pc := 0x1000 } : Thread).run ≠ .parked :=
  ⟨canTrap_run0, by decide +kernel⟩

/-- The pan of Spindle 0 begins here; its bytes need no stack in service. -/
abbrev panA : Nat := 0xF00000000000

/-- Thread 0 as Open supervisor: gate 0 of its table is a plain supervisor gate to 0x3000; g63 lies in the pan. -/
def gateBytes : List Byte := leBytes 8 3 ++ leBytes 8 0x3000
def runG : State :=
  (storeBytes run0 panA gateBytes).updThr 0 (fun x => ((x.setBcr false CR.GTB (BitVec.ofNat 64 (panA + 1))).wg 63 (BitVec.ofNat 64 (panA + 0x1000))))
theorem issues_runG (i : Insn) : Issues runG is0 i :=
  issues_of (by decide +kernel) (by decide +kernel) (by decide +kernel) (by decide +kernel) (by decide +kernel) i
def gate0 : Gate := gateOf (gateBytes ++ List.replicate 48 0)

/-- The same caller at user level; gate 0 of its table forwards to gate 0 of the Sealed table, at 0x4000 of the pan: a Sealed supervisor gate
for Open callers on a stack of its own. -/
def fwdBytes : List Byte := leBytes 8 (1 + 4 + 16)
def sealedBytes : List Byte := leBytes 8 (1 + 2 + 8 + 2 ^ 6) ++ leBytes 8 0x3000 ++ leBytes 8 (panA + 0x9000) ++ leBytes 8 (panA + 0x8000)
def runF : State :=
  (storeBytes (storeBytes run0 panA fwdBytes) (panA + 0x4000) sealedBytes).updThr 0 (fun x =>
    { (x.setBcr false CR.GTB (BitVec.ofNat 64 (panA + 1))).setBcr true CR.GTB (BitVec.ofNat 64 (panA + 0x4001)) with level := false })
theorem issues_runF (i : Insn) : Issues runF is0 i :=
  issues_of (by decide +kernel) (by decide +kernel) (by decide +kernel) (by decide +kernel) (by decide +kernel) i
def gate1 : Gate := gateOf (sealedBytes ++ List.replicate 32 0)
def gateF : Gate := gateOf (fwdBytes ++ List.replicate 56 0)

theorem governs_runG :
    let s1 := (readGate runG 0 false 0).1
    Governs runG 0 0 s1 gate0 false ∧ GateOpens s1 (s1.thr 0) gate0 false ∧
      (frameParts s1 0 (SYS 7 0) .store false true (frameAt (s1.thr 0) gate0 false)).2 = .dev (panA + 0xFE0) :=
  ⟨⟨by decide +kernel, Or.inl ⟨Prod.ext (by decide +kernel) (by decide +kernel), by decide +kernel, by decide +kernel, by decide +kernel,
    by decide +kernel⟩⟩, by unfold GateOpens; decide +kernel, by decide +kernel⟩
theorem governs_runF :
    let s1 := (readGate (readGate runF 0 false 0).1 0 true gateF.fwdgate).1
    Governs runF 0 0 s1 gate1 true ∧ GateOpens s1 (s1.thr 0) gate1 true ∧ gate1.stacklim.toNat ≤ (frameAt (s1.thr 0) gate1 true).toNat ∧
      (frameParts s1 0 (SYS 7 0) .store true true (frameAt (s1.thr 0) gate1 true)).2 = .dev (panA + 0x8FE0) :=
  ⟨⟨by decide +kernel, Or.inr ⟨(readGate runF 0 false 0).1, gateF,
    Prod.ext (by decide +kernel) (by decide +kernel), by decide +kernel, by decide +kernel, by decide +kernel, by decide +kernel, by decide +kernel,
    Prod.ext (by decide +kernel) (by decide +kernel), by decide +kernel, by decide +kernel, by decide +kernel, rfl⟩⟩, by unfold GateOpens; decide +kernel,
    by decide +kernel, by decide +kernel⟩
/-- A return through a frame that names the caller's own context. -/
def runR : State := storeBytes runG (panA + 0x1010) (leBytes 8 1)
theorem frame_runR :
    let x := applyPending (runR.thr 0)
    (frameParts (runR.setThr 0 x) 0 (SYS 8 0) .load x.world x.level (x.rg 63)).2 = .dev (panA + 0x1000) ∧
      (readFrame (runR.setThr 0 x) 0 (.dev (panA + 0x1000))).2 = .data (List.replicate 16 0 ++ leBytes 8 1 ++ List.replicate 8 0) ∧
      FrameReturns x (List.replicate 16 0 ++ leBytes 8 1 ++ List.replicate 8 0) :=
  ⟨by decide +kernel, by decide +kernel, by unfold FrameReturns; decide +kernel⟩
theorem witness_GatesAndGateReturns :
    Issues runG is0 (soloInsn 7 0) ∧ Issues runF is0 (soloInsn 7 0) ∧ Issues runR is0 (soloInsn 8 0) :=
  ⟨issues_runG _, issues_runF _, issues_of (by decide +kernel) (by decide +kernel) (by decide +kernel) (by decide +kernel) (by decide +kernel) _⟩

/-- The block of world Open lies in the pan, zeros: it returns to address 0 at user level. -/
def runT : State := run0.updThr 0 (fun x => x.setBcr false CR.TSBR (BitVec.ofNat 64 panA))
def tsb0 : Tsb := tsbOf (List.replicate 112 0) (List.replicate 256 0)
theorem witness_TrapReturn :
    let y := applyPending (runT.thr 0)
    let r := readTsb (runT.setThr 0 y) 0 y.world (tsbAddr y y.world)
    Issues runT is0 (soloInsn 9 0) ∧ (runT.thr 0).level = true ∧ (match r.2 with | .ok b => decide (b = tsb0) | .error _ => false) = true ∧
      tsb0.pie = false ∧ (r.1.thr 0).suspended ≠ some (tsbAddr y y.world) ∧ (r.1.thr 0).parkBlock ≠ some (y.world, tsbAddr y y.world) := by
  refine ⟨issues_of (by decide +kernel) (by decide +kernel) (by decide +kernel) (by decide +kernel) (by decide +kernel) _, ?_, ?_, ?_, ?_, ?_⟩ <;> decide +kernel

/-- g1 at the pan's beginning; the 4 bytes before its second line, read across the two halves by ld.d. -/
def runL : State := run0.updThr 0 (fun x => (x.wg 1 (BitVec.ofNat 64 panA)).wg 2 (BitVec.ofNat 64 (panA + 0x3C)))
theorem issues_runL (i : Insn) : Issues runL is0 i :=
  issues_of (by decide +kernel) (by decide +kernel) (by decide +kernel) (by decide +kernel) (by decide +kernel) i
theorem memoryAddr_pan : memoryAddr panA ∧ memoryAddr (panA + 0x3C) ∧ memoryAddr 0 :=
  ⟨⟨by decide +kernel, Or.inr (Or.inl ⟨0, by decide +kernel⟩)⟩, ⟨by decide +kernel, Or.inr (Or.inl ⟨0, by decide +kernel⟩)⟩,
    ⟨by decide +kernel, Or.inl (by decide +kernel)⟩⟩
def partsL : List Part := [⟨panA + 0x3C, 4⟩, ⟨panA + 0x40, 4⟩]
/-- A store of the doubleword at the pan's beginning waits in the queue of thread 0. -/
def runSQ : State := runL.updThr 0 (fun x => { x with storeQ := [{ addr := panA, data := List.replicate 8 0, map := mapping runL }] })
theorem issues_runSQ (i : Insn) : Issues runSQ is0 i :=
  issues_of (by decide +kernel) (by decide +kernel) (by decide +kernel) (by decide +kernel) (by decide +kernel) i
/-- Thread 0 in a transaction; g1 is the pan's beginning and g2 an address of HBM. -/
def runLX : State := runL.updThr 0 (fun x => ({ x with tx := some tx0 }).wg 2 0)
theorem issues_runLX (k : StKind) (rs ra : Reg6) (imm : Imm14) : Issues runLX is0 (stInsn k rs ra imm) := by
  have hg : (runLX.thr is0.thr).group = none := by decide +kernel
  refine ⟨by decide +kernel, by decide +kernel, ?_, Or.inr rfl, by decide +kernel⟩
  simp [groupFits, hg]
/-- g1 is the beginning of control space. -/
def runCtl : State := run0.updThr 0 (fun x => x.wg 1 (BitVec.ofNat 64 Config.ctlBase))
theorem issues_runCtl (i : Insn) : Issues runCtl is0 i :=
  issues_of (by decide +kernel) (by decide +kernel) (by decide +kernel) (by decide +kernel) (by decide +kernel) i
def okIs (r : Except TrapInfo (List Part)) (ps : List Part) : Bool := match r with | .ok q => decide (q = ps) | .error _ => false
def isErr (r : Except TrapInfo (List Part)) : Bool := match r with | .ok _ => false | .error _ => true
/-- A load of two halves, one of a control register and one that no check passes; a store of one part, one behind a queued store, one of
two parts, one in a transaction inside and outside the own pan, one of a control register and one that is misplaced; an atomic of a
doubleword, and a misaligned one. -/
theorem witness_LoadsStoresAtomics :
    (Issues runL is0 (ldInsn .d 3 2 (.short 0)) ∧ (runL.thr 0).tx = none ∧
      okIs (checkAccess runL (runL.thr 0) .load ((runL.thr 0).rg 2 + immS (.short 0)) LdKind.d.bytes) partsL = true ∧ loadWaits runL 0 partsL = false) ∧
    (Issues runCtl is0 (ldInsn .d 3 1 (.short 0)) ∧ (runCtl.thr 0).tx = none ∧
      okIs (checkAccess runCtl (runCtl.thr 0) .load ((runCtl.thr 0).rg 1 + immS (.short 0)) LdKind.d.bytes) [⟨Config.ctlBase, 8⟩] = true ∧
      isSva ((runCtl.thr 0).rg 1 + immS (.short 0)).toNat = false ∧ windowOf ((runCtl.thr 0).rg 1 + immS (.short 0)).toNat = .control) ∧
    isErr (checkAccess runCtl (runCtl.thr 0) .load ((runCtl.thr 0).rg 1 + immS (.short 1)) LdKind.d.bytes) = true ∧
    (Issues runL is0 (stInsn .d 3 1 (.short 0)) ∧
      okIs (checkAccess runL (runL.thr 0) .store ((runL.thr 0).rg 1 + immS (.short 0)) StKind.d.bytes) [⟨panA, 8⟩] = true ∧
      writeBusy runL panA = false ∧ queueHits (runL.thr 0).storeQ panA 8 = false) ∧
    (Issues runSQ is0 (stInsn .d 3 1 (.short 0)) ∧ (runSQ.thr 0).tx = none ∧
      okIs (checkAccess runSQ (runSQ.thr 0) .store ((runSQ.thr 0).rg 1 + immS (.short 0)) StKind.d.bytes) [⟨panA, 8⟩] = true ∧
      (writeBusy runSQ panA || queueHits (runSQ.thr 0).storeQ panA 8) = true ∧ (runSQ.thr 0).storeQ.length < 8) ∧
    (Issues runL is0 (stInsn .d 3 2 (.short 0)) ∧
      okIs (checkAccess runL (runL.thr 0) .store ((runL.thr 0).rg 2 + immS (.short 0)) StKind.d.bytes) partsL = true ∧
      (partsL.foldlM (fun z p => storePart z 0 p.ea (((leBytes 8 0).drop (p.ea - (panA + 0x3C))).take p.n)) runL).isSome = true) := by
  refine ⟨⟨issues_runL _, ?_, ?_, ?_⟩, ⟨issues_runCtl _, ?_, ?_, ?_, ?_⟩, ?_, ⟨issues_runL _, ?_, ?_, ?_⟩, ⟨issues_runSQ _, ?_, ?_, ?_, ?_⟩, issues_runL _, ?_, ?_⟩ <;>
    decide +kernel
theorem witness_LoadsStoresAtomics_transactions :
    (Issues runLX is0 (stInsn .d 3 1 (.short 0)) ∧ (runLX.thr 0).tx = some tx0 ∧
      (halves ((runLX.thr 0).rg 1 + immS (.short 0)) 8).all (ownPan 0) = true ∧
      okIs (checkAccess runLX (runLX.thr 0) .store ((runLX.thr 0).rg 1 + immS (.short 0)) StKind.d.bytes) [⟨panA, 8⟩] = true ∧
      (joinWrite tx0 panA (leBytes 8 0)).isSome = true) ∧
    (Issues runLX is0 (stInsn .d 3 2 (.short 0)) ∧ (runLX.thr 0).tx.isSome = true ∧
      (halves ((runLX.thr 0).rg 2 + immS (.short 0)) 8).all (ownPan 0) = false) := by
  refine ⟨⟨issues_runLX _ _ _ _, ?_, ?_, ?_, ?_⟩, issues_runLX _ _ _ _, ?_, ?_⟩ <;> decide +kernel
theorem witness_LoadsStoresAtomics_others :
    (Issues runCtl is0 (stInsn .d 3 1 (.short 0)) ∧ (runCtl.thr 0).tx = none ∧ (runCtl.thr 0).storeQ = [] ∧ (runCtl.thr 0).group = none ∧
      okIs (checkAccess runCtl (runCtl.thr 0) .store ((runCtl.thr 0).rg 1 + immS (.short 0)) StKind.d.bytes) [⟨Config.ctlBase, 8⟩] = true ∧
      ctlStore ((runCtl.thr 0).rg 1 + immS (.short 0)) = some 0) ∧
    (isErr (checkAccess runL (runL.thr 0) .store (BitVec.ofNat 64 0xFFF000000000) StKind.d.bytes) = true ∧
      ctlStore (BitVec.ofNat 64 0xFFF000000000) = none) ∧
    (Issues runL is0 (atomInsn .cas true 3 1 2) ∧ isSva ((runL.thr 0).rg 1).toNat = false ∧ isErr (checkAccess runL (runL.thr 0) .atomic ((runL.thr 0).rg 1) 8) = false ∧
      anyWriteBusy runL ((runL.thr 0).rg 1).toNat 8 = false ∧ queueHits (runL.thr 0).storeQ ((runL.thr 0).rg 1).toNat 8 = false) ∧
    isErr (checkAccess runL (runL.thr 0) .atomic ((runL.thr 0).rg 2) 8) = true := by
  refine ⟨⟨issues_runCtl _, ?_, ?_, ?_, ?_, ?_⟩, ⟨?_, ?_⟩, ⟨issues_runL _, ?_, ?_, ?_, ?_⟩, ?_⟩ <;> decide +kernel
/-- The pan's first line is in way 0. -/
def runHit : State := runL.setCache 0 true { runL.cache 0 true with lines := [(0, some ⟨panA / 64 / 256, 0⟩)] }
/-- A prefetch of a readable line that misses, and of one that hits; one of a line of control space, that no check passes. -/
theorem witness_CacheInstructions :
    badAddr .load ⟨panA, 1⟩ = false ∧ Issues runL is0 (cacheInsn 0 1 0) ∧ Issues runL is0 (cacheInsn 2 1 0) ∧ Issues runL is0 (cacheInsn 1 0 0) ∧
    Issues runL is0 (cacheInsn 3 0 0) ∧
    (Issues runL is0 (soloInsn 0x10 0x0F) ∧ (0x0F : BitVec 6).getLsbD 4 = false ∧ (0x0F : BitVec 6).getLsbD 5 = false ∧ missCount runL 0 = 0 ∧ (runL.thr 0).storeQ = [] ∧
      matrixReadsDone runL 0 = true) ∧
    (Issues runL is0 (cacheInsn 4 1 0) ∧ (match checkAccess runL (runL.thr 0) .load (BitVec.ofNat 64 panA) 64 with | .ok _ => true | .error _ => false) = true ∧
      isDevice panA = true ∧ cacheable panA = true ∧ (l1Find runL 0 true (panA / 64) false).2 = (none, none)) ∧
    (Issues runL is0 (cacheInsn 5 1 0) ∧
      (match checkAccess runL (runL.thr 0) .exec (BitVec.ofNat 64 Config.ctlBase) 64 with | .ok _ => false | .error _ => true) = true) ∧
    (Issues runHit is0 (cacheInsn 4 1 0) ∧ (l1Find runHit 0 true (panA / 64) false).2 = (some 0, none) ∧ fillEn runHit 0 true = false) := by
  refine ⟨?_, issues_runL _, issues_runL _, issues_runL _, issues_runL _, ⟨issues_runL _, ?_, ?_, ?_, ?_, ?_⟩, ⟨issues_runL _, ?_, ?_, ?_, ?_⟩, ⟨issues_runL _, ?_⟩,
    issues_of (by decide +kernel) (by decide +kernel) (by decide +kernel) (by decide +kernel) (by decide +kernel) _, ?_, ?_⟩ <;> decide +kernel
def fill0 : Fill := { line := panA / 64, thr := some 0, prefetch := false, way := none, drop := false, map := mapping up }
def upFill : State := up.setCache 0 true { up.cache 0 true with fills := [fill0] }
theorem witness_CacheFillsAndControls :
    (upFill.stopped = false ∧ (upFill.cache 0 true).fills.find? (fun g => decide (g.line = panA / 64)) = some fill0 ∧
      (underMapping upFill fill0.map (fun z => (z, anyRowBusy z (64 * (panA / 64)) 64))).2 = false) ∧
    (up.stopped = false ∧ reaches up .mc (ctlOff 11 true) = true ∧ reaches up .host (ctlOff 0 false) = true) := by decide +kernel

/-- Line 26 of the Open world pends, enabled, under IE; a BEAT_OVERRUN pends; a MATRIX_ERROR of tile 3 pends; the Open timer is set. -/
def evI : State := run0.updThr 0 (fun x => ((x.setBcr false CR.IPEND (2 ^ 26)).setBcr false CR.IEN (2 ^ 26)).setBcr false 0x101 1)
def evB : State := run0.updThr 0 (fun x => { x with overrun := some 7 })
def evM : State := run0.updThr 0 (fun x => { x with matErr := [(false, 3)] })
def evT : State := run0.updThr 0 (fun x => x.setBcr false 0x110 5)
theorem witness_EventEntries :
    ((evI.thr 0).run ≠ .halted ∧ (evI.thr 0).host = [] ∧ (evI.thr 0).overrun = none ∧ (evI.thr 0).matErr = [] ∧ EntersFrom evI 0 false ∧
      lowestLine (takeable evI (evI.thr 0) false) = some 26 ∧ lowestLine (takeable evI (evI.thr 0) true) = none) ∧
    ((evB.thr 0).run = .running ∧ (evB.thr 0).host = [] ∧ (evB.thr 0).overrun = some 7 ∧ (evB.thr 0).inh (evB.thr 0).world = false ∧ EntersFrom evB 0 (evB.thr 0).world) ∧
    ((evM.thr 0).run = .running ∧ (evM.thr 0).host = [] ∧ (evM.thr 0).overrun = none ∧ ((evM.thr 0).world, 3) ∈ (evM.thr 0).matErr ∧ (evM.thr 0).inh (evM.thr 0).world = false ∧
      EntersFrom evM 0 (evM.thr 0).world) ∧ (evT.thr 0).bcr false 0x110 ≠ 0 := by
  have h (s : State) (w : Bool) (hg : (s.thr 0).group = none) (hb : blockOk s w (tsbAddr (applyPending (s.thr 0)) w) 512 = true)
      (hw : (applyPending (s.thr 0)).world = false) : EntersFrom s 0 w := ⟨hg, hb, fun h _ => absurd h (by simp [hw])⟩
  refine ⟨⟨?_, ?_, ?_, ?_, h _ _ ?_ ?_ ?_, ?_, ?_⟩, ⟨?_, ?_, ?_, ?_, h _ _ ?_ ?_ ?_⟩, ⟨?_, ?_, ?_, ?_, ?_, h _ _ ?_ ?_ ?_⟩, ?_⟩ <;> decide +kernel
theorem witness_StartAndHalt :
    ((up.thr 47).run = .halted ∧ (up.thr 47).world = false ∧ (up.reg R.MC_FENCED).getLsbD (spindleOf 47).val = false ∧ gemmBusy up = false) ∧
    ((run0.thr 0).run ≠ .halted ∧ (run0.thr 0).world = false ∧ (run0.thr 0).tx = none ∧ (run0.thr 0).group = none ∧ hostBusy (run0.thr 0) = false) ∧
    hostBusy { run0.thr 0 with host := [⟨0, 0, 8, .waiting⟩] } = true := by decide +kernel

/-! ### The vector unit -/

/-- `run0` with VL 8, one register a group, FP32; g1 at the pan's beginning, g2 = 3. -/
def runV : State :=
  run0.updThr 0 (fun x => ((x.setUcr 0x040 (BitVec.ofNat 64 (8 + 2 ^ 16))).wg 1 (BitVec.ofNat 64 panA)).wg 2 3)
/-- VL 1,024: four groups of FP32. -/
def runW : State := runV.updThr 0 (fun x => x.setUcr 0x040 (BitVec.ofNat 64 (1024 + 2 ^ 16)))
theorem issues_runV (i : Insn) : Issues runV is0 i :=
  issues_of (by decide +kernel) (by decide +kernel) (by decide +kernel) (by decide +kernel) (by decide +kernel) i
theorem issues_runW (i : Insn) : Issues runW is0 i :=
  issues_of (by decide +kernel) (by decide +kernel) (by decide +kernel) (by decide +kernel) (by decide +kernel) i
abbrev vi0 : VIssue := ⟨is0, none⟩
/-- vfadd v3, v1, v2 in FP32, unmasked. -/
abbrev vadd : Instr := .vvOp vi0 0 0 1 3 1 2
abbrev vaddOp : EwOp := ewOf 3 32 [(1, 32), (2, 32)] 0 (fun l => vvFn (ty3Of 1) (dynRm (runV.thr 0)) 0 (l.getD 0 0) (l.getD 1 0))

theorem witness_VectorConfiguration : Issues runV is0 (vecInsn (vspec 0 (2 ^ 25 + 2 ^ 24 + 15 * 2 ^ 20 + 3 * 2 ^ 18 + 63 * 2 ^ 12)) [63] [0] false) :=
  issues_runV _
theorem witness_VectorElementwise :
    (∃ i e, ewCase runV vadd = some (vi0, i, e) ∧ Issues runV is0 i ∧ VecRuns runV vi0 e.form) ∧
    (Issues runW is0 (vecInsn (vun 8 0 4 1 3 1) [] [] true) ∧
      VecRuns runW vi0 ((plyForm (vcfgOf (runW.thr 0)) true 1 3).form (vcfgOf (runW.thr 0)) true)) ∧
    (Issues runW is0 (vecInsn (vun 11 0 1 14 3 1) [] [] true) ∧
      VecRuns runW vi0 ((plyForm (vcfgOf (runW.thr 0)) false 3 1).form (vcfgOf (runW.thr 0)) false)) := by
  refine ⟨⟨_, vaddOp, rfl, issues_runV _, ?_⟩, ⟨issues_runW _, ?_⟩, issues_runW _, ?_⟩ <;> (unfold VecRuns; decide +kernel)
/-- The last of four groups of a register. -/
theorem witness_VectorGroupElements :
    let c := vcfgOf (runW.thr 0)
    let e := vaddOp
    e.form.wmax ∈ [4, 8, 16, 32, 64] ∧ e.dst.w ∈ [4, 8, 16, 32, 64] ∧ e.dst.w ≤ e.form.wmax ∧ c.sp ∈ [1, 2, 4, 8] ∧ e.dst.one = false ∧
      e.dst.base + e.dst.span c e.form.wmax ≤ 32 ∧ (3 + 1) * (8192 / e.form.wmax) = e.dst.span c e.form.wmax * 32768 / e.dst.w ∧
      (match ewGroup 0 e (vcfgOf (runV.thr 0)) 0 runV with | .ok _ => true | .trap _ _ | .wait _ => false) = true := by decide +kernel
theorem witness_VectorIntegerResults : (64 : Nat) ∈ [8, 16, 32, 64] ∧ (15 : BitVec 4) ≠ 4 := by decide
/-- An enabled interrupt pends under IE. -/
def runWI : State := runW.updThr 0 (fun x => ((x.setBcr false CR.IPEND (2 ^ 26)).setBcr false CR.IEN (2 ^ 26)).setBcr false 0x101 1)
theorem issues_runWI (i : Insn) : Issues runWI is0 i :=
  issues_of (by decide +kernel) (by decide +kernel) (by decide +kernel) (by decide +kernel) (by decide +kernel) i
theorem witness_VectorStops :
    let c : Instr := .vvOp ⟨is0, some 3⟩ 0 0 1 3 1 2
    ∃ i e, ewCase runWI c = some (⟨is0, some 3⟩, i, e) ∧ Issues runWI is0 i ∧ stopCause runWI 0 = true ∧ startGroup (runWI.thr 0) < 3 ∧ 3 < groupCount (vcfgOf (runWI.thr 0)) e.form.wmax ∧
      vecReason (vcfgOf (runWI.thr 0)) e.form = none ∧ vecHeld runWI 0 (vcfgOf (runWI.thr 0)) e.form = false := by
  refine ⟨_, _, rfl, issues_runW _, ?_, ?_, ?_, ?_⟩ <;> decide +kernel

/-- The header and stages of the example of chapter 05: w = 2^((x − m) × c), x in v4, m in g10, c in g11. -/
def chainBytes : List Byte := leBytes 8 0x0002CA0000411142 ++ leBytes 7 0x0380A102 ++ leBytes 7 0x0380C003 ++ leBytes 7 0xB ++ List.replicate 35 0
/-- x = 3, m = 1 and c = 1/2 in all of the eight elements. -/
def runC : State := (storeBytes runV panA chainBytes).updThr 0 (fun x =>
  { (x.wg 10 0x3F800000).wg 11 0x3F000000 with v := x.v.set 4 (BitVec.ofNat 32768 ((List.range 8).map (fun i => 0x40400000 * 2 ^ (32 * i))).sum) })
theorem witness_VectorMemory :
    (Issues runV is0 { vecInsn (vmemWord false 0 0 2 0 1 3) (vmemReads 0 0 1) [] true with vmem := true } ∧ vmemOk 0 0 = true ∧ VecRuns runV vi0 (vmemForm 0 4 0 3 false) ∧
      (allGroups runV 0 (vmemForm 0 4 0 3 false) (vloadGroup 0 (vmemForm 0 4 0 3 false) 0 0 4 0 1 3 0)).isSome = true) ∧
    (Issues runV is0 { vecInsn (vmemWord true 1 0 2 4 1 3) (vmemReads 1 4 1) [] true with vmem := true } ∧ vmemOk 1 4 = true ∧ VecRuns runV vi0 (vmemForm 1 4 4 3 true) ∧
      (allGroups runV 0 (vmemForm 1 4 4 3 true) (vstoreGroup 0 (vmemForm 1 4 4 3 true) 1 0 4 4 1 3 0)).isSome = true) ∧
    (Issues runC is0 { vecInsn (vmemWord false 3 0 0 0 1 0) (1 :: chainReads runC 0 1) [] true with vmem := true } ∧
      (match vecAccess runC (runC.thr 0) .load ((runC.thr 0).rg 1) 64 with | .ok p => decide (p = ⟨panA, 64⟩) | .error _ => false) = true ∧
      isSva panA = false ∧ loadWaits runC 0 [⟨panA, 64⟩] = false ∧ (l1Load runC 0 [⟨panA, 64⟩]).2 = chainBytes.map (fun b => (b, false)) ∧
      chainFault (parseChain chainBytes) = none ∧ VecRuns (l1Load runC 0 [⟨panA, 64⟩]).1 vi0 (chainForm (parseChain chainBytes))) := by
  refine ⟨⟨issues_runV _, ?_, ?_, ?_⟩, ⟨issues_runV _, ?_, ?_, ?_⟩, issues_of ?_ ?_ ?_ ?_ ?_ _, ?_, ?_, ?_, ?_, ?_, ?_⟩ <;> first | decide +kernel | (unfold VecRuns; decide +kernel)
theorem witness_VectorMasks :
    (Issues runV is0 (vecInsn (vcmpWord 6 0 1 31 1 false 2) [] [] false) ∧ is4bit 1 = false ∧ (31 : Reg6).toNat < 32 ∧
      WholeRuns runV 0 (VForm.mk 32 [] [⟨1, 32, false⟩, ⟨31, 32, false⟩] false [] false false false)) ∧
    (Issues runV is0 (vecInsn (vcmpWord 0 7 13 63 1 true 2) [63] [] false) ∧ is4bit 13 = false ∧
      WholeRuns runV 0 (VForm.mk (elemTy 13).width [] [⟨1, (elemTy 13).width, false⟩] false [] false false false)) ∧
    Issues runV is0 (vecInsn (vcmpWord 12 0 0 0 1 false 2) [] [] false) ∧
    (Issues runV is0 (vecInsn (vcmpWord 14 0 0 0 1 false 2) [] [] false) ∧ vecHeldRegs runV 0 [] [(1, 1)] = false) ∧
    (Issues runV is0 (vecInsn (vcmpWord 15 0 0 0 1 false 2) [] [] false) ∧ vecHeldRegs runV 0 [(1, 1)] [] = false) := by
  refine ⟨⟨issues_runV _, ?_, ?_, ?_⟩, ⟨issues_runV _, ?_, ?_⟩, issues_runV _, ⟨issues_runV _, ?_⟩, issues_runV _, ?_⟩ <;>
    first | decide +kernel | (unfold WholeRuns; decide +kernel)
/-- A sum in FP32, the last operation on a 64-bit integer type, and mred. -/
theorem witness_VectorReductions :
    (20 : Reg6).toNat % 2 = 0 ∧
    (Issues runV is0 (vecInsn (1 * 2 ^ 17 + 1 * 2 ^ 12 + 20 * 2 ^ 6 + 0x35) [] [20, 21] false) ∧ is4bit 1 = false ∧ isFp8 1 = false ∧ (0 : Nat) < 6 ∧
      WholeRuns runV 0 (VForm.mk 32 [] [⟨1, 32, false⟩] false [] false false false)) ∧
    (Issues runV is0 (vecInsn (8 * 2 ^ 24 + 13 * 2 ^ 17 + 1 * 2 ^ 12 + 20 * 2 ^ 6 + 0x35) [] [20, 21] false) ∧ is4bit 13 = false ∧ isFp8 13 = false ∧
      (match elemTy 13 with | .int _ _ => true | .float _ => false) = true ∧
      WholeRuns runV 0 (VForm.mk (elemTy 13).width [] [⟨1, (elemTy 13).width, false⟩] false [] false false false)) ∧
    Issues runV is0 (vecInsn (9 * 2 ^ 24 + 2 * 2 ^ 12 + 20 * 2 ^ 6 + 0x35) [] [20, 21] false) := by
  refine ⟨by decide, ⟨issues_runV _, ?_, ?_, ?_, ?_⟩, ⟨issues_runV _, ?_, ?_, ?_, ?_⟩, issues_runV _⟩ <;> first | decide +kernel | (unfold WholeRuns; decide +kernel)
theorem witness_ReductionResults : (8 : Nat) ∈ [8, 16, 32, 64] ∧ ([255, 1] : List Nat).map (intVal true 8) ≠ [] := by decide
/-- Destination v31 with one register a group; g2 = 3. -/
theorem witness_VectorPermutes :
    let fm (srcs : List Opnd) (wm : Nat) (strict : Bool) : VForm := VForm.mk wm [⟨31, 32, false⟩] srcs strict [] false false false
    let c := vcfgOf (runV.thr 0)
    (31 + max 1 (c.sp * 32 / 32) ≤ 32 ∧ c.sp ∈ [1, 2, 4, 8]) ∧
    VecRuns runV vi0 (ewOf 31 32 [] 0 (fun _ => { bits := 3 })).form ∧ WholeRuns runV 0 (fm [⟨1, 32, false⟩] 32 true) ∧ WholeRuns runV 0 (fm [⟨1, 32, false⟩, ⟨2, 32, false⟩] 32 true) ∧
    (∃ sg, elemTy 11 = .int sg 32) ∧ WholeRuns runV 0 (VForm.mk 32 [] [⟨1, 32, false⟩] false [] false false false) ∧
    (let g := (runV.thr 0).rg 2
     g.toNat / 2 ^ 32 % 32 % 4 = 0 ∧ g.toNat / 2 ^ 32 % 32 ≤ 28 ∧ 30 + 2 * c.sp ≤ 32 ∧
      WholeRuns runV 0 (VForm.mk 32 [⟨29, 64, true⟩] [⟨30, 32, false⟩, ⟨30 + c.sp, 32, false⟩] true [] false false false)) ∧
    Issues runV is0 (vecInsn (vspec 1 (1 * 2 ^ 22 + 2 * 2 ^ 16 + 31 * 2 ^ 6)) [2] [] true) ∧
    Issues runV is0 (vecInsn (vspec 11 (2 * 2 ^ 16 + 30 * 2 ^ 11 + 29 * 2 ^ 6)) [2] [] false) := by
  refine ⟨?_, ?_, ?_, ?_, ⟨false, ?_⟩, ?_, ⟨?_, ?_, ?_, ?_⟩, issues_runV _, issues_runV _⟩ <;>
    first | decide +kernel | (unfold WholeRuns; decide +kernel) | (unfold VecRuns; decide +kernel)

/-! ### The matrix unit -/

/-- Thread 0 owns tiles 0 and 2, and an activation descriptor for the pan's beginning in g3; K = 24 in g4; 64 bytes from the pan to fill. -/
def runM : State :=
  ((run0.updTile 0 0 (fun y => { y with owner := some (0, false) })).updTile 0 2 (fun y => { y with owner := some (0, false) })).updThr 0
    (fun x => ((((x.wg 1 (BitVec.ofNat 64 panA)).wg 2 1).wg 3 (24 * 2 ^ 33)).wg 4 (24 * 2 ^ 16)).wg 5 0)
theorem issues_runM (i : Insn) : Issues runM is0 i :=
  issues_of (by decide +kernel) (by decide +kernel) (by decide +kernel) (by decide +kernel) (by decide +kernel) i
def fmt44 : MopFmt := ⟨.f32, elemTy 4, elemTy 4, false, 8⟩
/-- FP8 in the first shape; the same accumulated in the widest shape by both arrays. -/
theorem witness_MopIssue :
    (Issues runM is0 (mopInsn false 4 4 0 false false 0 3 4) ∧ MopIssues runM is0 (mopOf runM is0 false 4 4 0 false false 0 3 4) fmt44) ∧
    (Issues runM is0 (mopInsn true 4 4 2 true false 0 3 4) ∧ MopIssues runM is0 (mopOf runM is0 true 4 4 2 true false 0 3 4) fmt44) := by
  have h : ∀ m : Mop, (mopFmt runM.level1 m.afmt.toNat m.wfmt.toNat = some fmt44) → m.shape ≠ 3 → (m.pair = true → m.tile.val < 2) → m.wide = false →
      (∀ j : TileId, j ∈ m.tiles → tileUsable runM 0 j = true) →
      actFault runM 0 (actDesc m.a (mopRows m.shape m.pair)) (mopDepth m.b) fmt44.a.width = none → mopHeld (runM.mx 0) m.accum m = false →
      MopIssues runM is0 m fmt44 := fun m h1 h2 h3 h4 h5 h6 h7 =>
    ⟨h1, h2, h3, fun h => absurd h (by simp [h4]), fun j hj => h5 j (hj.resolve_right (fun h => by simp [h4] at h)), h6, h7⟩
  refine ⟨⟨issues_runM _, h _ ?_ ?_ ?_ ?_ ?_ ?_ ?_⟩, issues_runM _, h _ ?_ ?_ ?_ ?_ ?_ ?_ ?_⟩ <;> decide +kernel
/-- A mop at the head of array 0, not started and started. -/
def mop0 : Mop := mopOf runM is0 false 4 4 0 false false 0 3 4
def runQ : State := runM.updMx 0 (fun x => { x with mops := [mop0] })
def runQ' : State := runM.updMx 0 (fun x => { x with mops := [{ mop0 with started := true }] })
theorem witness_MopWork :
    (runQ.stopped = false ∧ headMop (runQ.mx 0) 0 = some mop0 ∧ mayStart (runQ.mx 0) mop0 = true ∧ storesPassed runQ 0 mop0 = true) ∧
    (runQ'.stopped = false ∧ headMop (runQ'.mx 0) 0 = some { mop0 with started := true }) := by decide +kernel
theorem witness_IntegerCells :
    (∃ mf, mopFmt false 9 13 = some mf ∧ mf.acc = .i32) ∧ (∃ mf, mopFmt true 15 14 = some mf ∧ mf.acc = .i32) ∧
      ([128] : List Nat).length = ([255] : List Nat).length ∧ (2 ^ 32 - 1 : Nat) < 2 ^ 32 := ⟨⟨_, rfl, rfl⟩, ⟨_, rfl, rfl⟩, rfl, by decide⟩
def fillB : BufFill := ⟨0, 1, 1, panA, 64⟩
def runB : State := runM.updMx 0 (fun x => { x with fills := [fillB] })
def runB4 : State := runM.updMx 0 (fun x => { x with fills := List.replicate 4 fillB })
/-- A fill of 64 bytes (one byte rounded up), of none, one behind four others, and the arrival of one. -/
theorem witness_Fills :
    (Issues runM is0 (fillInsn true true 1 2) ∧ fillLen ((runM.thr 0).rg 2) = 64 ∧ mfillFault runM 0 ((runM.thr 0).rg 1) 64 = none ∧
      (runM.mx 0).fills.length < 4 ∧ (runM.thr 0).storeQ = [] ∧ (runM.mx 0).mops = []) ∧
    (Issues runM is0 (fillInsn false false 1 5) ∧ fillLen ((runM.thr 0).rg 5) = 0 ∧ mfillFault runM 0 ((runM.thr 0).rg 1) 0 = none) ∧
    (Issues runB4 is0 (fillInsn true true 1 2) ∧ ¬(runB4.mx 0).fills.length < 4 ∧ (runB4.thr 0).group = none) ∧
    (runB.stopped = false ∧ (runB.mx 0).fills = fillB :: [] ∧ anyRowBusy runB fillB.addr fillB.len = false ∧ fillB.len ≤ 262144) := by
  refine ⟨⟨issues_runM _, ?_, ?_, ?_, ?_, ?_⟩, ⟨issues_runM _, ?_, ?_⟩,
    ⟨issues_of (by decide +kernel) (by decide +kernel) (by decide +kernel) (by decide +kernel) (by decide +kernel) _, ?_, ?_⟩, ?_⟩ <;> decide +kernel
/-- Tile 0 is the thread's own and idle, tile 1 free, tile 3 another's; tile 0 of a halted thread. -/
def runO : State := runM.updTile 0 3 (fun y => { y with owner := some (1, false) })
theorem witness_TileOwnership :
    ((runO.tile 0 1).owner = none ∧ gemmBusy runO = false ∧ Issues runM is0 (mctlInsn 0 false 1 0 5)) ∧ (runO.tile 0 3).owner ≠ none ∧
    (owns runO 0 0 = true ∧ (runO.tile 0 0).state = .idle ∧ (runO.tile 0 0).drain = none ∧ (runO.mx 0).queuedOn 0 = [] ∧ Issues runM is0 (mctlInsn 1 false 0 0 0)) ∧
    owns runO 0 3 = false ∧ (Issues runM is0 (mctlInsn 3 true 0 0 0) ∧ Issues runM is0 (mctlInsn 4 false 3 0 5)) ∧
    ((runO.tile 0 3).owner = some (1, false) ∧ (runO.thr (thrOf 0 1)).run = .halted) ∧
    (∀ k : Fin 4, (runO.tile 0 0).owner = some (k, false) → (runO.thr (thrOf 0 k)).run ≠ .halted) := by
  refine ⟨⟨?_, ?_, issues_runM _⟩, ?_, ⟨?_, ?_, ?_, ?_, issues_runM _⟩, ?_, ⟨issues_runM _, issues_runM _⟩, ?_, ?_⟩ <;> decide +kernel
/-- A drain queued on the idle tile 0 and ready; one that has started and stores 64 bytes. -/
def drain0 : Drain := ⟨0, false, true, [], panA, [], []⟩
def runD : State := (runM.updTile 0 0 (fun y => { y with drain := some drain0 })).updMx 0 (fun x => { x with ready := [2, 0] })
def going0 : Draining := { thr := 0, world := false, out := [.mem panA (List.replicate 64 1) false], flags := 0, poison := false, reels := [], status := 0, stage := 0 }
def runD' : State := runM.updTile 0 0 (fun y => { y with state := .draining, running := some going0 })
theorem witness_Drains :
    (Issues runM is0 (mctlInsn 2 false 0 1 0) ∧ tileUsable runM 0 0 = true ∧ ((runM.thr 0).rg 1).toNat % 64 = 0 ∧ (runM.tile 0 0).state ≠ .draining ∧
      (runM.tile 0 0).drain = none ∧ (runM.tile 0 0).boundTo = none ∧ (runM.thr 0).storeQ = [] ∧ programBusy runM 0 0 ⟨0, false, true, [], panA, [], []⟩ = false) ∧
    (runD.stopped = false ∧ (runD.tile 0 0).drain = some drain0 ∧ (runD.mx 0).ready.find? (fun k => decide (arrayOf k = arrayOf 0)) = some 0 ∧
      (runD.tile 0 0).state = .idle ∧ drainHolds runD 0 drain0 = false ∧ pathBusy runD 0 0 = false ∧ matrixBusy runD 0 0 drain0 = false) ∧
    (runD'.stopped = false ∧ (runD'.tile 0 0).running = some going0 ∧ deliveryHeld runD' 0 going0 = false) := by
  refine ⟨⟨issues_runM _, ?_, ?_, ?_, ?_, ?_, ?_, ?_⟩, ⟨?_, ?_, ?_, ?_, ?_, ?_, ?_⟩, ?_⟩ <;> decide +kernel
theorem witness_Drains_noReel : ∀ d ∈ going0.out, ∀ slot idx bits n bad, d ≠ .reel slot idx bits n bad := by
  intro d hd slot idx bits n bad
  simp only [going0, List.mem_singleton] at hd
  subst hd
  exact fun h => Delivery.noConfusion h

/-! ### Memory -/

/-- `up` with stack 0 in SERVICE. -/
def hbm0 : State := up.setFld (R.MEM_STAT 0) F.MEM_STAT_STATE 1
/-- A row of stack 0, pseudo-channel 0 whose retirement is being copied; address 0 lies in row 0. -/
def rowAt (a : Nat) : Row := rowOf (hbmPlace hbm0 a)
def hbmC : State := (hbm0.updStack 0 (fun x => { x with copying := some (rowAt 0) })).setFld (R.MEM_RETIRE 0) F.MEM_RETIRE_RSTAT 1

/-- The canonical memory is one byte, not the value an unlisted address reads as. -/
theorem witness_MemoryBytes : noKeys hbm0 = true ∧ SMap.wf 0 hbm0.mem = true ∧ SMap.wf 0 [(Config.hbmBytes - 1, (1 : Byte))] = true := by decide +kernel
/-- The last element of each shape and the last byte of HBM. -/
theorem witness_Layouts :
    ((2 : Nat) < 3 ∧ shapeRows 2 - 1 < shapeRows 2 ∧ shapeCols 2 - 1 < shapeCols 2 ∧ cellOf 2 (shapeRows 2 - 1) (shapeCols 2 - 1) = 16383) ∧
      Config.hbmBytes - 1 < Config.hbmBytes := by decide
theorem witness_StackAccesses :
    (hbm0.stopped = false ∧ anyWriteBusy hbm0 (Config.hbmBytes - 4) (hbmLen (Config.hbmBytes - 4) 8) = false ∧
      anyRowBusy hbm0 (Config.hbmBytes - 4) (hbmLen (Config.hbmBytes - 4) 8) = false ∧ hbmLen (Config.hbmBytes - 4) 8 = 4) ∧
    (hbmC.stopped = false ∧ anyWriteBusy hbmC 0 (hbmLen 0 1) = true) ∧ (Config.hbmBytes - 8 + 8 ≤ Config.hbmBytes ∧ anyWriteBusy hbm0 (Config.hbmBytes - 8) 8 = false) := by
  decide +kernel

/-- An entry of stack 0's buffer; scrubbing enabled on stack 0 and the pan of Spindle 0. -/
def hbmW : State := memWrite hbm0 .mc 0 [1, 2, 3]
def hbmS : State := hbm0.setFlag (R.SPINDLE_PANCFG 0) F.SPINDLE_PANCFG_SCRUBEN true
theorem witness_BuffersAndScrubs :
    (hbmW.stopped = false ∧ (∀ e ∈ (hbmW.stack (stackOf (hbmPlace hbm0 0))).wcb, e.bad = false) ∧ (hbmW.stack (stackOf (hbmPlace hbm0 0))).wcb ≠ [] ∧
      hbmW.fld (R.MEM_STAT 0) F.MEM_STAT_STATE ≠ 3 ∧ answers hbmW (R.MEM_CTRL 0) = true) ∧
    (hbmS.stopped = false ∧ hbmS.flag (R.MEM_CTRL 0) F.MEM_CTRL_SCRUBEN = true ∧ hbmS.fld (R.MEM_STAT 0) F.MEM_STAT_STATE = 1 ∧
      scrubSkip hbmS 0 65 (hbmS.fld (R.MEM_SCRUB 0) F.MEM_SCRUB_PTRL, hbmS.fld (R.MEM_SCRUB 0) F.MEM_SCRUB_PTRPCH) = some (0, 0)) ∧
    (hbm0.setFlag (R.MEM_CTRL 1) F.MEM_CTRL_SCRUBEN false).flag (R.MEM_CTRL 1) F.MEM_CTRL_SCRUBEN = false ∧
    (hbmS.flag (R.SPINDLE_PANCFG 0) F.SPINDLE_PANCFG_SCRUBEN = true ∧ panOut hbmS 0 = false ∧ (hbmS.spin 0).scrubLine < 2097152) := by decide +kernel

/-- A sparing of pseudo-channel 63 of stack 0 being copied. -/
def hbmR : State := ((hbm0.updStack 0 (fun x => { x with sparing := some 63 })).setFld (R.MEM_SPARE 0) F.MEM_SPARE_SSTAT 1).setFld (R.MEM_SPARE 0) F.MEM_SPARE_SPARED 63
theorem witness_StackRepair :
    (hbm0.stopped = false ∧ reaches hbm0 .mc (R.MEM_RETIRE 0) = true ∧ spareRows hbm0 0 63 ≠ 0 ∧ copyBusy hbm0 0 = false ∧ pchOut hbm0 0 63 = false) ∧
    (hbmC.stopped = false ∧ (hbmC.stack 0).copying = some (rowAt 0) ∧ hbmC.fld (R.MEM_STAT 0) F.MEM_STAT_STATE ≤ 1 ∧ (hbmC.stack 0).held = [] ∧ copyBusy hbmC 0 = true) ∧
    (reaches hbm0 .mc (R.MEM_SPARE 0) = true ∧ hbm0.flag (R.MEM_SPARE 0) F.MEM_SPARE_USED = false) ∧
    (hbmR.stopped = false ∧ (hbmR.stack 0).sparing = some 63 ∧ hbmR.fld (R.MEM_STAT 0) F.MEM_STAT_STATE ≤ 1) ∧
    reaches hbm0 .mc (R.MEM_PCFENCE 0) = true := by decide +kernel

/-- Stack 0 FENCED and cool, AUTORES clear; a margin test under way, and pseudo-channel 5 out of service for one. -/
def hbmF : State := (hbm0.setFld (R.MEM_STAT 0) F.MEM_STAT_STATE 2).setFlag (R.MEM_CTRL 0) F.MEM_CTRL_AUTORES false
def hbmM : State := (hbm0.updStack 0 (fun x => { x with margin := some 5 })).setReg (R.MEM_PCOOS 0) 0x20
def hbmP : State := hbm0.setReg (R.MEM_PCOOS 0) 0x20
/-- A sample at the least Critical temperature from Normal; the highest one that trips nothing. -/
theorem witness_StackThermalAndMargin :
    (hbm0.dead = false ∧ stackLevel 0 419 = 3 ∧ hbm0.fld (R.MEM_STAT 0) F.MEM_STAT_TLEVEL = 0 ∧ hbm0.fld (R.MEM_STAT 0) F.MEM_STAT_STATE ≤ 1 ∧
      ∀ e ∈ (hbm0.stack 0).wcb, e.bad = false) ∧
    (hbmF.stopped = false ∧ answers hbmF (R.MEM_CTRL 0) = true ∧ hbmF.flag (R.MEM_CTRL 0) F.MEM_CTRL_AUTORES = false ∧ hbmF.fld (R.MEM_STAT 0) F.MEM_STAT_STATE = 2 ∧ hbmF.fld (R.MEM_TEMP 0) F.MEM_TEMP_MAXT < 320) ∧
    (hbmF.setFlag (R.MEM_CTRL 0) F.MEM_CTRL_AUTORES true).flag (R.MEM_CTRL 0) F.MEM_CTRL_AUTORES = true ∧
    (let v := putF (putF 0 F.MEM_MARGIN_PCH 5) F.MEM_MARGIN_OFFSET 30
     hbmP.stopped = false ∧ reaches hbmP .mc (R.MEM_MARGIN 0) = true ∧ (hbmP.stack 0).margin = none ∧ getF v F.MEM_MARGIN_MODE < 2 ∧
      (hbmP.reg (R.MEM_PCOOS 0)).getLsbD (getF v F.MEM_MARGIN_PCH) = true ∧ getF v F.MEM_MARGIN_OFFSET ≤ 30) ∧
    (hbm0.fld (R.MEM_STAT 0) F.MEM_STAT_STATE ≠ 0 ∧ getF (putF 0 F.MEM_MARGIN_MODE 2) F.MEM_MARGIN_MODE = 2) ∧ (hbmM.stopped = false ∧ (hbmM.stack 0).margin ≠ none) := by decide +kernel

/-! ### Translation -/

/-- The table is enabled and an ATS request for page 1 is outstanding; thread 0 waits for the host read of tag 9, and an invalidation has
finished waiting. -/
def atsReq : AtsReq := ⟨3, 1, 1, false, [(0x10000, 0x1000)]⟩
def inval0 : Inval := ⟨4, [7]⟩
def rttS : State :=
  ({ up.setFlag R.RTT_CTRL F.RTT_CTRL_EN true with
      host := { up.host with atsEn := true }, rtt := { up.rtt with reqs := [atsReq], invals := [inval0] } } : State).updThr 0
    (fun x => { x with host := [⟨9, 0x1000, 8, .waiting⟩] })
def rttX : State := { rttS with rtt := { rttS.rtt with reqs := [{ atsReq with invs := [(0x1000, 0x1000)] }] } }
def trans0 : Translation := ⟨0x1000, 4096, 0x5000, true, false, false, false, false⟩
/-- The store's last bytes; the range beside the one that was invalidated. -/
theorem witness_TranslationTable :
    (rttS.stopped = false ∧ clipTranslation trans0 = trans0 ∧ SMap.wf none rttS.rtt.entries = true ∧ trans0.r = true ∧ 4096 ≤ trans0.size ∧ rttS.flag R.RTT_CTRL F.RTT_CTRL_EN = true ∧ rttS.host.atsEn = true ∧
      rttS.rtt.reqs.find? (fun q => decide (q.num = 3)) = some atsReq ∧ atsReq.invs.any (fun i => overlaps trans0.va trans0.size i.1 i.2) = false) ∧
    (rttX.rtt.reqs.find? (fun q => decide (q.num = 3)) = some { atsReq with invs := [(0x1000, 0x1000)] } ∧ overlaps trans0.va trans0.size 0x1000 0x1000 = true) ∧
    (∀ p, some (0 : BitVec 20) = some p → rttS.fld R.RTT_PASID F.RTT_PASID_VALUE = p.toNat) ∧
    (rttS.rtt.invals.find? (fun i => decide (i.itag = 4)) = some inval0 ∧ inval0.tags.any (tagOpen rttS) = false) ∧
    (mayCtl rttS .mc = true ∧ inTstore (Config.tstoreBase + Config.tstoreBytes - 1) 1 = true) ∧ answers rttS R.RTT_CTRL = true := by
  refine ⟨?_, ?_, ?_, ?_, ?_, ?_⟩
  rotate_left 2
  · intro p h
    rw [← Option.some.inj h]
    decide +kernel
  all_goals decide +kernel

/-- An open batch of one record and a sent one; FQ.HEAD may be written. -/
def batch0 : Batch := { num := 5, recs := [⟨2, true, 0⟩], sent := true }
def fqS : State := { rttS with fq := { rttS.fq with openRecs := [⟨1, false, 1⟩], openNum := 6, closed := [batch0] } }
theorem witness_FaultQueueAndHostReads :
    fqS.stopped = false ∧ fqS.fq.openRecs ≠ [] ∧ fqS.fq.closed.find? (fun b => b.sent && decide (b.num.toNat % 512 = (5 : BitVec 9).toNat)) = some batch0 ∧
    fqS.fq.closed.find? (fun b => b.sent && decide (b.num = 5)) = some batch0 ∧ reaches fqS .mc R.FQ_HEAD = true ∧ reaches fqS .mc R.FQ_STAT = true ∧
    allThr.find? (fun t => ((fqS.thr t).host ++ (fqS.thr t).orphans).any (fun h => decide (h.tag = 9) && decide (h.reply = .waiting))) = some 0 ∧ (fqS.thr 0).haltReq = false := by decide +kernel

/-! ### The Sluice -/

/-- A COPY of 64 bytes from one place of the pan to another, with tag `t`. -/
def copyDesc (t : Nat) : List Byte :=
  leBytes 64 (panA + 0x2000 + 2 ^ 57 + (panA + 0x3000) * 2 ^ 64 + 64 * 2 ^ 128 + 2 ^ 160 + 2 ^ 240 + 2 ^ 320 + t * 2 ^ 400 + 64 * 2 ^ 416 + 64 * 2 ^ 460)
/-- Queue 0 of engine 0 is enabled with a ring of 16 in the pan, HALTERR set, in state `st` with head `h` and tail `n`; `b` lies in slot 0. -/
def slS (st h n : Nat) (b : List Byte) : State :=
  ((((((((storeBytes up panA b).setFlag (R.SLUICE_QCFG 0 0) F.SLUICE_QCFG_EN true).setFlag (R.SLUICE_QCFG 0 0) F.SLUICE_QCFG_HALTERR true).setFld
    (R.SLUICE_QCFG 0 0) F.SLUICE_QCFG_SIZE 4).setFld (R.SLUICE_QBASE 0 0) F.SLUICE_QBASE_ADDR (panA / 64)).setFld (R.SLUICE_QWB 0 0) F.SLUICE_QWB_ADDR
    ((panA + 0x1000) / 32)).setFld (R.SLUICE_QSTAT 0 0) F.SLUICE_QSTAT_STATE st).setFld (R.SLUICE_QHEAD 0 0) F.SLUICE_QHEAD_INDEX h).setFld
    (R.SLUICE_QTAIL 0 0) F.SLUICE_QTAIL_INDEX n
def slRun (d : Desc) : State := (slS QS.RUNNING 0 1 []).updSlq 0 0 (fun x => { x with desc := some d })
def desc0 (t : Nat) : Desc := parseDesc (copyDesc t)
/-- The same with CHK = 1. -/
def chkDesc : List Byte := leBytes 64 (ofLe (copyDesc 0) + 2 ^ 121)

/-- A tail that fills the ring, and one past it; each queue state that a control finds. -/
theorem witness_SluiceQueueControls :
    (let s := slS QS.IDLE 0 0 []
     s.stopped = false ∧ reaches s .mc (R.SLUICE_QTAIL 0 0) = true ∧ qEn s 0 0 = true ∧ qState s 0 0 = QS.IDLE ∧ (s.slq 0 0).desc = none ∧
      reaches s .mc (R.SLUICE_QCFG 0 0) = true ∧ reaches s .mc (R.SLUICE_QCTL 0 0) = true ∧
      (((16 : BitVec 32).toNat + 2 ^ 32 - qHead s 0 0) % 2 ^ 32 ≤ 2 ^ qSize s 0 0) ∧ ¬((17 : BitVec 32).toNat + 2 ^ 32 - qHead s 0 0) % 2 ^ 32 ≤ 2 ^ qSize s 0 0) ∧
    (qEn up 0 0 = false ∧ qState up 0 0 = QS.OFF ∧ (up.slq 0 0).desc = none ∧ reaches up .host (R.SLUICE_QCFG 0 0) = true) ∧
    (let s := slRun (desc0 0)
     qEn s 0 0 = true ∧ copying s 0 0 = some (desc0 0) ∧ runBoundary (s.slq 0 0) = true ∧ Records s 0 0 ∧ (s.slq 0 0).stop = none ∧
      runBoundary ((s.updSlq 0 0 (fun x => { x with off := 1 })).slq 0 0) = false) ∧
    (let s := slS QS.HALTED 0 1 (copyDesc 0)
     qState s 0 0 = QS.HALTED ∧ ringOk s (qWorld s 0 0) (slotOf s 0 0) 64 = true ∧ (memRead s (.sluice 0) 0 (slotOf s 0 0) 64).2.map (·.1) = copyDesc 0 ∧
      fetchStatus (memRead s (.sluice 0) 0 (slotOf s 0 0) 64).1 0 0 (desc0 0) = none ∧ (desc0 0).op = 1 ∧ (desc0 0).chk = 0 ∧ ((s.slq 0 0).cursor.getD (0, 0)).2 < (desc0 0).runs) ∧
    (let d := { desc0 0 with chk := 1 }
     let s := (slS QS.HALTED 0 1 (chkDesc)).updSlq 0 0 (fun x => { x with cursor := some (0, 0), chkSave := some ({}, 77) })
     (memRead s (.sluice 0) 0 (slotOf s 0 0) 64).2.map (·.1) = chkDesc ∧ parseDesc chkDesc = d ∧ d.chk ≠ 0 ∧ (s.chk[(0 : EngineId)]).owner = none ∧
      fetchStatus (memRead s (.sluice 0) 0 (slotOf s 0 0) 64).1 0 0 d = none ∧ ((s.slq 0 0).cursor.getD (0, 0)).2 < d.runs) := by
  unfold Records
  refine ⟨?_, ?_, ?_, ?_, ?_⟩ <;> decide +kernel
/-- What a fetch finds: no place for the ring; a descriptor without a tag; an operation that none has; the tag of the next beat; one of the
beat before the last; 0xFFFF when the engine has done its work. -/
theorem witness_DescriptorFetch :
    (let s := (slS QS.RUNNING 0 1 []).setFld (R.SLUICE_QBASE 0 0) F.SLUICE_QBASE_ADDR (Config.ctlBase / 64)
     s.stopped = false ∧ qEn s 0 0 = true ∧ qState s 0 0 = QS.RUNNING ∧ (s.slq 0 0).desc = none ∧ qHead s 0 0 ≠ qTail s 0 0 ∧
      anyRowBusy s (slotOf s 0 0) 64 = false ∧ ringOk s (qWorld s 0 0) (slotOf s 0 0) 64 = false) ∧
    (let s := slS QS.RUNNING 0 1 (copyDesc 0)
     let r := memRead s (.sluice 0) 0 (slotOf s 0 0) 64
     ringOk s (qWorld s 0 0) (slotOf s 0 0) 64 = true ∧ Records r.1 0 0 ∧ r.2.map (·.1) = copyDesc 0 ∧ (desc0 0).tag = 0 ∧ fetchStatus r.1 0 0 (desc0 0) = none) ∧
    (let s := slS QS.RUNNING 0 1 (leBytes 64 (5 * 2 ^ 57))
     let r := memRead s (.sluice 0) 0 (slotOf s 0 0) 64
     (parseDesc (r.2.map (·.1))).tag = 0 ∧ fetchStatus r.1 0 0 (parseDesc (r.2.map (·.1))) = some ST.BAD_DESC) ∧
    ((desc0 1).tag ≠ 0 ∧ (desc0 1).tag ≠ 0xFFFF ∧ 0 < tagDist up (desc0 1).tag) ∧ (desc0 0xFFFE).tag ≠ 0xFFFF ∧ tagDist up (desc0 0xFFFE).tag < 0 ∧
    ((desc0 0xFFFF).tag = 0xFFFF ∧ bit (up.reg R.BEAT_EDONE) 0 = true ∧ bit ((up.setReg R.BEAT_EDONE 0).reg R.BEAT_EDONE) 0 = false) := by
  unfold Records
  refine ⟨?_, ?_, ?_, ?_, ?_, ?_, ?_⟩ <;> decide +kernel
/-- A NOP, a LOOP that counts from 3 back by one slot, a WAIT for counter 5 at 1 and a SIGNAL of it. -/
def ctlDesc (op a b : Nat) : Desc := parseDesc (leBytes 64 (op * 2 ^ 57 + a * 2 ^ 128 + b * 2 ^ 160))
theorem witness_SluiceOperations :
    (∀ op : Fin 5, op ≠ 1 → (slRun (ctlDesc op.val 3 1)).stopped = false ∧ qEn (slRun (ctlDesc op.val 3 1)) 0 0 = true ∧ Records (slRun (ctlDesc op.val 3 1)) 0 0 ∧
      runsOp (slRun (ctlDesc op.val 3 1)) 0 0 op.val = some (ctlDesc op.val 3 1)) ∧ (ctlDesc 2 3 1).cnt.1 < 2 ^ 32 ∧ (ctlDesc 2 3 1).cnt.2.1 < 2 ^ 32 := by
  unfold Records; decide +kernel
/-- A channel of the Open world on this device with one message of 64 bytes in its ring, in the pan. -/
def chan0 : Chan := { world := false, putok := true, getok := true, anypeer := true, slotlog := 0, ringlog := 2, peer := 0, base := panA + 0x4000,
                      head := 0, tail := 1, waits := [] }
def chanS (s : State) : State := setChan ((storeBytes s (panA + 0x4400) (leBytes 8 (64 + 2 ^ 31))).setReg (R.GCTL_MEMBER 0) 1) 7 (some chan0)
def getDesc : Desc := { desc0 0 with src := 2 ^ 56 + 7 }
theorem witness_SluiceCopies :
    (let s := slRun (desc0 0)
     s.stopped = false ∧ copying s 0 0 = some (desc0 0) ∧ (s.slq 0 0).phase = 0 ∧ sideKind (desc0 0).src = .dev ∧ sideKind (desc0 0).dst = .dev ∧ (s.slq 0 0).stop = none ∧
      anyRowBusy s ((desc0 0).src + runOffset s 0 0 (desc0 0) true 0) 64 = false ∧ anyWriteBusy s ((desc0 0).dst + runOffset s 0 0 (desc0 0) false 0) 64 = false) ∧
    (let s := chanS (slRun getDesc)
     copying s 0 0 = some getDesc ∧ sideKind getDesc.src = .chan ∧ sideKind getDesc.dst = .dev ∧ qWorld s 0 0 = false ∧ isMember s (chanDev getDesc.src).toNat = true ∧
      chanDev getDesc.src = s.devId ∧ (chanOf s (chanNo getDesc.src)).map (fun y => (y.world, y.waits, decide (y.used = 0))) = some (false, [], false) ∧ (s.slq 0 0).stop = none ∧
      (s.slq 0 0).flights = [] ∧
      (match (takeHead s (chanNo getDesc.src)).2 with | some k => decide (k.data.length = getDesc.cnt.1) | none => false) = true ∧ getDesc.alive ≠ 2 ∧
      Records (takeHead s (chanNo getDesc.src)).1 0 0 ∧ qEn (takeHead s (chanNo getDesc.src)).1 0 0 = true) ∧
    (let s := (slRun (desc0 0)).updSlq 0 0 (fun x => { x with phase := 2 })
     copying s 0 0 = some (desc0 0) ∧ (s.slq 0 0).phase = 2 ∧ (s.slq 0 0).flights = [] ∧ Records s 0 0 ∧ qEn s 0 0 = true ∧ (desc0 0).runs ≤ (s.slq 0 0).run + 1) ∧
    (let f : Flight := { run := 0, xid := 9, bytes := [(1, false)], acked := true }
     let s := (slRun (desc0 0)).updSlq 0 0 (fun x => { x with flights := [f] })
     copying s 0 0 = some (desc0 0) ∧ (s.slq 0 0).stop = none ∧ (desc0 0).runs ≤ f.run + 1 ∧ (desc0 0).cren = false ∧ Records s 0 0 ∧ qEn s 0 0 = true) := by
  unfold Records
  refine ⟨?_, ?_, ?_, ?_⟩ <;> decide +kernel

/-! ### Hank, channels and sessions -/

/-- A message to and from this device, which is a member of its fabric. -/
def msg0 (kind chan : Nat) (data : List Byte) : Msg :=
  { kind := BitVec.ofNat 4 kind, sealed := false, sv := false, reason := 0, chan := BitVec.ofNat 16 chan, dst := up.devId, src := up.devId, stamp := 0, epoch := 0,
    len := BitVec.ofNat 17 data.length, xid := 9, hops := 0, keyid := 0, nonce := 0, tag := 0, data := data, marks := [] }
def m64 : Msg := msg0 1 7 (List.replicate 64 5)
/-- The channel of `chan0`, holding one message; empty; and with a GET that waits. -/
def chS : State := chanS up
def chE : State := setChan chS 7 (some { chan0 with tail := 0 })
def chG : State := setChan chS 7 (some { chan0 with tail := 0, waits := [.get (msg0 2 7 []) 0] })
/-- The run of queue 0 that awaits the reply to its GET. -/
def chR : State :=
  let s := (slRun { getDesc with src := 2 ^ 56 + 7 }).updSlq 0 0 (fun x => { x with phase := 1, xid := some 9 })
  (s.setReg (R.GCTL_MEMBER 0) 1).updFab (fun f => { f with reqs := [⟨9, .sluice 0 0, up.devId, 0, 0⟩] })
/-- The run of queue 0 whose PUT awaits its ACK. -/
def flight0 : Flight := { run := 0, xid := 9, bytes := [] }
def chP : State := chR.updSlq 0 0 (fun x => { x with phase := 0, xid := none, flights := [flight0] })
theorem witness_ChannelMessages :
    (chS.stopped = false ∧ m64.dst = chS.devId ∧ m64.sealed = false) ∧
    (refusal up m64 false = some 7 ∧ refusal (setChan chS 7 none) m64 true = some 1 ∧ refusal (setChan chS 7 (some { chan0 with tail := 4 })) m64 false = some 2) ∧
    (chanOf chS m64.chan = some chan0 ∧ refusal chS m64 false = none ∧ refusal chS (msg0 2 7 []) true = none ∧ chan0.waits = [] ∧ (msg0 2 7 []).src = chS.devId) ∧
    (refusal chE (msg0 2 7 []) true = none ∧ chanOf chE 7 = some { chan0 with tail := 0 }) ∧ (takeHead chS 7).2.isSome = true ∧
    (chanOf chG 7 = some { chan0 with tail := 0, waits := [.get (msg0 2 7 []) 0] } ∧
      ({ chan0 with tail := 0, waits := [.get (msg0 2 7 []) 0] } : Chan).gets = (msg0 2 7 [], 0) :: [] ∧ (msg0 2 7 []).kind = 2) ∧
    (chR.fab.reqs.find? (fun r => decide (r.xid = 9)) = some ⟨9, .sluice 0 0, up.devId, 0, 0⟩ ∧ awaits chR 0 0 9 = true ∧ (chR.slq 0 0).desc = some getDesc ∧
      (chR.slq 0 0).stop = none ∧ (chR.slq 0 0).flights = [] ∧ getDesc.alive ≠ 2 ∧ qEn chR 0 0 = true ∧ ringOk chR (qWorld chR 0 0) (wbSlot chR 0 0) 32 = true ∧
      m64.xid = 9 ∧ m64.dst = chR.devId ∧ epochOk chR m64 = true ∧ (markedData m64).length = getDesc.cnt.1) ∧
    (awaits chP 0 0 9 = false ∧ (chP.slq 0 0).flights = flight0 :: [] ∧ flight0.xid = 9 ∧ flight0.acked = false ∧ flight0.failed = false) := by
  refine ⟨?_, ?_, ?_, ?_, ?_, ?_, ?_, ?_⟩ <;> decide +kernel
theorem witness_ChannelCommands :
    (up.stopped = false ∧ reaches up .mc R.GCTL_CHCMD = true ∧ chanOf up 65535 = none) ∧
    (let x : Chan := { chan0 with world := true }
     chanOf (setChan chS 7 (some x)) 7 = some x ∧ x.world = true ∧ sealedSup (setChan chS 7 (some x)) .mc = false) ∧
    (chanOf chS 7 = some chan0 ∧ chan0.world = false ∧ chan0.waits = [] ∧ (chan0.tail - chan0.head).toNat = 1) ∧
    (let s := up.setFld R.GCTL_CHTAB F.GCTL_CHTAB_ADDR (panA / 2 ^ 21)
     (ofLe ((memRead (chanWritten s 7 1 0) .mc 0 (chanTable s false + 32 * 7) 32).2.map (·.1))).testBit 0 = false) := by
  refine ⟨?_, ?_, ?_, ?_⟩ <;> decide +kernel

/-- Port 3 UP and alive; the pair 4 and 5 UP, alive and bonded; port 6 in training. -/
def hkS : State :=
  (((((((up.setFld (R.HANK_STAT 3) F.HANK_STAT_STATE PS.UP).updLink 3 (fun y => { y with alive := true })).setFld (R.HANK_STAT 4) F.HANK_STAT_STATE PS.UP).updLink 4
    (fun y => { y with alive := true })).setFld (R.HANK_STAT 5) F.HANK_STAT_STATE PS.UP).updLink 5 (fun y => { y with alive := true })).setFlag (R.HANK_STAT 4)
    F.HANK_STAT_BONDED true).setFld (R.HANK_STAT 6) F.HANK_STAT_STATE PS.TRAINING
/-- A flit that holds the whole of `m64`, and the same with its last bit changed. -/
def flit0 : List Byte := flitBytes 2 0 true true false false false 0 0 0 0 (msgHeader m64 ++ m64.data)
def flit1 : List Byte := flit0.set 255 (flit0.getD 255 0 ^^^ 0x80)
def hkU : State := hkS.updLink 3 (fun y => { y with unacked := [(0, { stretch := false, vl := 0, start := true, fin := true, abt := false, dfd := false, payload := [] })] })
theorem witness_LinksAndPorts :
    (hkS.stopped = false ∧ carries hkS 3 = true ∧ bonded hkS 3 = false ∧ (hkS.link 3).unacked = [] ∧ fecGood hkS 3 (.first (some 0)) = true ∧ fecGood hkS 3 (.first none) = false ∧ fecGood (hkS.updFab (fun f => { f with pairs := f.pairs.set 3 { (hkS.pairing 3) with rxGood := true } })) 3 .later = true ∧
      hkS.fab.waiting = [] ∧ (hkS.link 3).early = [] ∧ (hkS.link 3).used.toList.getD 0 0 < laneRoom 0 ∧ ((hkS.updLink 3 (fun y => { y with nak := true })).link (linkAt hkS 3)).nak = true) ∧
    crc32 (flit1.take 252) ≠ ofLe (flit1.drop 252) ∧
    (flit0.length = 256 ∧ crc32 (flit0.take 252) = ofLe (flit0.drop 252) ∧ (let h := ofLe (flit0.take 8)
      h < 2 ^ 48 ∧ h % 8 = 2 ∧ h / 8 % 4 < 3 ∧ h.testBit 9 = false ∧ h / 2 ^ 10 % 4096 = (hkS.link (linkAt hkS 3)).expect ∧ h.testBit 5 = true ∧ h.testBit 6 = true ∧
        h.testBit 7 = false ∧ readMsg [((flit0.drop 8).take 244, h.testBit 8)] = some m64)) ∧
    (carries hkU 3 = true ∧ (hkU.link 3).unacked ≠ [] ∧ (hkU.link 3).replays < hkU.fld (R.HANK_RETRY 3) F.HANK_RETRY_RETRYMAX ∧
      hkU.fld (R.HANK_RETRY 3) F.HANK_RETRY_RETRYMAX ≤ ((hkU.updLink 3 (fun y => { y with replays := 4095 })).link 3).replays) ∧
    (carries hkS 4 = true ∧ bonded hkS 4 = true ∧ carries hkS (mate 4) = true) ∧ answers hkS (R.HANK_CTRL 15) = true ∧ portState hkS 6 = PS.TRAINING := by
  refine ⟨?_, ?_, ?_, ?_, ?_, ?_, ?_⟩ <;> decide +kernel

/-- The schedule is on, with a ring in the pan, and the session records begin at 0x100000 of it. -/
def seS : State :=
  (((up.setFlag R.SESS_SCHCFG F.SESS_SCHCFG_EN true).setFld R.SESS_SCHCFG F.SESS_SCHCFG_SIZE 4).setReg R.SESS_OVBASE (BitVec.ofNat 64 (panA + 0x100000))).setFld
    R.SESS_SCHTAIL F.SESS_SCHTAIL_INDEX 9
/-- The same while beats run, and while a move is in progress. -/
def seR : State := { seS.setFlag R.BEAT_CTRL F.BEAT_CTRL_RUN true with beat := { seS.beat with scheduled := true } }
def seB : State := { seS.setFlag R.SESS_CMD F.SESS_CMD_BUSY true with sess := { seS.sess with busyUntil := some 5 } }
theorem witness_Sessions :
    (seR.stopped = false ∧ seR.running = true ∧ seR.beat.scheduled = true ∧ 8 < (schTail seR + 2 ^ 32 - schHead seR) % 2 ^ 32) ∧
    (sessBusy seB = true ∧ sessBusy seS = false) ∧
    (seS.stopped = false ∧ seS.running = false ∧ 8 < (schTail seS + 2 ^ 32 - schHead seS) % 2 ^ 32) ∧ reaches seS .mc R.SESS_SCHTAIL = true ∧ reaches seS .mc R.SESS_LDONE = true ∧
    reaches seS .mc R.SESS_CMD = true ∧ (3071 < (3072 : BitVec 12).toNat ∧ (3071 : BitVec 12).toNat ≤ 3071) ∧
    (bitsNat (ofLe (peekBytes seS (Config.sessBase + 128 * 3071) 8)) 18 16 = 0 ∧ recordOk seS (sessRecord seS 65535) .store = true) ∧
    bitsNat (ofLe (peekBytes (storeBytes seS Config.sessBase (leBytes 8 0x10000)) Config.sessBase 8)) 18 16 ≠ 0 := by
  refine ⟨?_, ?_, ?_, ?_, ?_, ?_, ?_, ?_, ?_⟩ <;> decide +kernel

/-! ### The beat -/

/-- Beats run: beat 4's edge is at time 1,000,000, and the beat's work is done or not; a bank is armed for the next edge. -/
def btS (done : Bool) : State :=
  let s := (((up.setFlag R.BEAT_CTRL F.BEAT_CTRL_RUN true).setReg R.BEAT_NEXT 1000000).setReg R.BEAT_NUMBER 3).setFlag R.BEAT_STAT F.BEAT_STAT_DONE done
  { s with beat := { s.beat with scheduled := true, fresh := false, quanta := 4, armed := true, armTarget := 0, armedBank := [(R.BEAT_PERIOD, some 500000)] } }
/-- Thread 0 takes part: it has parked with its work done in one, and is still running in the other. -/
def btP : State := ((btS true).setReg R.BEAT_TDONE 1).updThr 0 (fun x => { x with run := .parked })
def btL : State := ((btS false).setFlag (R.BEAT_TENTRY 0) F.BEAT_TENTRY_EN true).updThr 0 (fun x => { x with run := .running })
theorem witness_BeatEdge :
    (btP.stopped = false ∧ btP.running = true ∧ btP.beat.scheduled = true ∧ btP.beat.slip = none ∧ btP.beat.quanta ≤ 4 ∧ btP.flag R.BEAT_STAT F.BEAT_STAT_DONE = true ∧
      btP.beat.failNow = false ∧ (btP.thr 0).run = .parked ∧ (btP.thr 0).tx = none ∧ bit (btP.reg R.BEAT_TDONE) 0 = true ∧ btP.beat.armed = true ∧ btP.beat.armSkip = false) ∧
    (btL.stopped = false ∧ btL.running = true ∧ btL.beat.scheduled = true ∧ btL.beat.fresh = false ∧ btL.flag R.BEAT_STAT F.BEAT_STAT_DONE = false ∧
      btL.flag (R.BEAT_TENTRY 0) F.BEAT_TENTRY_EN = true ∧ bit (btL.reg R.BEAT_TDONE) 0 = false) := by decide +kernel

/-- The root with beats running; a device whose parent is on port 3, which is UP; stopped beats, with a schedule that its rules allow and with one that they
do not (a guard at its own decision). -/
def bsR : State := { btS false with beat := { (btS false).beat with quanta := 0, armed := false, armedBank := [] } }
def bsC : State := ((bsR.setFld R.BEAT_CTRL F.BEAT_CTRL_SRC 2).setFld R.BEAT_CTRL F.BEAT_CTRL_SRCPORT 3).setFld (R.HANK_STAT 3) F.HANK_STAT_STATE PS.UP
def bsN : State := up.setFld R.BEAT_GUARD F.BEAT_GUARD_DECIDE ((up.fld R.BEAT_GUARD F.BEAT_GUARD_GUARD))
def marker0 : Marker :=
  { txTime := 0, number := bsC.beatNo, next := 1010000, echoRx := 0, echoSeq := 0, seq := 1, srcId := 5, stratum := 3, edge := false, grant := true, holdover := false }
theorem witness_BeatSchedule :
    (bsR.stopped = false ∧ bsR.running = true ∧ bsR.beat.scheduled = true ∧ bsR.fld R.BEAT_CTRL F.BEAT_CTRL_SRC ≠ 2) ∧
    (portLive (bsR.setFld (R.HANK_STAT 3) F.HANK_STAT_STATE PS.UP) 3 = true ∧ (4095 : BitVec 16).toNat ≤ 4095) ∧
    (bsR.beat.fresh = false ∧ bsR.beat.held = none ∧ bsR.flag R.BEAT_STAT F.BEAT_STAT_DONE = false ∧ bsR.flag R.BEAT_CTRL F.BEAT_CTRL_POLICY = false ∧
      (elapseTo bsR bsR.beat.guardAt).now.toNat ≤ (bsR.reg R.BEAT_NEXT).toNat - bsR.fld R.BEAT_GUARD F.BEAT_GUARD_DECIDE) ∧
    (up.running = false ∧ failOf (stretchFails up.reg ++ overlapFails up.reg) = none) ∧
    (bsN.running = false ∧ failOf (stretchFails bsN.reg ++ overlapFails bsN.reg) = some (R.BEAT_GUARD, 3)) ∧
    ({ bsC with beat := { bsC.beat with awaitParent := true } }.beat.awaitParent = true ∧ measure { bsC with beat := { bsC.beat with awaitParent := true } } 3 marker0 0 = none ∧
      marker0.txTime.toNat < 8 * marker0.next.toNat ∧ (let s := bsC.setReg R.BEAT_TIMEBASE 999950; measure s 3 marker0 0 = none ∧ (s.reg R.BEAT_NEXT).toNat - 100 < s.now.toNat)) ∧
    (bsC.fld R.BEAT_CTRL F.BEAT_CTRL_SRC = 2 ∧ portLive bsC 3 = true ∧ samePort bsC (parentPort bsC) 3 = true ∧ measure bsC 3 marker0 0 = none ∧ bsC.running = true ∧
      bsC.beat.awaitParent = false ∧ marker0.number = bsC.beatNo ∧ bsC.now.toNat ≤ (bsC.reg R.BEAT_NEXT).toNat - 100) ∧
    (tooSoon bsR 0 = false ∧ tooSoon { bsR with beat := { bsR.beat with binAt := some 1 } } 80000 = true ∧
      tooSoon { bsR with beat := { bsR.beat with binAt := some 1 } } 80001 = false) := by
  refine ⟨?_, ?_, ?_, ?_, ?_, ?_, ?_, ?_⟩ <;> decide +kernel
theorem witness_RegisterWrites :
    (up.dead = false ∧ reaches up .host R.SESS_OVBASE = true ∧ reaches up .mc (R.SLUICE_ISTAT 15) = true) ∧
    ((R.BEAT_PERIOD + 4) % 8 ≠ 0 ∧ answersTo State.reset .host 0 = false ∧ mayCtl (run0.updThr 0 (fun x => { x with level := false })) (.thread 0) = false) ∧
    (reaches up .mc R.BEAT_PERIOD = true ∧ up.running = false ∧ reaches bsR .mc R.BEAT_PERIOD = true ∧ bsR.running = true) ∧
    (up.stopped = false ∧ reaches up .mc (R.FQ_TDOOR 47) = true ∧ reaches runS (.thread 0) (R.FQ_TDOOR 0) = true ∧ sealedSup runS (.thread 0) = true) ∧ reaches up .mc (R.FQ_TROUTE 255) = true := by
  refine ⟨?_, ?_, ?_, ?_, ?_⟩ <;> decide +kernel
/-- An empty bank is legal; one with a PERIOD of 0 is not. -/
theorem witness_CommitBanks :
    up.stopped = false ∧ up.beat.armed = false ∧ (btS true).stopped = false ∧ (btS true).beat.armed = true ∧
      failOf (stretchFails (underBank up up.beat.openBank) ++ overlapFails (underBank up up.beat.openBank)) = none ∧
      (match failOf (regFails up R.BEAT_PERIOD 0) with | some (off, reason) => decide (off < 2 ^ 26 ∧ reason < 16) | none => false) = true := by
  decide +kernel

/-! ### The Reel -/

/-- An all-reduce of 128 FP32 elements over a ring of two, this device and device 5, with every area in the pan; wire format `w`. -/
def rdBytes (tag elems w : Nat) : List Byte :=
  leBytes 8 (77 + w * 2 ^ 39 + 2 ^ 44 + tag * 2 ^ 48) ++ leBytes 8 (elems + 2 ^ 40) ++ leBytes 8 (2 + 2 ^ 35 + 2 ^ 36) ++ leBytes 8 (panA + 0x100) ++ leBytes 8 (panA + 0x200) ++
    leBytes 8 512 ++ leBytes 8 (panA + 0x400) ++ leBytes 8 512 ++ leBytes 8 (panA + 0x800) ++ leBytes 8 4096 ++ leBytes 8 (panA + 0x2000) ++ leBytes 8 (1000 * 2 ^ 32) ++
    leBytes 8 0 ++ leBytes 8 (panA + 0x600) ++ List.replicate 16 0
def rd (w : Nat) : RDesc := parseReel (rdBytes 0 128 w)
def rlUp (tag elems : Nat) : State :=
  ((storeBytes (storeBytes up panA (rdBytes tag elems 0)) (panA + 0x104) (leBytes 4 5)).setReg (R.REEL_SDESC 0) (BitVec.ofNat 64 panA)).setReg (R.GCTL_MEMBER 0) 0x21
/-- Slot 0 runs the collective as rank 0; nothing has come or gone but that hop 0 was asked of the backup of rank 1 in `rlA`. -/
def rlR (w : Nat) (bk : Option Nat) : State :=
  ((rlUp 0 128).setFld (R.REEL_SSTAT 0) F.REEL_SSTAT_STATE 2).setRslot 0
    { desc := some (rd w), group := [⟨0, none⟩, ⟨5, bk⟩], phash := 0x1234, roles := [{ rank := 0, sent := [(segKey 0 1 0, some (256, none))] }] }
def rlA : State := (rlR 0 (some 6)).updRslot 0 (fun x => { x with asked := [(65536, true)] })

theorem witness_ReelSlotsAndDeadlines :
    (up.stopped = false ∧ reaches up .mc (R.REEL_SCTL 63) = true ∧ slotState up 63 = 0 ∧
      (let s := up.setReg (R.REEL_SDESC 63) (BitVec.ofNat 64 Config.ctlBase); inOneArea (s.reg (R.REEL_SDESC 63)).toNat 128 = false)) ∧
    (let s := rlUp 1 128
     let z := (memRead (reelGoes s 0) .reel 0 panA 128)
     slotState s 0 = 0 ∧ inOneArea (s.reg (R.REEL_SDESC 0)).toNat 128 = true ∧ windowRight (reelGoes s 0) (slotWorld s 0) true .load panA 128 = true ∧
      z.2.map (·.1) = rdBytes 1 128 0 ∧ (reelCheck z.1 0 (rdBytes 1 128 0) (parseReel (rdBytes 1 128 0))).1 = none ∧ (parseReel (rdBytes 1 128 0)).tag = 1 ∧
      0 < tagDist s 1 ∧ tagDist s 0xFFFE < 0) ∧
    (let s := rlUp 0 0
     let z := (memRead (reelGoes s 0) .reel 0 panA 128)
     z.2.map (·.1) = rdBytes 0 0 0 ∧ (reelCheck z.1 0 (rdBytes 0 0 0) (parseReel (rdBytes 0 0 0))).1 = some RS.OK_EMPTY) ∧
    (slotBusy up 0 = false ∧ slotBusy (rlR 0 none) 0 = true ∧ slotState (rlR 0 none) 0 ≠ 0) ∧
    (let s := rlR 0 none
     (s.rslot 0).desc = some (rd 0) ∧ live s 0 = true ∧ 0 < (rd 0).dlhop ∧
      (s.rslot 0).roles.any (fun y => (owed (rd 0) y).any (fun g => decide (g.dst = 1)) && decide (SMap.get 0 (s.rslot 0).grants (y.rank * 4096 + 1) = 0)) = true ∧
      SMap.get 0 (s.rslot 0).acts 1 = 0 ∧ (sendersTo (rd 0) 0).filter (fun p => lacks (rd 0) { rank := 0 } p 0) = [1] ∧
      SMap.get false (s.rslot 0).asked (1 * 65536 + 0) = false) ∧
    ((rlA.rslot 0).copies = [] ∧ 0 < (rd 0).dlhop ∧ SMap.get false (rlA.rslot 0).asked (1 * 65536 + 0) = true ∧ SMap.get false (rlA.rslot 0).heard 1 = false ∧ live rlA 0 = true) ∧
    (let s := (rlR 0 none).setFld (R.REEL_SSTAT 0) F.REEL_SSTAT_STATE 1
     (s.rslot 0).desc = some (rd 0) ∧ live s 0 = false) ∧ ({ rd 0 with dlhop := 0 } : RDesc).dlhop = 0 := by
  refine ⟨?_, ?_, ?_, ?_, ?_, ?_, ?_, ?_⟩ <;> decide +kernel

/-- Messages of device 5, rank 1, for that collective: a header and a payload. -/
def rh (t hop role seg : Nat) : RHdr := { rtype := t, phash := 0x1234, cid := 77, hop := hop, role := role, seg := seg }
def rm (h : RHdr) (payload : List Byte) : Msg := { msg0 6 0 (packHdr h ++ payload) with src := 5 }
def reelOk (s : State) (t : Nat) (h : RHdr) (payload : List Byte) : Bool :=
  let m := rm h payload
  decide (m.dst = s.devId ∧ m.sealed = false ∧ epochOk s m = true ∧ 32 ≤ m.data.length ∧ parseHdr (reelTyped m t).data = h)
theorem witness_ReelMessages :
    (let s := rlR 0 none
     s.stopped = false ∧ (∀ t : Fin 9, t ≠ 0 → reelOk s t.val (rh t.val 0 1 0) [] = true) ∧ slotFor s (rm (rh 7 0 1 0) []) (rh 7 0 1 0) = some 0 ∧
      slotFor up (rm (rh 7 0 1 0) []) (rh 7 0 1 0) = none ∧ ({ rh 1 0 1 0 with phash := 0 } : RHdr).phash ≠ (s.rslot 0).phash ∧
      (rh 1 0 1 0).phash = (s.rslot 0).phash ∧
      (s.setFlag R.REEL_CTRL F.REEL_CTRL_DIGEN false).flag R.REEL_CTRL F.REEL_CTRL_DIGEN = false) ∧
    (let s := rlR 0 none
     (s.rslot 0).own.rank = 0 ∧ reelOk s 5 (rh 5 0 0 0) [] = true ∧ live s 0 = true ∧ (segsOut (rd 0) 0).any (fun g => decide (g.dst = 1)) = true) ∧
    (let g : RSeg := { hop := 0, src := 1, dst := 0, idx := 0, lo := 0, n := 1, ph := .reduce }
     (segsOut (rd 0) 1).filter (fun g => decide (g.hop = 0) && decide (g.idx = 0) && (false == decide (g.ph = .preReduce ∨ g.ph = .preGather))) = [g] ∧
      reelOk (rlR 0 none) 2 (rh 2 0 1 0) (List.replicate 256 0) = true ∧
      payloadOk (rd 0) g.ph g.lo g.n ((markedData (rm (rh 2 0 1 0) (List.replicate 256 0))).drop 32) = true) ∧
    (let g : RSeg := { hop := 0, src := 1, dst := 0, idx := 0, lo := 0, n := 1, ph := .preReduce }
     (segsOut (rd 3) 1).filter (fun g => decide (g.hop = 0) && decide (g.idx = 0) && (true == decide (g.ph = .preReduce ∨ g.ph = .preGather))) = [g] ∧
      reelOk (rlR 3 none) 3 (rh 3 0 1 0) [7] = true ∧ payloadOk (rd 3) g.ph g.lo g.n ((markedData (rm (rh 3 0 1 0) [7])).drop 32) = true) ∧
    (let s := rlR 0 none
     devOf (s.rslot 0).group 1 = (rm (rh 4 0 1 0) []).src.toNat ∧ (rd 0).shv = true ∧ (rd 0).shrank = 1 ∧
      (ownSegs (rd 0) 1).find? (fun p => decide (p.1 = 0)) = some (0, 1) ∧ (readShadow s (rd 0) 1 0 1).isSome = true) ∧
    (let s := rlR 0 none
     reelOk s 8 (rh 8 0 1 0) [] = true ∧ (rh 8 0 1 0).role ≠ (s.rslot 0).own.rank ∧ reelOk s 8 (rh 8 0 0 0) [] = true ∧ (rd 0).retain = true ∧ areaOut s ((rd 0).raddr + retainAt (rd 0) 0 0 0) 256 = false ∧
      (s.rslot 0).own.sent.find? (fun e => decide (e.1 / 2 ^ 32 / 4096 = 0) && decide (e.1 % 2 ^ 32 = 0)) = some (segKey 0 1 0, some (256, none))) := by
  refine ⟨?_, ?_, ?_, ?_, ?_, ?_⟩ <;> decide +kernel

/-! ### Start, host and mailbox -/

/-- Powered, with PERST_L asserted; without power; in SELFTEST. -/
def pon : State := { State.reset with power := { State.reset.power with powered := true, perst := true } }
def off0 : State := { State.reset with power := { State.reset.power with powered := false, perst := true } }
def stS : State := up.setFld R.MBOX_STATE F.MBOX_STATE_STATE 2
theorem no_image (s : State) (k : Nat) (h : s.flash.img.toList.getD (k % 2) [] = []) (i : Image) : slotImage s k ≠ .ok i := by
  unfold slotImage verifyImage
  rw [h]
  simp only [List.length_nil, List.take_nil]
  split <;> simp
/-- No image in flash, and none sent; the hypotheses about an image that verifies rest on signatures, which no state decides. -/
theorem witness_StartOfDevice :
    (off0.power.powered = false ∧ off0.power.perst = true) ∧ up.power.powered = true ∧ (up.power.perst = false ∧ up.dead = false) ∧
    (pon.power.perst = true ∧ pon.dead = false ∧ pon.boot.started = false ∧ pon.fld R.GCTL_STRAPS F.GCTL_STRAPS_BOOT_SEL ≠ 2 ∧
      ∀ k i, k < 2 → slotImage (putImage (putImage pon 0 []) 1 []) k ≠ .ok i) ∧
    (stS.dead = false ∧ stS.fld R.MBOX_STATE F.MBOX_STATE_STATE = 2 ∧ stS.flash.log = [] ∧ (0 : BitVec 24).getLsbD 23 = false) ∧
    (up.dead = false ∧ 1 ≤ (6 : BitVec 3).toNat ∧ (6 : BitVec 3).toNat ≤ 6 ∧ (16 : BitVec 5).toNat ∈ [1, 2, 4, 8, 16]) := by
  refine ⟨?_, ?_, ?_, ⟨?_, ?_, ?_, ?_, ?_⟩, ?_, ?_⟩
  case refine_8 =>
    intro k i hk
    have h : ∀ k : Fin 2, (putImage (putImage pon 0 []) 1 []).flash.img.toList.getD (k.val % 2) [] = [] := by decide +kernel
    exact no_image _ _ (h ⟨k, hk⟩) i
  all_goals decide +kernel
/-- BAR2 reads of the pan through its place in the host's view, where the window's base selects it; past the pans, nothing is mapped. -/
def hvS : State := { (up.setFld R.GCTL_BAR2WIN F.GCTL_BAR2WIN_BASE (0x1F000000000 / 2 ^ 28)) with host := { up.host with msixEn := true, bme := true, barLog2 := 28 } }
theorem witness_HostRequests :
    (hvS.dead = false ∧ hvS.host.msixEn = true ∧ hvS.host.bme = true ∧ hvS.host.funcMask = false ∧ hvS.host.d3hot = false) ∧
    (hvS.power.perst = false ∧ Config.ctlBytes - 8 < Config.ctlBytes ∧ (Config.ctlBytes - 8) % 8 = 0 ∧ (Config.ctlBytes - 4) % 8 ≠ 0) ∧
    (hvS.stopped = false ∧ 2 ^ 28 - 64 + 64 ≤ 2 ^ hvS.host.barLog2 ∧
      (match bar2Route hvS (hostView hvS (2 ^ 28 - 64)) 64 with | .ok a => decide (windowOf a ≠ .tstore ∧ anyRowBusy hvS a 64 = false ∧ anyWriteBusy hvS a 64 = false) | .error _ => false) = true) ∧
    (let s := hvS.setFld R.GCTL_BAR2WIN F.GCTL_BAR2WIN_BASE (0x1FF00000000 / 2 ^ 28)
     (match bar2Route s (hostView s 0) 1 with | .error k => decide (k = 0) | .ok _ => false) = true) := by
  refine ⟨?_, ?_, ?_, ?_⟩ <;> decide +kernel

/-- The command of the given words is at work in READY; the areas lie in the pan. -/
def mbS (ws : List Nat) : State :=
  { (up.setFld R.MBOX_STATE F.MBOX_STATE_STATE 4) with box := { active := true, cmd := (ws ++ List.replicate (32 - ws.length) 0).flatMap (leBytes 8), seq := 3, result := none } }
theorem witness_MailboxCommands :
    (mcUp up = true ∧ up.dead = false ∧ (stS.setFld R.MBOX_STATE F.MBOX_STATE_STATE 3).fld R.MBOX_STATE F.MBOX_STATE_STATE = 3 ∧
      (stS.setFld R.MBOX_STATE F.MBOX_STATE_STATE 1).fld R.MBOX_STATE F.MBOX_STATE_STATE = 1) ∧
    ((mbS [1]).stopped = false ∧ working (mbS [1]) 1 = true ∧ working (mbS [2, panA, 256, 0]) 2 = true ∧ working (mbS [3, panA, panA + 64, 64]) 3 = true ∧
      working (mbS [4, panA, 64, 7]) 4 = true ∧ working (mbS [5, panA, 64, 32]) 5 = true ∧ working (mbS [7, 0]) 7 = true ∧ working (mbS [0x10, 0, 8, 0]) 0x10 = true) ∧
    (let s := mbS [6, 0x11, 2 ^ 32 + 1, 1, panA, panA + 64, panA + 128]
     working s 6 = true ∧ (gemmOf s).isSome = true) ∧
    (let s := { mbS [1] with box := { (mbS [1]).box with result := some (BX.OK, [1, 2]) } }
     s.box.active = true ∧ mcUp s = true ∧ s.box.result = some (BX.OK, [1, 2]) ∧ BX.OK < 256) ∧
    (up.box.active && up.box.result.isNone && mcUp up) = false ∧ ((mbS [4, panA, 64, 7]).box.active && (mbS [4, panA, 64, 7]).box.result.isNone && mcUp (mbS [4, panA, 64, 7])) = true := by
  refine ⟨?_, ?_, ?_, ?_, ?_, ?_⟩ <;> decide +kernel

/-! ### Security -/

theorem no_magic (s : State) (ty : Nat) (b : List Byte) (h : bytesAt (b.take 512) 0 4 ≠ 0x4B414D49) : verifyImage s ty b = .auth := by
  unfold verifyImage
  simp only [h, decide_false, Bool.and_false, Bool.false_and, Bool.not_false, if_true]
  split <;> rfl
/-- SEC.CMDADDR at address 0 of HBM in service, which holds zeros. A Sealed supervisor with a staged region of 2 MiB; a Sealed world that runs with that region
applied, with pan 3, and with its keys open to the responder. -/
def scS : State := runS.setReg (R.SEC_SREGION 0) (putF 0 F.SEC_SREGION_LIMIT 1)
def scR : State :=
  ((setRegions (scS.setFld R.SEC_STAT F.SEC_STAT_SEALED 2) 0 (putF (putF 0 F.SEC_SREGION_LIMIT 1) F.SEC_SREGION_EN 1) 0).setReg R.SEC_SPAN 8).setFlag R.SEC_FCTL F.SEC_FCTL_EXTKEY true
theorem witness_SealedWorld :
    (mcUp hbm0 = true ∧ mayCtl hbm0 .mc = true ∧ sealedState hbm0 = 0 ∧ debugOpen hbm0 = false ∧ (47 : Byte).toNat < 48 ∧ (hbm0.thr (thrNo 47)).run = .halted ∧
      (hbm0.thr (thrNo 47)).world = false) ∧
    verifyImage hbm0 2 (List.replicate 512 0) = .auth ∧ sealedState scR = 2 ∧ debugOpen (up.setFlag R.SEC_STAT F.SEC_STAT_DEBUG true) = true ∧ (run0.thr (thrNo 0)).run ≠ .halted ∧
    (mcUp scS = true ∧ mayCtl scS (.thread 0) = true ∧ sealedSup scS (.thread 0) = true ∧ regionBase (scS.reg (R.SEC_SREGION 0)) < regionLimit (scS.reg (R.SEC_SREGION 0)) ∧
      regionLimit (scS.reg (R.SEC_SREGION 0)) ≤ Config.hbmBytes ∧ ∀ j : Fin 8, getF (scS.sregion j.val) F.SEC_SREGION_EN = 0) ∧
    (sealedSup scR (.thread 0) = true ∧ getF (scR.sregion 0) F.SEC_SREGION_EN ≠ 0 ∧ bit (scR.reg R.SEC_SPAN) 3 = true) ∧ sealedSup scS .mc = false ∧
    (up.sec.fw.map (·.svn) = none ∧ (scS.reg R.SEC_CMDADDR).toNat % 128 = scS.flash.arctr.toList.getD 63 0 ∧ (63 : Byte).toNat < 64) := by
  refine ⟨?_, no_magic _ _ _ ?_, ?_, ?_, ?_, ?_, ?_, ?_, ?_⟩ <;> decide +kernel
/-- The header and the empty body of the image at address 0, in a device whose other registers are zero. -/
def scH : State := (({ up with regs := [] } : State).setFld (R.MEM_STAT 0) F.MEM_STAT_STATE 1).setFld (R.MEM_STAT (globalPlace 256).stack) F.MEM_STAT_STATE 1
theorem witness_SealedWorld_image :
    let r := memRead (secFields scH 1 47) .mc 0 (scH.reg R.SEC_CMDADDR).toNat 512
    mcUp scH = true ∧ mayCtl scH .host = true ∧ (scH.reg R.SEC_CMDADDR).toNat = 0 ∧ r.2.map (·.1) = List.replicate 512 0 ∧ bytesAt (List.replicate 512 0) 0x018 8 = 0 := by
  decide +kernel
/-- The hypothesis that a signature verifies is one no state decides. -/
theorem witness_KeysAndAttestation :
    (mcUp scS = true ∧ reaches scS (.thread 0) (R.SEC_TKEY_KEY 15 3) = true ∧ reaches scS .mc (R.SEC_TKEY_KEY 15 3) = false) ∧
    (sealedState scR = 2 ∧ scR.flag R.SEC_FCTL F.SEC_FCTL_EXTKEY = true ∧ (15 : Byte).toNat < 16 ∧ (1 : Byte).toNat < 2 ∧ ¬(2 : Byte).toNat < 2) ∧
    ({ up with flash := { up.flash with lifecycle := 2 } } : State).flash.lifecycle ≠ 1 := by
  decide +kernel

/-! ### Reliability, power and temperature -/

/-- Entry `i` of a merge table, with key `i`. -/
def mrg (i : Nat) : Merge := ⟨BitVec.ofNat 64 i, 1, 7, false, 0, 0, 0, 0, 1, 1, true, 0⟩
/-- A table with entry 0 alone, and one with all 256. -/
def fmS : State := { up with mc := { up.mc with table := [(0, some (mrg 0))] } }
def fmF : State := { up with mc := { up.mc with table := (List.range 256).map (fun i => (i, some (mrg i))) } }
/-- A report of key 0, and one of a key that no table above holds. -/
def rep0 : Report := ⟨0, 0, 0, 0, 0, 1, false, 7, 0, 0⟩
def rep1 : Report := { rep0 with kind := 13 }
theorem fmF_get : ∀ e : Fin 256, mergeAt fmF e.val = some (mrg e.val) := by decide +kernel
theorem fmF_none (e : Nat) (h : 256 ≤ e) : mergeAt fmF e = none := by
  have hg : ∀ l : SMap (Option Merge), (∀ x ∈ l, x.1 < 256) → SMap.get none l e = none := by
    intro l
    induction l with
    | nil => intro _; rfl
    | cons a l ih =>
      intro hl
      have ha := hl a (by simp)
      simp only [SMap.get]
      rw [if_neg (by omega)]
      exact ih (fun x hx => hl x (by simp [hx]))
  refine hg _ (fun x hx => ?_)
  simp only [fmF, List.mem_map, List.mem_range] at hx
  obtain ⟨i, hi, rfl⟩ := hx
  exact hi
theorem keys_fmF : ∀ i j m n, mergeAt fmF i = some m → mergeAt fmF j = some n → m.key = n.key → i = j := by
  intro i j m n hi hj hk
  by_cases h1 : i < 256
  · by_cases h2 : j < 256
    · rw [fmF_get ⟨i, h1⟩] at hi
      rw [fmF_get ⟨j, h2⟩] at hj
      cases hi
      cases hj
      have := congrArg BitVec.toNat hk
      simp only [mrg, BitVec.toNat_ofNat] at this
      omega
    · rw [fmF_none j (by omega)] at hj
      cases hj
  · rw [fmF_none i (by omega)] at hi
    cases hi
theorem witness_FaultMerging :
    (up.dead = false ∧ mcUp up = true ∧ SMap.wf none fmF.mc.table = true ∧ SMap.wf none up.mc.table = true) ∧
    (∀ i j m n, mergeAt fmF i = some m → mergeAt fmF j = some n → m.key = n.key → i = j) ∧
    (mergeAt fmF 0 = some (mrg 0) ∧ (mrg 0).key = reportKey rep0) ∧ (∀ e m, mergeAt fmF e = some m → m.key ≠ reportKey rep1) ∧
    (∀ e, e < 256 → mergeAt fmF e ≠ none) ∧ (∀ e m, mergeAt up e = some m → m.key ≠ reportKey rep0) ∧ mergeAt up 0 = none ∧
    (up.mc.waiting = [] ∧ errRoom up = false ∧ errRoom (up.setFlag R.MC_ERRCFG F.MC_ERRCFG_EN true) = true) ∧
    (reaches up .mc R.MC_FMFREE = true ∧ reaches up .mc R.MC_ERRHEAD = true ∧ (mrg 255).delivered = true ∧ recordOut fmF 255 = true ∧
      errUsed up < ((1 : BitVec 32).toNat + 2 ^ 32 - up.fld R.MC_ERRHEAD F.MC_ERRHEAD_INDEX) % 2 ^ 32) := by
  refine ⟨by decide +kernel, keys_fmF, by decide +kernel, ?_, ?_, ?_, by decide +kernel, by decide +kernel, by decide +kernel⟩
  · intro e m h
    by_cases h1 : e < 256
    · rw [fmF_get ⟨e, h1⟩] at h
      cases h
      intro hk
      have := congrArg BitVec.toNat hk
      have hr : (reportKey rep1).toNat = 13 * 2 ^ 28 := by decide
      rw [hr] at this
      simp only [mrg, BitVec.toNat_ofNat] at this
      omega
    · rw [fmF_none e (by omega)] at h
      cases h
  · intro e he
    rw [fmF_get ⟨e, he⟩]
    simp
  · intro e m h
    have : mergeAt up e = none := rfl
    rw [this] at h
    cases h

/-- A Spindle's fence is being lifted, for Spindle 11 and its pan; a STAGE_FW of slot 1 is being written. -/
def rpU : State := ((((up.setFlag R.MC_REPCMD F.MC_REPCMD_BUSY true).setFld R.MC_REPCMD F.MC_REPCMD_OP 2).setFld R.MC_REPCMD F.MC_REPCMD_ARG 11).setReg R.MC_FENCED (2 ^ 11 + 2 ^ 27))
def rpS : State := (((up.setFlag R.MC_REPCMD F.MC_REPCMD_BUSY true).setFld R.MC_REPCMD F.MC_REPCMD_OP 3).setFld R.MC_REPCMD F.MC_REPCMD_ARG 1)
theorem witness_RepairCommands :
    (mcUp up = true ∧ up.flag R.MC_REPCMD F.MC_REPCMD_BUSY = false ∧ 11 < (12 : BitVec 12).toNat ∧ (11 : BitVec 12).toNat ≤ 11) ∧
    ((∀ k : Fin 4, (up.thr (thrOf 11 k)).run = .halted ∧ takesPart up (thrOf 11 k) = false ∧ (up.tile 11 k).state = .idle ∧ (up.tile 11 k).owner = none ∧
        (up.thr (thrOf 11 k)).world = false) ∧ bit (up.reg R.SEC_SPAN) 11 = false ∧ (up.mx 11).fills = [] ∧ bit (up.reg R.MC_FENCED) 11 = false ∧ up.flash.log.length < 1024) ∧
    ((run0.thr (thrOf 0 0)).run ≠ .halted ∧ bit ((up.setReg R.SEC_SPAN 8).reg R.SEC_SPAN) 3 = true ∧ bit ((up.setReg R.MC_FENCED 1).reg R.MC_FENCED) 0 = true) ∧
    (up.fld R.MC_FWSTAT F.MC_FWSTAT_RUNSLOT = 0 ∧ up.fld R.MC_REPADDR F.MC_REPADDR_ADDR + 512 + 0x400000 ≤ Config.hbmBytes) ∧
    (hbm0.fld (R.MEM_STAT 0) F.MEM_STAT_STATE ≠ 0 ∧ ∀ k : StackId, up.fld (R.MEM_STAT k) F.MEM_STAT_STATE = 0) ∧
    (rpU.flag R.MC_REPCMD F.MC_REPCMD_BUSY = true ∧ rpU.fld R.MC_REPCMD F.MC_REPCMD_OP = 2 ∧ rpU.fld R.MC_REPCMD F.MC_REPCMD_ARG = 11) ∧
    (rpS.flag R.MC_REPCMD F.MC_REPCMD_BUSY = true ∧ rpS.fld R.MC_REPCMD F.MC_REPCMD_OP = 3 ∧ rpS.fld R.MC_REPCMD F.MC_REPCMD_ARG < 2) := by
  refine ⟨?_, ?_, ?_, ?_, ?_, ?_, ?_⟩ <;> decide +kernel
theorem not_restartOk_up : restartOk up = false := by
  have h := no_image up (up.fld R.MC_FWSTAT F.MC_FWSTAT_RUNSLOT) (by decide +kernel)
  have hb : decide (2 ≤ up.fld R.MBOX_STATE F.MBOX_STATE_BOOTSRC) = false := by decide +kernel
  unfold restartOk
  rw [hb]
  split
  · exact absurd ‹_› (h _)
  · rfl
/-- Firmware takes over after a watchdog's restart, and in a swap to slot 1, which holds no image. -/
theorem witness_RestartsSwapsAndStops :
    (up.dead = false ∧ up.mc.running = true ∧ State.reset.mc.running = false ∧ reaches up .mc R.MC_WDOG = true ∧ reaches up .host R.MC_WDOG = true) ∧
    (up.mc.swapTo = none ∧ up.mc.watchdog = false ∧ ({ up with mc := { up.mc with watchdog := true } } : State).mc.watchdog = true) ∧
    restartOk up = false ∧ restartOk (up.setFld R.MBOX_STATE F.MBOX_STATE_BOOTSRC 2) = true ∧
    (∀ i, slotImage { up with mc := { up.mc with swapTo := some 1 } } 1 ≠ .ok i) ∧ up.stopped = false :=
  ⟨by decide +kernel, by decide +kernel, not_restartOk_up, by decide +kernel, fun i => no_image _ _ (by decide +kernel) i, by decide +kernel⟩
/-- One reading at 115 °C, the others failed; the level's thresholds as they are after reset. -/
theorem witness_PowerAndTemperature :
    up.dead = false ∧ (let w := up.fld R.THERM_CFG F.THERM_CFG_DWARM
      let h := up.fld R.THERM_CFG F.THERM_CFG_DHOT
      let c := up.fld R.THERM_CFG F.THERM_CFG_DCRIT
      w ≤ h ∧ h ≤ c ∧ h - 12 < h ∧ w - 12 + 12 ≤ w) ∧
    (some (460 : BitVec 10) :: List.replicate 159 none).getD 0 none = some 460 ∧ 460 ≤ (460 : BitVec 10).toNat ∧ (460 : BitVec 10).toNat ≤ 600 := by decide +kernel
theorem witness_RetirementFrame :
    firstAfter (run0.thr 0) = none ∧
    (let x := ((run0.thr 0).setUcr (CR.LC 1) 2).setUcr (CR.LE 1) 0x1000
     lcOf x 1 ≠ 0 ∧ leOf x 1 = (run0.thr 0).pc ∧ lcOf x 1 ≠ 1) := by decide +kernel
theorem canonical_up : Claims.Canonical up := by unfold Claims.Canonical; decide +kernel
theorem witness_TimeAndQuiet : State.reset.pending = [] ∧ State.reset.beat.rate = 0 ∧ State.reset.beat.frac < 10 ^ 9 := by decide +kernel
theorem witness_EveryStepKeepsTheState : Claims.Canonical up ∧ ∃ u, step up = .next u := ⟨canonical_up, _, rfl⟩
theorem witness_FusesStayBlown : ∃ u, step State.reset = .next u := ⟨_, rfl⟩
theorem witness_TimeAndQuiet_quiet :
    (up.fab.inbox = [] ∧ up.fab.waiting = [] ∧ linksDue up = false ∧ readyTake up = none ∧ mcUp up = true ∧ up.mc.fifo = [] ∧ collects up = none ∧
      mcUp State.reset = false) ∧
    (∀ e q, (up.slq e q).refusal = none ∧ (up.slq e q).waitChk = false) ∧ (∀ k, (up.stack k).held = []) ∧ (∀ t, (up.thr t).storeQ = []) ∧
    ∀ i, (up.rslot i).stalled = false := by
  refine ⟨?_, ?_, ?_, ?_, ?_⟩ <;> decide +kernel

/-! ### Values that the spec works out -/

/-- Chapter 09, regions and interleave, Example: 0x0000_0060_0100 lies in stack 1, pseudo-channel 22, at l = 16, ROW 0, SID 0, BA 1, BG 0. -/
theorem test_global_interleave :
    globalPlace 0x600100 = ⟨1, 22, 16, 0⟩ ∧ rowOf (globalPlace 0x600100) = { pch := 22, sid := 0, ba := 1, bg := 0, row := 0 } := by decide +kernel
/-- The same example: 0x0002_8000_1200 in region 0 (units 0 to 511, local) lies in stack 10, pseudo-channel 9, at l = 0. -/
theorem test_local_interleave :
    hbmPlace (((State.reset.setFld (R.GCTL_MREGION 0) F.GCTL_MREGION_EN 1).setFld (R.GCTL_MREGION 0) F.GCTL_MREGION_MODE 1).setFld (R.GCTL_MREGION 0) F.GCTL_MREGION_LIMIT 512)
      0x280001200 = ⟨10, 9, 0, 0⟩ := by decide +kernel
/-- Chapter 19, voltage regulators, Example: a SET of VDD_Q2 to 790 mV is the frame 0xA2131694. -/
theorem test_set_frame : setFrame 2 790 = 0xA2131694 := by decide +kernel
/-- Chapter 04, conversions, Example: 500.0, 460.0, 464.0, −70,000.0 and 0.0001 to E4M3 in roundTiesToEven, with SAT set and clear. -/
theorem test_convert_e4m3 :
    ([0x43FA0000, 0x43E60000, 0x43E80000, 0xC788B800, 0x38D1B717].map (fun a => (convert (.float fp32) (.float e4m3) .rne true a : FRes))) =
      [⟨0x7E, OF ||| NX⟩, ⟨0x7E, NX⟩, ⟨0x7E, NX⟩, ⟨0xFE, OF ||| NX⟩, ⟨0, UF ||| NX⟩] ∧
    ([0x43FA0000, 0x43E80000, 0xC788B800].map (fun a => (convert (.float fp32) (.float e4m3) .rne false a : FRes))) =
      [⟨0x7F, OF ||| NX⟩, ⟨0x7E, NX⟩, ⟨0xFF, OF ||| NX⟩] := by decide +kernel
/-- Chapter 04, encoding Ply-F8, Example: 1,000.0, 3.0, −0.75 and 0.001 give scale byte 129 and the elements 0x78, 0x34, 0xA4 and +0. -/
theorem test_ply_f8 :
    (let b := plyEncode true ([0x447A0000, 0x40400000, 0xBF400000, 0x3A83126F].map fp32.unpack ++ List.replicate 28 (fp32.unpack 0))
     b.elems.map (List.take 5) = some [0x78, 0x34, 0xA4, 0, 0] ∧ b.scale = 129 ∧ b.fl = UF ||| NX) := by decide +kernel
/-- Chapter 07, the sum of a group, Example: an overwrite mop.e4m3 with K = 24 whose small products are lost; the element is +0, with NX. The wide
form of it keeps 2^−8 in hi (NX there: log entry 113). -/
def mopAs : List Nat := [0x78, 0x78, 0, 0, 0, 0, 0, 0, 0x18, 0x18, 0, 0, 0, 0, 0, 0, 0x78, 0x78, 0, 0, 0, 0, 0, 0]
def mopWs : List Nat := [0x78, 0x78, 0, 0, 0, 0, 0, 0, 0x10, 0x10, 0, 0, 0, 0, 0, 0, 0xF8, 0xF8, 0, 0, 0, 0, 0, 0]
theorem test_mop_example :
    cellRun ⟨.f32, elemTy 4, elemTy 4, false, 8⟩ false false true 0 0 (mopAs.map e4m3.unpack) (mopWs.map e4m3.unpack) [] = (0, 0, NX) ∧
      cellRun ⟨.f32, elemTy 4, elemTy 4, false, 8⟩ true false true 0 0 (mopAs.map e4m3.unpack) (mopWs.map e4m3.unpack) [] = (0x3B800000, 0, NX) := by decide +kernel
/-- Chapter 05, reductions, Example: elements 0, 1 and 3 of VL = 6 are active, 3.0, 0.0 and −1.5; with no active element the summary has E, ALL and SUMV. -/
theorem test_vred_example :
    (let r := redOf (.float fp32) .rne 0 [(0x40400000, true), (0, true), (7, false), (0xBFC00000, true), (7, false), (7, false)]
     r.val = 0x3FC00000 ∧ summaryWord [(0, true, false), (1, false, false), (3, true, false)] r = 0x14003) ∧
    (let r := redOf (.float fp32) .rne 0 [(0x40400000, false), (0, false)]
     r.val = 0 ∧ summaryWord [] r = 0x1FFF0001A000) := by decide +kernel
/-- Chapter 05, chains, Example: 2^((x − m) × c) with x = 3, m = 1 and c = 1/2 is 2.0 in each of the VL elements. -/
theorem test_vchain_example :
    (match exec (.vchain vi0 0 1 []) runC with
     | .next u => (List.range 8).all (fun i => decide (elemAt ((u.thr 0).v[(8 : Fin 32)]).toNat 32 i = 0x40000000))
     | _ => false) = true := by decide +kernel

end Sys2Proof.Tests
end

/-! PROOFS. Vector compares, mask logic and mask moves (R192, R203, R204): the elements of a register group, the bits of a mask,
the bytes of a register, and then what each instruction's body leaves. -/

namespace Sys2Proof.Machine
open Sys2Proof Sys2Proof.Safety Sys2Proof.Claims

/-! ### Packed elements -/

/-- Element 0 is the lowest. -/
theorem packElems_cons (w e : Nat) (es : List Nat) : packElems w (e :: es) = packElems w es * 2 ^ w + e % 2 ^ w := by
  simp [packElems]

theorem testBit_packElems_boolNat (l : List Bool) (j : Nat) : (packElems 1 (l.map boolNat)).testBit j = l.getD j false := by
  induction l generalizing j with
  | nil => simp [packElems]
  | cons b l ih =>
    rw [List.map_cons, packElems_cons]
    cases j with
    | zero => cases b <;> simp [boolNat, Nat.add_mod]
    | succ j =>
      have half : (packElems 1 (l.map boolNat) * 2 ^ 1 + boolNat b % 2 ^ 1) / 2 = packElems 1 (l.map boolNat) := by omega
      rw [Nat.testBit_succ, half, ih, List.getD_cons_succ]

theorem getLsbD_maskOf (l : List Bool) {j : Nat} (hj : j < 4096) : (maskOf l).getLsbD j = l.getD j false := by
  rw [maskOf, BitVec.getLsbD_ofNat, testBit_packElems_boolNat]
  simp [hj]

/-! ### Elements of a register group -/

@[simp] theorem length_elems (x : Thread) (base span w i0 n : Nat) : (elems x base span w i0 n).length = n := by
  simp [elems]

/-- Element `j` of a chunk of `n` is element `i0 + j` of the group (R188). -/
theorem getElem_elems (x : Thread) (base span w i0 n j : Nat) (hj : j < (elems x base span w i0 n).length) :
    (elems x base span w i0 n)[j] = vecElem x base span w (i0 + j) := by
  have hjn : j < n := by simpa using hj
  obtain ⟨k, rfl⟩ := Nat.exists_eq_add_of_lt hjn
  have split : 2 ^ (w * (j + k + 1)) = 2 ^ (w * j) * (2 ^ w * 2 ^ (w * k)) := by
    rw [← pow_add, ← pow_add]
    ring_nf
  simp only [elems, List.getElem_map, List.getElem_range, elemAt, vecElem, Nat.shiftRight_eq_div_pow]
  rw [split, Nat.mod_mul_right_div_self, Nat.mod_mul_right_mod, Nat.div_div_eq_div_mul, ← pow_add, ← Nat.mul_add]

theorem elemTy_width_pos (c : Nat) : 0 < (elemTy c).width := by
  unfold elemTy
  split <;> decide

/-- The registers of an operand whose elements are the widest of the instruction (R191). -/
theorem Opnd.span_widest (x : Thread) (base : Nat) {w : Nat} (hw : 0 < w) :
    (Opnd.mk base w false).span (vcfgOf x) w = (vcfgOf x).sp := by
  have hsp : 0 < (vcfgOf x).sp := Nat.two_pow_pos _
  simp only [Opnd.span, Bool.false_eq_true, if_false, Nat.mul_div_cancel _ hw]
  omega

/-! ### The thread's registers -/

variable (x : Thread) (md : BitVec 3) (v : BitVec 4096) (fl : Flags)

/-- Flags accumulate in one bank of control registers. -/
theorem addVFlags_eq_or :
    addVFlags x fl = { x with bankS := (addVFlags x fl).bankS } ∨ addVFlags x fl = { x with bankO := (addVFlags x fl).bankO } := by
  cases h : x.world <;> simp [addVFlags, Thread.setBcr, Thread.setBank, h]

@[simp] theorem addVFlags_v : (addVFlags x fl).v = x.v := by
  rcases addVFlags_eq_or x fl with h | h <;> rw [h]
@[simp] theorem addVFlags_m : (addVFlags x fl).m = x.m := by
  rcases addVFlags_eq_or x fl with h | h <;> rw [h]
@[simp] theorem addVFlags_g : (addVFlags x fl).g = x.g := by
  rcases addVFlags_eq_or x fl with h | h <;> rw [h]

@[simp] theorem setMask_v : (setMask x md v).v = x.v := rfl
@[simp] theorem setMask_g : (setMask x md v).g = x.g := rfl
@[simp] theorem setMask_m_self : (setMask x md v).m[md.toFin] = v := by simp [setMask]
@[simp] theorem setMask_m_of_ne {k : Fin 8} (h : k ≠ md.toFin) : (setMask x md v).m[k] = x.m[k] := by
  have h' : md.toNat ≠ k.val := fun e => h (Fin.ext e.symm)
  simp [setMask, Vector.getElem_set_ne, h']

@[simp] theorem vregBits_vreg (va : VReg) : vregBits x va.toNat = (x.v[va.toFin]).toNat := by
  unfold vregBits
  exact dif_pos va.isLt

/-! ### Bytes of a register -/

@[simp] theorem length_leBytes (n y : Nat) : (leBytes n y).length = n := by
  induction n generalizing y with
  | zero => rfl
  | succ n ih => simp [leBytes, ih]

theorem ofLe_leBytes (n y : Nat) : ofLe (leBytes n y) = y % 2 ^ (8 * n) := by
  induction n generalizing y with
  | zero => simp [leBytes, ofLe, Nat.mod_one]
  | succ n ih =>
    rw [leBytes, ofLe, ih, BitVec.toNat_ofNat, Nat.mul_succ, Nat.add_comm (8 * n) 8, pow_add, Nat.mod_mul]
    rfl

/-- A number of `n` bytes is what its bytes spell. -/
theorem ofLe_leBytes_toNat {n : Nat} (y : BitVec (8 * n)) : ofLe (leBytes n y.toNat) = y.toNat := by
  rw [ofLe_leBytes, Nat.mod_eq_of_lt y.isLt]

/-- The low bits of `y` replaced by `v`. -/
theorem ofNat_sub_mod_add {m n : Nat} (y : BitVec m) (v : BitVec n) :
    BitVec.ofNat m (y.toNat - y.toNat % 2 ^ n + v.toNat) = y >>> n <<< n ||| v.setWidth m := by
  have high : y.toNat - y.toNat % 2 ^ n = 2 ^ n * (y.toNat >>> n) := by
    have := Nat.div_add_mod y.toNat (2 ^ n)
    rw [Nat.shiftRight_eq_div_pow]
    omega
  rw [high, Nat.two_pow_add_eq_or_of_lt v.isLt, Nat.mul_comm, ← Nat.shiftLeft_eq]
  ext i hi
  by_cases h : n ≤ i <;>
    simp [← BitVec.getLsbD_eq_getElem, BitVec.getLsbD_ofNat, Nat.testBit_shiftLeft, BitVec.testBit_toNat, hi, h]

/-- A piece that does not cross a multiple of `u` is not cut. -/
theorem piecesOf_mul (u a n : Nat) (h0 : 0 < n) (hn : n ≤ u) : piecesOf u (a * u) n = [(a * u, n)] := by
  simp [piecesOf, pieces, Nat.ne_of_gt h0, Nat.min_eq_left hn]

/-- The thread with the first 512 bytes of register vd taken from a mask (R204). -/
def putMask (x : Thread) (vd : VReg) (v : BitVec 4096) : Thread :=
  { x with v := x.v.set vd.toFin (x.v[vd.toFin] >>> 4096 <<< 4096 ||| v.setWidth 32768) }

/-- The 512 bytes of a mask stored at the beginning of a register (R204). -/
theorem writeVregs_mask (vd : VReg) : writeVregs x (vd.toNat * 4096) (leBytes 512 v.toNat) = putMask x vd v := by
  have hreg : vd.toNat * 4096 / 4096 = vd.toNat := Nat.mul_div_cancel _ (by decide)
  have hoff : vd.toNat * 4096 % 4096 = 0 := Nat.mul_mod_left _ _
  unfold writeVregs putMask
  rw [length_leBytes, piecesOf_mul _ _ _ (by decide) (by decide)]
  simp only [List.foldl_cons, List.foldl_nil, hreg, hoff]
  rw [dif_pos vd.isLt]
  have hdata : ofLe ((leBytes 512 v.toNat).take 512) = v.toNat := by
    rw [List.take_of_length_le (length_leBytes _ _).le]
    exact ofLe_leBytes_toNat (n := 512) v
  rw [← ofNat_sub_mod_add, Nat.sub_self, List.drop_zero, hdata, Nat.mul_zero, pow_zero, Nat.mul_one, Nat.mul_one, Nat.div_one,
    show 8 * 512 = 4096 from rfl]
  rfl

/-! ### Whole-vector instructions -/

variable {s : State} {is : Issue}

theorem runWhole_done {f : VForm} {eff : VCfg → State → State} (h : WholeRuns s is.thr f) :
    runWhole is f eff s = .done (eff (vcfgOf (s.thr is.thr)) (countGroups s is.thr (groupCount (vcfgOf (s.thr is.thr)) f.wmax))) none := by
  obtain ⟨hreason, hheld⟩ := h
  simp only [runWhole, hreason, hheld, Bool.false_eq_true, if_false]

/-! ### Compares (R203) -/

variable (f : Fin 7) (mg : BitVec 3) (ty : BitVec 4) (sc : Bool) (b : Reg6) (va : VReg)

/-- What the elements of va are compared with: a value of register gb, or the elements of vb. -/
def cmpOperand (x : Thread) (ty : BitVec 4) (sc : Bool) (b : Reg6) : List Nat :=
  let c := vcfgOf x
  let t := elemTy ty.toNat
  if sc then List.replicate c.vl (elOf t (x.rg b).toNat) else elems x b.toNat c.sp t.width 0 c.vl

theorem length_cmpOperand : (cmpOperand x ty sc b).length = (vcfgOf x).vl := by
  cases sc <;> simp [cmpOperand]

theorem getElem_cmpOperand {j : Nat} (hj : j < (cmpOperand x ty sc b).length) :
    (cmpOperand x ty sc b)[j] =
      if sc then (x.rg b).toNat % 2 ^ (elemTy ty.toNat).width else vecElem x b.toNat (vcfgOf x).sp (elemTy ty.toNat).width j := by
  cases sc
  · simp [cmpOperand, getElem_elems]
  · simp [cmpOperand, elOf]

/-- The bit of md and the flags that element `j` gives: its condition where it is active, else the bit that MPOL leaves. -/
def cmpBit (x : Thread) (f : Fin 7) (mg : BitVec 3) (ty : BitVec 4) (md : BitVec 3) (j : Nat) (e : Nat × Nat) : Bool × Flags :=
  if active x (vcfgOf x) mg j then cmpElem (elemTy ty.toNat) f.val e.1 e.2
  else (if (vcfgOf x).mpol then false else (x.m[md.toFin]).getLsbD j, 0)

/-- The elements below VL, in order. -/
def cmpBits (x : Thread) (f : Fin 7) (mg : BitVec 3) (ty : BitVec 4) (sc : Bool) (b : Reg6) (va : VReg) (md : BitVec 3) : List (Bool × Flags) :=
  let c := vcfgOf x
  ((elems x va.toNat c.sp (elemTy ty.toNat).width 0 c.vl).zip (cmpOperand x ty sc b)).mapIdx (cmpBit x f mg ty md)

/-- The thread after a compare. -/
def cmpThread (x : Thread) (f : Fin 7) (mg : BitVec 3) (ty : BitVec 4) (sc : Bool) (b : Reg6) (va : VReg) (md : BitVec 3) : Thread :=
  let rs := cmpBits x f mg ty sc b va md
  addVFlags (setMask x md (maskOf (rs.map (·.1)))) (rs.foldl (fun a r => a ||| r.2) 0)

@[simp] theorem cmpThread_v : (cmpThread x f mg ty sc b va md).v = x.v := by simp [cmpThread]
@[simp] theorem cmpThread_g : (cmpThread x f mg ty sc b va md).g = x.g := by simp [cmpThread]
theorem cmpThread_m : (cmpThread x f mg ty sc b va md).m = (setMask x md (maskOf ((cmpBits x f mg ty sc b va md).map (·.1)))).m :=
  addVFlags_m ..
theorem cmpThread_m_of_ne {k : Fin 8} (h : k ≠ md.toFin) : (cmpThread x f mg ty sc b va md).m[k] = x.m[k] := by
  rw [cmpThread_m, setMask_m_of_ne x md _ h]

/-- The mask that a compare writes (R203). -/
theorem getLsbD_cmpThread_m {j : Nat} (hj : j < 4096) :
    ((cmpThread x f mg ty sc b va md).m[md.toFin]).getLsbD j =
      if j < (vcfgOf x).vl then
        if active x (vcfgOf x) mg j then
          (cmpElem (elemTy ty.toNat) f.val (vecElem x va.toNat (vcfgOf x).sp (elemTy ty.toNat).width j)
            (if sc then (x.rg b).toNat % 2 ^ (elemTy ty.toNat).width
             else vecElem x b.toNat (vcfgOf x).sp (elemTy ty.toNat).width j)).1
        else !(vcfgOf x).mpol && (x.m[md.toFin]).getLsbD j
      else false := by
  have hlen : ((cmpBits x f mg ty sc b va md).map (·.1)).length = (vcfgOf x).vl := by
    simp [cmpBits, length_cmpOperand]
  rw [cmpThread_m, setMask_m_self, getLsbD_maskOf _ hj]
  by_cases hvl : j < (vcfgOf x).vl
  · rw [if_pos hvl, List.getD_eq_getElem _ _ (hlen ▸ hvl)]
    simp only [cmpBits, cmpBit, List.getElem_map, List.getElem_mapIdx, List.getElem_zip, getElem_elems, getElem_cmpOperand, Nat.zero_add]
    by_cases ha : active x (vcfgOf x) mg j
    · rw [if_pos ha, if_pos ha]
    · rw [if_neg ha, if_neg ha]
      cases (vcfgOf x).mpol <;> rfl
  · rw [if_neg hvl, List.getD_eq_default _ _ (by omega)]

/-- The operands of a compare: va, and vb where it compares two groups. -/
def cmpForm (ty : BitVec 4) (sc : Bool) (b : Reg6) (va : VReg) : VForm :=
  let w := (elemTy ty.toNat).width
  { wmax := w, dsts := [], srcs := if sc then [⟨va.toNat, w, false⟩] else [⟨va.toNat, w, false⟩, ⟨b.toNat, w, false⟩] }

/-- A compare whose encoding R203 allows and that runs completes. -/
theorem vcmpBody_done (hty : is4bit ty = false) (hb : sc = true ∨ b.toNat < 32) (hrun : WholeRuns s is.thr (cmpForm ty sc b va)) :
    vcmpBody is f mg ty sc b va md s =
      .done ((countGroups s is.thr (groupCount (vcfgOf (s.thr is.thr)) (elemTy ty.toNat).width)).setThr is.thr
        (cmpThread (s.thr is.thr) f mg ty sc b va md)) none := by
  have hbad : (is4bit ty || (!sc && decide (32 ≤ b.toNat))) = false := by
    rcases hb with h | h <;> simp [hty, h]
  rw [vcmpBody, hbad, if_neg Bool.false_ne_true]
  refine (runWhole_done hrun).trans ?_
  simp only [Opnd.span_widest _ _ (elemTy_width_pos _)]
  rfl

/-! ### Mask logic and mask moves (R204) -/

theorem maskOpBody_done (f : Fin 5) (ma mb : BitVec 3) :
    maskOpBody is f md ma mb s =
      .done ((countGroups s is.thr 1).setThr is.thr
        (setMask (s.thr is.thr) md (maskFn f ((s.thr is.thr).m[ma.toFin]) ((s.thr is.thr).m[mb.toFin])))) none := rfl

theorem mfromvBody_done (h : vecHeldRegs s is.thr [] [(va.toNat, 1)] = false) :
    mfromvBody is md va s =
      .done ((countGroups s is.thr 1).setThr is.thr (setMask (s.thr is.thr) md (((s.thr is.thr).v[va.toFin]).setWidth 4096))) none := by
  rw [mfromvBody, h, if_neg Bool.false_ne_true]
  simp only [vregBits_vreg, BitVec.ofNat_toNat]
  rfl

theorem mtovBody_done (h : vecHeldRegs s is.thr [(va.toNat, 1)] [] = false) :
    mtovBody is va md s =
      .done ((countGroups s is.thr 1).setThr is.thr (putMask (s.thr is.thr) va ((s.thr is.thr).m[md.toFin]))) none := by
  rw [mtovBody, h, if_neg Bool.false_ne_true]
  simp only [State.updThr, writeVregs_mask]
  rfl

end Sys2Proof.Machine

namespace Sys2Proof.Claims
open Sys2Proof Sys2Proof.Machine Sys2Proof.Safety

theorem sameMem_setThr_countGroups (s : State) (t : Thr) (n : Nat) (x : Thread) : SameMem ((countGroups s t n).setThr t x) s :=
  ⟨rfl, rfl, rfl, fun _ => rfl⟩

/-- Settles O20: each body runs to its end, and bit `j` of the mask that a compare builds is its `j`-th element's. -/
theorem vectorMasks : Obligations.VectorMasks := by
  unfold Obligations.VectorMasks
  intro s is md ma mb mg va vd t x counted
  refine ⟨?compare, ?logic, ?fromVector, ?toVector⟩
  case compare =>
    intro f ty sc b c w i fm hi hty hb hrun
    refine ⟨_, congrArg Host.Outcome.next (issue_done hi (vcmpBody_done md f mg ty sc b va hty hb hrun)), ?_⟩
    rw [State.thr_setThr_self]
    exact ⟨fun j hj => getLsbD_cmpThread_m x md f mg ty sc b va hj, fun k hk => cmpThread_m_of_ne x md f mg ty sc b va hk,
      cmpThread_v .., cmpThread_g .., sameMem_setThr_countGroups ..⟩
  case logic =>
    intro f i a b v hi
    exact congrArg Host.Outcome.next (issue_done hi (maskOpBody_done md f ma mb))
  case fromVector => exact fun hi hheld => congrArg Host.Outcome.next (issue_done hi (mfromvBody_done md va hheld))
  case toVector => exact fun hi hheld => congrArg Host.Outcome.next (issue_done hi (mtovBody_done ma vd hheld))

end Sys2Proof.Claims

/-! PROOFS. Tile ownership (R254, R255, R261, R268): what an update of one tile leaves, the end of a release, and then what the
body of mtake, mrel, mwait, mstat and FREL leaves. -/

namespace Sys2Proof.Machine
open Sys2Proof Sys2Proof.Safety Sys2Proof.Claims

/-! ### One tile of a Spindle -/

section
variable (s : State) (n : SpindleId) (j k : TileId) (f : Tile → Tile)

@[simp] theorem State.mx_updMx_self (g : Matrix → Matrix) : (s.updMx n g).mx n = g (s.mx n) := by
  simp [State.mx, State.updMx, State.setMx, State.updSpin]

@[simp] theorem State.tile_updTile_self : (s.updTile n j f).tile n j = f (s.tile n j) := by
  simp [State.tile, State.updTile]
@[simp] theorem State.tile_updTile_of_ne (h : j ≠ k) : (s.updTile n k f).tile n j = s.tile n j := by
  have hval : k.val ≠ j.val := fun e => h (Fin.ext e.symm)
  simp [State.tile, State.updTile, Vector.getElem_set_ne, hval]
@[simp] theorem State.queuedOn_updTile : ((s.updTile n k f).mx n).queuedOn j = (s.mx n).queuedOn j := by
  simp [State.updTile, Matrix.queuedOn]
@[simp] theorem State.threads_updTile : (s.updTile n j f).threads = s.threads := rfl
@[simp] theorem State.mem_updTile : (s.updTile n j f).mem = s.mem := rfl

/-- The tile itself and the shadows bound to it are emptied (R256, R259). -/
theorem tile_idleTile : (idleTile s n k).tile n j =
    if j = k ∨ (s.tile n j).boundTo = some k then emptyTile (s.tile n j) else s.tile n j := by
  simp [State.tile, idleTile, Fin.ext_iff]
@[simp] theorem threads_idleTile : (idleTile s n j).threads = s.threads := rfl
@[simp] theorem mem_idleTile : (idleTile s n j).mem = s.mem := rfl

theorem ne_shadowOf : j ≠ shadowOf j := by
  intro h
  have hval : j.val = if j.val % 2 = 0 then j.val + 1 else j.val - 1 := congrArg Fin.val h
  split at hval <;> omega

/-! ### The end of a release (R255) -/

@[simp] theorem threads_settleRelease : (settleRelease s n j).threads = s.threads := by
  simp only [settleRelease]
  split <;> simp
@[simp] theorem mem_settleRelease : (settleRelease s n j).mem = s.mem := by
  simp only [settleRelease]
  split <;> simp
@[simp] theorem threads_releaseTile : (releaseTile s n j).threads = s.threads := by
  simp [releaseTile, settleTiles]
@[simp] theorem mem_releaseTile : (releaseTile s n j).mem = s.mem := by
  simp [releaseTile, settleTiles]

end

/-- An unowned tile without contents. -/
structure Released (y : Tile) : Prop where
  owner : y.owner = none
  state : y.state = .idle
  cells : y.cells = []
  releasing : y.releasing = false

/-- The tile stands IDLE or FULL, with no drain and no mop queued. -/
structure WithoutWork (s : State) (n : SpindleId) (j : TileId) : Prop where
  state : (s.tile n j).state = .idle ∨ (s.tile n j).state = .full
  drain : (s.tile n j).drain = none
  mops : (s.mx n).queuedOn j = []

variable {s : State} {n : SpindleId} {j k : TileId}

theorem Released.emptyTile {y : Tile} (h : Released y) : Released (emptyTile y) := ⟨h.owner, rfl, rfl, h.releasing⟩

/-- The release of a tile without work ends at once. -/
theorem released_settleRelease (hr : (s.tile n j).releasing = true) (h : WithoutWork s n j) :
    Released ((settleRelease s n j).tile n j) := by
  have ends : settleRelease s n j = (idleTile s n j).updTile n j (fun y => { y with owner := none, releasing := false }) := by
    simp [settleRelease, hr, h.state, h.drain, h.mops]
  rw [ends, State.tile_updTile_self, tile_idleTile, if_pos (.inl rfl)]
  exact ⟨rfl, rfl, rfl, rfl⟩

/-- The end of another tile's release takes nothing from a released tile. -/
theorem Released.settleRelease_of_ne (h : Released (s.tile n j)) (hk : j ≠ k) : Released ((settleRelease s n k).tile n j) := by
  simp only [settleRelease]
  split
  · rw [State.tile_updTile_of_ne _ _ _ _ _ hk, tile_idleTile]
    split
    · exact h.emptyTile
    · exact h
  · exact h

theorem released_releaseTile (h : WithoutWork s n j) : Released ((releaseTile s n j).tile n j) := by
  refine (released_settleRelease ?_ ⟨?_, ?_, ?_⟩).settleRelease_of_ne (ne_shadowOf j)
  · rw [State.tile_updTile_self]
  · rw [State.tile_updTile_self]; exact h.state
  · rw [State.tile_updTile_self]; exact h.drain
  · rw [State.queuedOn_updTile]; exact h.mops

/-! ### The bodies (R255, R261, R268) -/

variable {is : Issue} {gd : Reg6}

theorem mtakeBody_unowned (ho : (s.tile (spindleOf is.thr) j).owner = none) (hg : gemmBusy s = false) :
    mtakeBody is j gd s =
      .done ((s.updTile (spindleOf is.thr) j (fun y => { y with owner := some (threadIn is.thr, (s.thr is.thr).world) })).setThr is.thr
        ((((s.thr is.thr).setUcr (CR.TFLAGS j.val) 0).setUcr (CR.TDSTAT j.val) 0).wg gd 1)) none := by
  rw [mtakeBody, if_pos ⟨ho, hg⟩]
  rfl

theorem mtakeBody_owned (ho : (s.tile (spindleOf is.thr) j).owner ≠ none) :
    mtakeBody is j gd s = .done (writeG s is.thr gd (if tileUsable s is.thr j then 1 else 0)) none := by
  rw [mtakeBody, if_neg (fun h => ho h.1)]
  rfl

theorem tileUsable_iff {t : Thr} : tileUsable s t j = true ↔ owns s t j = true ∧ (s.tile (spindleOf t) j).releasing = false := by
  simp [tileUsable]

theorem mrelBody_owner (h : owns s is.thr j = true) : mrelBody is j s = .done (releaseTile s (spindleOf is.thr) j) none := by
  rw [mrelBody, if_pos h]

theorem mrelBody_other (h : owns s is.thr j = false) : mrelBody is j s = .trap s ⟨Cause.TILE_OWN, 0, BitVec.ofNat 64 j.val⟩ := by
  rw [mrelBody, h, if_neg Bool.false_ne_true, notOwned]

theorem tileReady_iff {c : Bool} : tileReady s n j c = true ↔
    if c then (s.mx n).queuedOn j = [] else (s.tile n j).state = .idle ∧ (s.tile n j).drain = none := by
  cases c <;> simp [tileReady]

theorem mwaitBody_ready {c : Bool} (h : owns s is.thr j = true) (hc : tileReady s (spindleOf is.thr) j c = true) :
    mwaitBody is j c s = .done s none := by
  simp only [mwaitBody, h, hc, if_true]

theorem mstatBody_done : mstatBody is j gd s =
    .done (writeG s is.thr gd (if owns s is.thr j then tileWord s (spindleOf is.thr) j
      else if (s.tile (spindleOf is.thr) j).owner = none then 0 else 4)) none := by
  have reported : (if (s.tile (spindleOf is.thr) j).owner.isSome then 4 else 0 : Word) =
      if (s.tile (spindleOf is.thr) j).owner = none then 0 else 4 := by
    cases (s.tile (spindleOf is.thr) j).owner <;> rfl
  rw [mstatBody, reported]
  rfl

theorem doFrel_halted {i : Fin 4} (ho : (s.tile n j).owner = some (i, false)) (hh : (s.thr (thrOf n i)).run = .halted) :
    doFrel n j s = releaseTile s n j := by
  simp only [doFrel, ho, hh, if_true]

/-- FREL is ignored for a tile that no halted thread owns in the Open world. -/
theorem doFrel_ignored (h : ∀ i : Fin 4, (s.tile n j).owner = some (i, false) → (s.thr (thrOf n i)).run ≠ .halted) :
    doFrel n j s = s := by
  unfold doFrel
  split
  case h_1 i ho => exact if_neg (h i ho)
  case h_2 => rfl

theorem execFrel_running (hs : s.stopped = false) : execFrel n j s = .next (settle (doFrel n j s)) := by
  rw [execFrel, running, hs, if_neg Bool.false_ne_true, done]

end Sys2Proof.Machine

namespace Sys2Proof.Claims
open Sys2Proof Sys2Proof.Machine Sys2Proof.Safety

/-- Settles O26: each body runs to its end, and a release of a tile without work ends with it. -/
theorem tileOwnership : Obligations.TileOwnership := by
  unfold Obligations.TileOwnership
  intro s is j gd c n x y idleOrFull
  refine ⟨?take, ?release, ?wait, ?status, ?forced, ?ignored⟩
  case take =>
    intro hi
    refine ⟨fun ho hg => congrArg Host.Outcome.next (issue_done hi (mtakeBody_unowned ho hg)), fun ho => ?_⟩
    have hbody := mtakeBody_owned (gd := gd) ho
    simp only [tileUsable_iff] at hbody
    exact congrArg Host.Outcome.next (issue_done hi hbody)
  case release =>
    intro hi
    refine ⟨fun howns hidle => ?_, fun hother => congrArg Host.Outcome.next (issue_trap hi (mrelBody_other hother))⟩
    obtain ⟨hstate, hdrain, hmops⟩ := hidle
    obtain ⟨owner, state, cells, releasing⟩ := released_releaseTile ⟨hstate, hdrain, hmops⟩
    exact ⟨releaseTile s n j, congrArg Host.Outcome.next (issue_done hi (mrelBody_owner howns)), owner, state, cells, releasing,
      threads_releaseTile s n j, mem_releaseTile s n j⟩
  case wait =>
    exact fun hi howns hc => congrArg Host.Outcome.next (issue_done hi (mwaitBody_ready howns (tileReady_iff.mpr hc)))
  case status => exact fun hi => congrArg Host.Outcome.next (issue_done hi mstatBody_done)
  case forced =>
    intro sp k hs ho hh
    exact (execFrel_running hs).trans (by rw [doFrel_halted ho hh]; rfl)
  case ignored =>
    intro sp hs hno
    exact (execFrel_running hs).trans (by rw [doFrel_ignored hno])

end Sys2Proof.Claims

/-! PROOFS. The sensors, counters and limits of the quadrants (R593, R596, R597, R600–R603, R605): fields of a register, the
events of THERM.IRQ, and then what each sample, and the switch at an edge, leaves. -/

namespace Sys2Proof.Machine
open Sys2Proof Sys2Proof.Safety Sys2Proof.Claims

/-! ### Fields of a register -/

/-- Two fields of a register share no bit. -/
def Apart (f g : Fld) : Prop := f.hi < g.lo ∨ g.hi < f.lo

theorem Apart.symm {f g : Fld} (h : Apart f g) : Apart g f := Or.symm h

theorem getLsbD_setField (w : Word) (hi lo v i : Nat) (hi64 : hi < 64) :
    (setField w hi lo v).getLsbD i = if lo ≤ i ∧ i ≤ hi then v.testBit (i - lo) else w.getLsbD i := by
  rw [setField, BitVec.getLsbD_or, BitVec.getLsbD_and, BitVec.getLsbD_not, BitVec.getLsbD_ofNat, BitVec.getLsbD_ofNat,
    Nat.testBit_shiftLeft, Nat.testBit_shiftLeft, Nat.testBit_two_pow_sub_one, Nat.testBit_mod_two_pow]
  by_cases h : lo ≤ i ∧ i ≤ hi
  · have h64 : i < 64 := by omega
    have hin : i - lo < hi + 1 - lo := by omega
    simp [h, h64, hin]
  · have hout : lo ≤ i → ¬ i - lo < hi + 1 - lo := by omega
    rw [if_neg h]
    by_cases hl : lo ≤ i
    · simpa [hout hl] using BitVec.lt_of_getLsbD
    · simpa [hl] using BitVec.lt_of_getLsbD

theorem testBit_getF (w : Word) (f : Fld) (i : Nat) :
    (getF w f).testBit i = (decide (i < f.hi + 1 - f.lo) && w.getLsbD (f.lo + i)) := by
  rw [getF, field, Nat.testBit_mod_two_pow, Nat.testBit_shiftRight, BitVec.testBit_toNat]

/-- A value that fits its field reads as it was written. -/
theorem getF_putF {w : Word} {f : Fld} {v : Nat} (hf : f.hi < 64) (hv : v < 2 ^ (f.hi + 1 - f.lo)) : getF (putF w f v) f = v := by
  refine Nat.eq_of_testBit_eq fun i => ?_
  rw [testBit_getF, putF, getLsbD_setField _ _ _ _ _ hf]
  by_cases hi : i < f.hi + 1 - f.lo
  · have hin : f.lo ≤ f.lo + i ∧ f.lo + i ≤ f.hi := by omega
    rw [if_pos hin, decide_eq_true hi, Bool.true_and, Nat.add_sub_cancel_left]
  · have small : v < 2 ^ i := Nat.lt_of_lt_of_le hv (Nat.pow_le_pow_right (by decide) (Nat.not_lt.mp hi))
    rw [decide_eq_false hi, Bool.false_and, Nat.testBit_lt_two_pow small]

theorem getF_putF_of_apart {w : Word} {f g : Fld} {v : Nat} (hg : g.hi < 64) (h : Apart f g) : getF (putF w g v) f = getF w f := by
  refine Nat.eq_of_testBit_eq fun i => ?_
  rw [testBit_getF, testBit_getF, putF, getLsbD_setField _ _ _ _ _ hg]
  by_cases hi : i < f.hi + 1 - f.lo
  · have hout : ¬(g.lo ≤ f.lo + i ∧ f.lo + i ≤ g.hi) := by
      unfold Apart at h
      omega
    rw [if_neg hout]
  · rw [decide_eq_false hi, Bool.false_and, Bool.false_and]

theorem getF_lt (w : Word) (f : Fld) : getF w f < 2 ^ (f.hi + 1 - f.lo) := Nat.mod_lt _ (Nat.two_pow_pos _)

theorem bit_setBit_true (w : Word) {i j : Nat} (hi : i < 64) : bit (setBit w i true) j = (decide (j = i) || bit w j) := by
  unfold bit setBit
  rw [getLsbD_setField _ _ _ _ _ hi]
  by_cases h : j = i
  · subst h
    simp
  · have hne : ¬(i ≤ j ∧ j ≤ i) := by omega
    simp [hne, h]

/-! ### A field of the state -/

section
variable {s : State}

theorem State.fld_setFld_self {o : Nat} {f : Fld} {v : Nat} (hf : f.hi < 64) (hv : v < 2 ^ (f.hi + 1 - f.lo)) :
    (s.setFld o f v).fld o f = v := by
  rw [State.fld, State.setFld, State.reg_setReg_self, getF_putF hf hv]

theorem State.fld_setFld_of_apart {o : Nat} {f g : Fld} {v : Nat} (hg : g.hi < 64) (h : Apart f g) :
    (s.setFld o g v).fld o f = s.fld o f := by
  rw [State.fld, State.setFld, State.reg_setReg_self, getF_putF_of_apart hg h, State.fld]

theorem State.reg_setFld_self (o : Nat) (f : Fld) (v : Nat) : (s.setFld o f v).reg o = putF (s.reg o) f v := State.reg_setReg_self s _ _

theorem State.reg_setFld_of_ne {o o' : Nat} {f : Fld} {v : Nat} (h : o' ≠ o) : (s.setFld o f v).reg o' = s.reg o' :=
  State.reg_setReg_of_ne s _ h

theorem State.fld_congr {u : State} {o : Nat} (f : Fld) (h : u.reg o = s.reg o) : u.fld o f = s.fld o f := congrArg (getF · f) h

theorem State.flag_congr {u : State} {o : Nat} (f : Fld) (h : u.fld o f = s.fld o f) : u.flag o f = s.flag o f := by
  rw [State.flag, State.flag, h]

end

/-! ### Folds over an index range -/

/-- Every step keeps some relation but step `i`: then the fold is that step, between two states that the relation ties to the ends. -/
theorem foldl_range_around {σ : Type} {Keeps : σ → σ → Prop} (refl : ∀ s, Keeps s s)
    (trans : ∀ {s t u}, Keeps s t → Keeps t u → Keeps s u) {f : σ → Nat → σ} {n i : Nat}
    (hf : ∀ z j, j < n → j ≠ i → Keeps z (f z j)) (hi : i < n) (s : σ) :
    ∃ z, Keeps s z ∧ Keeps (f z i) ((List.range n).foldl f s) := by
  have before : ∀ m, m ≤ i → Keeps s ((List.range m).foldl f s) := by
    intro m hm
    refine List.foldlRecOn (List.range m) f (refl s) fun z hz j hj => trans hz (hf z j ?_ ?_)
    · have := List.mem_range.mp hj
      omega
    · have := List.mem_range.mp hj
      omega
  refine ⟨(List.range i).foldl f s, before i (Nat.le_refl i), ?_⟩
  clear before
  induction n with
  | zero => omega
  | succ n ih =>
    rw [List.range_succ, List.foldl_append, List.foldl_cons, List.foldl_nil]
    by_cases h : i = n
    · subst h
      exact refl _
    · exact trans (ih (fun z j hj => hf z j (by omega)) (by omega)) (hf _ n (by omega) (Ne.symm h))

/-- A part of the state that every step keeps but step `i` is, after the fold, as step `i` makes it. -/
theorem foldl_range_view {σ β : Type} {view : σ → β} {g : β → β} {f : σ → Nat → σ} {n i : Nat}
    (hf : ∀ z j, j < n → j ≠ i → view (f z j) = view z) (hg : ∀ z, view (f z i) = g (view z)) (hi : i < n) (s : σ) :
    view ((List.range n).foldl f s) = g (view s) := by
  obtain ⟨z, hz, hu⟩ := foldl_range_around (Keeps := fun s u => view u = view s) (fun _ => rfl) (fun h k => k.trans h) hf hi s
  rw [hu, hg, hz]

/-! ### Events of THERM.IRQ -/

section
variable {s : State}

theorem regs_raiseSource (n : Nat) : (raiseSource s n).regs = s.regs := by
  unfold raiseSource raiseLine wakeWfi
  dsimp only
  split
  · split <;> rfl
  · rfl

theorem regs_sendMsix (v : Nat) : (sendMsix s v).regs = s.regs := by
  unfold sendMsix
  split
  · split <;> rfl
  · rfl

/-- An event is the write of its bit, and what a raised source, a sent message and a change of ALERT_L keep, it keeps. -/
theorem thermEvent_induction {P : State → Prop} {ev : Nat} (set : P (s.setReg R.THERM_IRQ (setBit (s.reg R.THERM_IRQ) ev true)))
    (raise : ∀ u n, P u → P (raiseSource u n)) (send : ∀ u v, P u → P (sendMsix u v)) (emit : ∀ u o, P u → P (State.emit u o)) :
    P (thermEvent s ev) := by
  have event : P (unitEvent s R.THERM_IRQ ev 8 F.THERM_IRQ_MSIVEC F.THERM_IRQ_MSI_EN (some 20)) := by
    unfold unitEvent
    generalize s.setReg R.THERM_IRQ (setBit (s.reg R.THERM_IRQ) ev true) = z at set
    dsimp only
    split
    · split
      · exact send _ _ (raise z 20 set)
      · exact raise z 20 set
    · exact set
  rw [thermEvent, alertAfter]
  split
  · exact event
  · exact emit _ _ event

theorem regs_thermEvent (ev : Nat) : (thermEvent s ev).regs = (s.setReg R.THERM_IRQ (setBit (s.reg R.THERM_IRQ) ev true)).regs :=
  thermEvent_induction (P := fun u => u.regs = _) rfl (fun _ n h => (regs_raiseSource n).trans h)
    (fun _ v h => (regs_sendMsix v).trans h) (fun _ _ h => h)

/-- Power, flash and memory stand in `u` as in `s`. -/
structure EventKeeps (s u : State) : Prop where
  power : u.power = s.power
  flash : u.flash = s.flash
  sameMem : SameMem u s

theorem EventKeeps.refl (s : State) : EventKeeps s s := ⟨rfl, rfl, rfl, rfl, rfl, fun _ => rfl⟩

theorem EventKeeps.trans {s t u : State} (h : EventKeeps s t) (k : EventKeeps t u) : EventKeeps s u := by
  obtain ⟨hp, hf, hm, hk, he, hw⟩ := h
  obtain ⟨kp, kf, km, kk, ke, kw⟩ := k
  exact ⟨kp.trans hp, kf.trans hf, km.trans hm, kk.trans hk, ke.trans he, fun i => (kw i).trans (hw i)⟩

theorem eventKeeps_raiseSource (n : Nat) : EventKeeps s (raiseSource s n) := by
  unfold raiseSource raiseLine wakeWfi
  dsimp only
  split
  · split <;> exact ⟨rfl, rfl, rfl, rfl, rfl, fun _ => rfl⟩
  · exact .refl s

theorem eventKeeps_sendMsix (v : Nat) : EventKeeps s (sendMsix s v) := by
  unfold sendMsix
  split
  · split <;> exact ⟨rfl, rfl, rfl, rfl, rfl, fun _ => rfl⟩
  · exact .refl s

theorem eventKeeps_setReg (o : Nat) (v : Word) : EventKeeps s (s.setReg o v) := ⟨rfl, rfl, rfl, rfl, rfl, fun _ => rfl⟩
theorem eventKeeps_setFld (o : Nat) (f : Fld) (v : Nat) : EventKeeps s (s.setFld o f v) := eventKeeps_setReg _ _

theorem eventKeeps_thermEvent (ev : Nat) : EventKeeps s (thermEvent s ev) :=
  thermEvent_induction (eventKeeps_setReg _ _) (fun _ n h => h.trans (eventKeeps_raiseSource n))
    (fun _ v h => h.trans (eventKeeps_sendMsix v)) (fun _ _ h => h.trans ⟨rfl, rfl, rfl, rfl, rfl, fun _ => rfl⟩)

/-- An event sets its bit of THERM.IRQ and changes no other register. -/
theorem reg_thermEvent (ev o : Nat) :
    (thermEvent s ev).reg o = if o = R.THERM_IRQ then setBit (s.reg R.THERM_IRQ) ev true else s.reg o := by
  rw [← State.reg_setReg, State.reg, State.reg, regs_thermEvent]

theorem reg_thermEvent_of_ne {ev o : Nat} (h : o ≠ R.THERM_IRQ) : (thermEvent s ev).reg o = s.reg o := by
  rw [reg_thermEvent, if_neg h]

theorem bit_irq_thermEvent {ev : Nat} (h : ev < 64) (k : Nat) :
    bit ((thermEvent s ev).reg R.THERM_IRQ) k = (decide (k = ev) || bit (s.reg R.THERM_IRQ) k) := by
  rw [reg_thermEvent, if_pos rfl, bit_setBit_true _ h]

end

/-! ### What one quadrant's step moves, and what it leaves the others -/

/-- The level, the throttle bit and SENSFAIL of quadrant `q` in THERM.STAT. -/
def levelField (q : Nat) : Fld := ⟨2 * q + 1, 2 * q⟩
def throttleField (q : Nat) : Fld := ⟨8 + q, 8 + q⟩
def heldField (q : Nat) : Fld := ⟨12 + q, 12 + q⟩
def quadFields (q : Nat) : List Fld := [levelField q, throttleField q, heldField q]

theorem quadFields_apart {q j : Nat} (hq : q < 4) (hj : j < 4) (h : q ≠ j) : ∀ f ∈ quadFields q, ∀ g ∈ quadFields j, Apart f g := by
  simp only [quadFields, levelField, throttleField, heldField, Apart, List.forall_mem_cons, List.not_mem_nil, false_imp_iff,
    implies_true, and_true]
  omega

theorem mem_quadFields (q : Nat) : levelField q ∈ quadFields q ∧ throttleField q ∈ quadFields q ∧ heldField q ∈ quadFields q := by
  simp [quadFields]

theorem quadFields_hi {q : Nat} (hq : q < 4) : ∀ f ∈ quadFields q, f.hi < 64 := by
  simp only [quadFields, levelField, throttleField, heldField, List.forall_mem_cons, List.not_mem_nil, false_imp_iff, implies_true, and_true]
  omega

/-- The three fields of one quadrant share no bit. -/
theorem ownFields_apart {q : Nat} (hq : q < 4) :
    Apart (levelField q) (throttleField q) ∧ Apart (heldField q) (levelField q) ∧ Apart (heldField q) (throttleField q) := by
  simp only [levelField, throttleField, heldField, Apart]
  omega

/-- `u` comes from `s` by operations of quadrant `q` that move its fields of THERM.STAT and its current's flag, and raise events. -/
structure QuadMoves (q : Nat) (s u : State) : Prop where
  reg : ∀ o, o ≠ R.THERM_STAT → o ≠ R.THERM_IRQ → u.reg o = s.reg o
  stat : ∀ f, (∀ g ∈ quadFields q, Apart f g) → u.fld R.THERM_STAT f = s.fld R.THERM_STAT f
  irq : ∀ k, bit (s.reg R.THERM_IRQ) k = true → bit (u.reg R.THERM_IRQ) k = true
  amps : ∀ j, j ≠ quadNo q → u.power.overAmps[j] = s.power.overAmps[j]
  tripped : u.power.tripped = s.power.tripped
  flash : u.flash = s.flash

/-- Steps of the other quadrants leave what quadrant `q` shows and reads. -/
structure QuadKept (q : Nat) (s u : State) : Prop where
  reg : ∀ o, o ≠ R.THERM_STAT → o ≠ R.THERM_IRQ → (∀ j, j ≠ q → o ≠ R.MON_QTEMP j) → u.reg o = s.reg o
  stat : ∀ f ∈ quadFields q, u.fld R.THERM_STAT f = s.fld R.THERM_STAT f
  irq : ∀ k, bit (s.reg R.THERM_IRQ) k = true → bit (u.reg R.THERM_IRQ) k = true
  amps : u.power.overAmps[quadNo q] = s.power.overAmps[quadNo q]

section
variable {q : Nat} {s t u : State}

theorem QuadMoves.refl (q : Nat) (s : State) : QuadMoves q s s :=
  ⟨fun _ _ _ => rfl, fun _ _ => rfl, fun _ h => h, fun _ _ => rfl, rfl, rfl⟩

theorem QuadMoves.trans (h : QuadMoves q s t) (k : QuadMoves q t u) : QuadMoves q s u :=
  ⟨fun o h1 h2 => (k.reg o h1 h2).trans (h.reg o h1 h2), fun f hf => (k.stat f hf).trans (h.stat f hf),
    fun i hi => k.irq i (h.irq i hi), fun j hj => (k.amps j hj).trans (h.amps j hj), k.tripped.trans h.tripped, k.flash.trans h.flash⟩

theorem QuadMoves.ite {c : Prop} [Decidable c] (h : QuadMoves q s t) (k : QuadMoves q s u) : QuadMoves q s (if c then t else u) := by
  split
  · exact h
  · exact k

theorem QuadKept.refl (q : Nat) (s : State) : QuadKept q s s := ⟨fun _ _ _ _ => rfl, fun _ _ => rfl, fun _ h => h, rfl⟩

theorem QuadKept.trans (h : QuadKept q s t) (k : QuadKept q t u) : QuadKept q s u :=
  ⟨fun o h1 h2 h3 => (k.reg o h1 h2 h3).trans (h.reg o h1 h2 h3), fun f hf => (k.stat f hf).trans (h.stat f hf),
    fun i hi => k.irq i (h.irq i hi), k.amps.trans h.amps⟩

theorem QuadMoves.kept {j : Nat} (h : QuadMoves j s u) (hq : q < 4) (hj : j < 4) (hne : j ≠ q) : QuadKept q s u := by
  refine ⟨fun o h1 h2 _ => h.reg o h1 h2, fun f hf => h.stat f (quadFields_apart hq hj hne.symm f hf), h.irq, h.amps _ ?_⟩
  simp only [quadNo, ne_eq, Fin.mk.injEq]
  omega

theorem QuadKept.fld (h : QuadKept q s u) {o : Nat} (f : Fld) (h1 : o ≠ R.THERM_STAT) (h2 : o ≠ R.THERM_IRQ)
    (h3 : ∀ j, j ≠ q → o ≠ R.MON_QTEMP j) : u.fld o f = s.fld o f := State.fld_congr f (h.reg o h1 h2 h3)

theorem QuadKept.level (h : QuadKept q s u) : quadLevel u q = quadLevel s q := h.stat _ (mem_quadFields q).1
theorem QuadKept.throttle (h : QuadKept q s u) : u.fld R.THERM_STAT (throttleField q) = s.fld R.THERM_STAT (throttleField q) :=
  h.stat _ (mem_quadFields q).2.1
theorem QuadKept.held (h : QuadKept q s u) : u.fld R.THERM_STAT (heldField q) = s.fld R.THERM_STAT (heldField q) :=
  h.stat _ (mem_quadFields q).2.2

/-! ### The steps that a quadrant's step is made of -/

theorem quadMoves_thermEvent (q : Nat) {ev : Nat} (hev : ev < 64) : QuadMoves q s (thermEvent s ev) := by
  obtain ⟨power, flash, -⟩ := eventKeeps_thermEvent (s := s) ev
  exact ⟨fun o _ h => reg_thermEvent_of_ne h, fun f _ => State.fld_congr f (reg_thermEvent_of_ne (by decide)),
    fun k hk => by rw [bit_irq_thermEvent hev, hk, Bool.or_true], fun j _ => by rw [power], by rw [power], flash⟩

theorem quadMoves_setStat (hq : q < 4) {f : Fld} {v : Nat} (hf : f ∈ quadFields q) : QuadMoves q s (s.setFld R.THERM_STAT f v) :=
  ⟨fun _ h _ => State.reg_setFld_of_ne h, fun _ h => State.fld_setFld_of_apart (quadFields_hi hq f hf) (h f hf),
    fun _ hk => by rw [State.reg_setFld_of_ne (by decide)]; exact hk, fun _ _ => rfl, rfl, rfl⟩

theorem quadMoves_setOver (b : Bool) : QuadMoves q s (s.updPower (fun p => { p with overAmps := p.overAmps.set (quadNo q) b })) := by
  refine ⟨fun _ _ _ => rfl, fun _ _ => rfl, fun _ h => h, fun j hj => ?_, rfl, rfl⟩
  have hne : (quadNo q).val ≠ j.val := fun h => hj (Fin.ext h.symm)
  exact Vector.getElem_set_ne (quadNo q).isLt j.isLt hne

theorem quadMoves_beginThrottle (hq : q < 4) : QuadMoves q s (beginThrottle s q) := by
  unfold beginThrottle
  exact .ite (.refl q s) (QuadMoves.trans (quadMoves_setStat hq (mem_quadFields q).2.1) (quadMoves_thermEvent q (by decide)))

theorem stat_thermEvent (ev : Nat) (f : Fld) : (thermEvent s ev).fld R.THERM_STAT f = s.fld R.THERM_STAT f :=
  State.fld_congr f (reg_thermEvent_of_ne (by decide))

theorem stat_beginThrottle_self (hq : q < 4) : (beginThrottle s q).fld R.THERM_STAT (throttleField q) = 1 := by
  have hf := quadFields_hi hq _ (mem_quadFields q).2.1
  have fits : 1 < 2 ^ ((throttleField q).hi + 1 - (throttleField q).lo) := by simp [throttleField]
  unfold beginThrottle
  split
  next h => exact h
  next => exact (stat_thermEvent 3 _).trans (State.fld_setFld_self hf fits)

theorem stat_beginThrottle_of_apart (hq : q < 4) {f : Fld} (h : Apart f (throttleField q)) :
    (beginThrottle s q).fld R.THERM_STAT f = s.fld R.THERM_STAT f := by
  have hf := quadFields_hi hq _ (mem_quadFields q).2.1
  unfold beginThrottle
  split
  · rfl
  · exact (stat_thermEvent 3 _).trans (State.fld_setFld_of_apart hf h)

/-! ### A quadrant after its sensors were read (R600–R602) -/

def quadSensors (q : Nat) : List Nat := (List.range 40).map (fun k => 40 * q + k)
/-- The valid sensors of quadrant `q`. -/
def quadGood (s : State) (q : Nat) : List Nat := (quadSensors q).filter (fun i => !s.flag (R.MON_DIETEMP i) F.MON_DIETEMP_FAIL)
def quadHeld (s : State) (q : Nat) : Bool := decide (4 < (quadSensors q).length - (quadGood s q).length)
/-- The highest reading of the valid sensors. -/
def quadMax (s : State) (q : Nat) : Nat :=
  ((quadGood s q).map (fun i => s.fld (R.MON_DIETEMP i) F.MON_DIETEMP_TEMP)).foldl max 0

def showTemp (s : State) (q : Nat) : State :=
  if quadGood s q = [] then s else s.setFld (R.MON_QTEMP q) F.MON_QTEMP_TEMP (quadMax s q)
def showHeld (s : State) (q : Nat) (held : Bool) : State :=
  if held && decide (s.fld R.THERM_STAT (heldField q) = 0) then thermEvent (s.setFld R.THERM_STAT (heldField q) (boolNat held)) 5
  else s.setFld R.THERM_STAT (heldField q) (boolNat held)
def enterLevel (s : State) (q old new : Nat) : State :=
  if old < new then thermEvent (s.setFld R.THERM_STAT (levelField q) new) (new - 1) else s.setFld R.THERM_STAT (levelField q) new
def showLevel (s : State) (q old new : Nat) : State :=
  if new = 3 then beginThrottle (enterLevel s q old new) q else enterLevel s q old new
/-- The level that a sample brings, from the temperature that `s` shows. -/
def nextLevel (s : State) (q : Nat) (held : Bool) : Nat :=
  if held then 2
  else dieLevel (s.fld R.THERM_CFG F.THERM_CFG_DWARM) (s.fld R.THERM_CFG F.THERM_CFG_DHOT) (s.fld R.THERM_CFG F.THERM_CFG_DCRIT) (quadLevel s q)
    (s.fld (R.MON_QTEMP q) F.MON_QTEMP_TEMP)

theorem quadStep_eq (s : State) (q : Nat) :
    quadStep s q = showLevel (showHeld (showTemp s q) q (quadHeld s q)) q (quadLevel (showTemp s q) q)
      (nextLevel (showTemp s q) q (quadHeld s q)) := rfl

/-! #### The parts of the step -/

theorem quadMoves_showHeld (hq : q < 4) (held : Bool) : QuadMoves q s (showHeld s q held) := by
  have set : QuadMoves q s (s.setFld R.THERM_STAT (heldField q) (boolNat held)) := quadMoves_setStat hq (mem_quadFields q).2.2
  exact .ite (set.trans (quadMoves_thermEvent q (by decide))) set

theorem stat_showHeld (held : Bool) (f : Fld) :
    (showHeld s q held).fld R.THERM_STAT f = (s.setFld R.THERM_STAT (heldField q) (boolNat held)).fld R.THERM_STAT f := by
  unfold showHeld
  split
  · exact stat_thermEvent 5 f
  · rfl

theorem held_showHeld (hq : q < 4) (held : Bool) : (showHeld s q held).fld R.THERM_STAT (heldField q) = boolNat held := by
  have fits : boolNat held < 2 ^ ((heldField q).hi + 1 - (heldField q).lo) := by cases held <;> simp [heldField, boolNat]
  rw [stat_showHeld, State.fld_setFld_self (quadFields_hi hq _ (mem_quadFields q).2.2) fits]

/-- A quadrant that is newly held at Hot raises SENSFAIL. -/
theorem irq_showHeld (h : s.fld R.THERM_STAT (heldField q) = 0) : bit ((showHeld s q true).reg R.THERM_IRQ) 5 = true := by
  unfold showHeld
  rw [h, if_pos (by decide), bit_irq_thermEvent (by decide)]
  rfl

theorem quadMoves_enterLevel (hq : q < 4) {old new : Nat} (hn : new < 4) : QuadMoves q s (enterLevel s q old new) := by
  have set : QuadMoves q s (s.setFld R.THERM_STAT (levelField q) new) := quadMoves_setStat hq (mem_quadFields q).1
  exact .ite (set.trans (quadMoves_thermEvent q (by omega))) set

theorem stat_enterLevel (old new : Nat) (f : Fld) :
    (enterLevel s q old new).fld R.THERM_STAT f = (s.setFld R.THERM_STAT (levelField q) new).fld R.THERM_STAT f := by
  unfold enterLevel
  split
  · exact stat_thermEvent _ f
  · rfl

theorem quadMoves_showLevel (hq : q < 4) {old new : Nat} (hn : new < 4) : QuadMoves q s (showLevel s q old new) :=
  .ite ((quadMoves_enterLevel hq hn).trans (quadMoves_beginThrottle hq)) (quadMoves_enterLevel hq hn)

theorem stat_showLevel_of_apart (hq : q < 4) (old new : Nat) {f : Fld} (h : Apart f (throttleField q)) :
    (showLevel s q old new).fld R.THERM_STAT f = (s.setFld R.THERM_STAT (levelField q) new).fld R.THERM_STAT f := by
  unfold showLevel
  split
  · exact (stat_beginThrottle_of_apart hq h).trans (stat_enterLevel old new f)
  · exact stat_enterLevel old new f

theorem level_showLevel (hq : q < 4) {old new : Nat} (hn : new < 4) : quadLevel (showLevel s q old new) q = new := by
  have fits : new < 2 ^ ((levelField q).hi + 1 - (levelField q).lo) := by
    have width : 2 * q + 1 + 1 - 2 * q = 2 := by omega
    simpa [levelField, width] using hn
  exact (stat_showLevel_of_apart hq old new (ownFields_apart hq).1).trans
    (State.fld_setFld_self (quadFields_hi hq _ (mem_quadFields q).1) fits)

theorem held_showLevel (hq : q < 4) (old new : Nat) :
    (showLevel s q old new).fld R.THERM_STAT (heldField q) = s.fld R.THERM_STAT (heldField q) :=
  (stat_showLevel_of_apart hq old new (ownFields_apart hq).2.2).trans
    (State.fld_setFld_of_apart (quadFields_hi hq _ (mem_quadFields q).1) (ownFields_apart hq).2.1)

theorem throttle_showLevel (hq : q < 4) (old : Nat) : (showLevel s q old 3).fld R.THERM_STAT (throttleField q) = 1 :=
  stat_beginThrottle_self hq

/-- A level that rises raises the event of the level it enters. -/
theorem irq_showLevel (hq : q < 4) {old new : Nat} (hn : new < 4) (h : old < new) :
    bit ((showLevel s q old new).reg R.THERM_IRQ) (new - 1) = true := by
  have entered : bit ((enterLevel s q old new).reg R.THERM_IRQ) (new - 1) = true := by
    rw [enterLevel, if_pos h, bit_irq_thermEvent (by omega), decide_eq_true rfl, Bool.true_or]
  unfold showLevel
  split
  · exact (quadMoves_beginThrottle hq).irq _ entered
  · exact entered

theorem quadKept_showTemp {j : Nat} (hne : j ≠ q) (hj : j < 4) : QuadKept q s (showTemp s j) := by
  have apart : R.THERM_STAT ≠ R.MON_QTEMP j ∧ R.THERM_IRQ ≠ R.MON_QTEMP j := by
    simp only [R.THERM_STAT, R.THERM_IRQ, R.MON_QTEMP]
    omega
  unfold showTemp
  split
  · exact .refl q s
  · exact ⟨fun _ _ _ h => State.reg_setFld_of_ne (h j hne), fun f _ => State.fld_congr f (State.reg_setFld_of_ne apart.1),
      fun _ hk => by rw [State.reg_setFld_of_ne apart.2]; exact hk, rfl⟩

theorem reg_showTemp {o : Nat} (h : o ≠ R.MON_QTEMP q) : (showTemp s q).reg o = s.reg o := by
  unfold showTemp
  split
  · rfl
  · exact State.reg_setFld_of_ne h

theorem dieLevel_normal (w h c t : Nat) :
    dieLevel w h c 0 t = if c ≤ t then 3 else if h ≤ t then 2 else if w ≤ t then 1 else 0 := rfl
theorem dieLevel_warm (w h c t : Nat) :
    dieLevel w h c 1 t = if c ≤ t then 3 else if h ≤ t then 2 else if t + 12 ≤ w then 0 else 1 := rfl
theorem dieLevel_hot (w h c t : Nat) :
    dieLevel w h c 2 t = if c ≤ t then 3 else if t + 12 ≤ h then (if t + 12 ≤ w then 0 else 1) else 2 := rfl
theorem dieLevel_critical (w h c l t : Nat) :
    dieLevel w h c (l + 3) t =
      if c ≤ t then 3 else if t < h then (if t + 12 ≤ h then (if t + 12 ≤ w then 0 else 1) else 2) else 3 := rfl

theorem dieLevel_lt (w h c l t : Nat) : dieLevel w h c l t < 4 := by
  match l with
  | 0 => rw [dieLevel_normal]; split_ifs <;> decide
  | 1 => rw [dieLevel_warm]; split_ifs <;> decide
  | 2 => rw [dieLevel_hot]; split_ifs <;> decide
  | l + 3 => rw [dieLevel_critical]; split_ifs <;> decide

theorem nextLevel_lt (s : State) (q : Nat) (held : Bool) : nextLevel s q held < 4 := by
  unfold nextLevel
  split
  · decide
  · exact dieLevel_lt _ _ _ _ _

/-- The highest reading is that of a valid sensor, and none is above it. -/
theorem quadMax_spec (h : quadGood s q ≠ []) :
    (∃ i ∈ quadGood s q, quadMax s q = s.fld (R.MON_DIETEMP i) F.MON_DIETEMP_TEMP) ∧
      ∀ i ∈ quadGood s q, s.fld (R.MON_DIETEMP i) F.MON_DIETEMP_TEMP ≤ quadMax s q := by
  have isMax : ((quadGood s q).map (fun i => s.fld (R.MON_DIETEMP i) F.MON_DIETEMP_TEMP)).max? = some (quadMax s q) := by
    unfold quadMax
    cases hl : quadGood s q with
    | nil => exact absurd hl h
    | cons a l => rw [List.map_cons, List.max?_cons', List.foldl_cons, Nat.zero_max]
  obtain ⟨hmem, hle⟩ := List.max?_eq_some_iff.mp isMax
  obtain ⟨i, hi, heq⟩ := List.mem_map.mp hmem
  exact ⟨⟨i, hi, heq.symm⟩, fun i hi => hle _ (List.mem_map_of_mem hi)⟩

end

section
variable {q : Nat} {s t u : State}

/-- `u` shows quadrant `q` as its sensors have been read in `u`, and its level as R600 to R602 take it from `s`. -/
structure QuadShows (s u : State) (q : Nat) : Prop where
  temp : quadGood u q ≠ [] →
    (∃ i ∈ quadGood u q, u.fld (R.MON_QTEMP q) F.MON_QTEMP_TEMP = u.fld (R.MON_DIETEMP i) F.MON_DIETEMP_TEMP) ∧
      ∀ i ∈ quadGood u q, u.fld (R.MON_DIETEMP i) F.MON_DIETEMP_TEMP ≤ u.fld (R.MON_QTEMP q) F.MON_QTEMP_TEMP
  held : u.fld R.THERM_STAT (heldField q) = if (quadGood u q).length < 36 then 1 else 0
  hot : (quadGood u q).length < 36 →
    quadLevel u q = 2 ∧ (s.fld R.THERM_STAT (heldField q) = 0 → bit (u.reg R.THERM_IRQ) 5 = true)
  level : 36 ≤ (quadGood u q).length →
    quadLevel u q = dieLevel (s.fld R.THERM_CFG F.THERM_CFG_DWARM) (s.fld R.THERM_CFG F.THERM_CFG_DHOT) (s.fld R.THERM_CFG F.THERM_CFG_DCRIT)
      (quadLevel s q) (u.fld (R.MON_QTEMP q) F.MON_QTEMP_TEMP)
  throttle : quadLevel u q = 3 → u.fld R.THERM_STAT (throttleField q) = 1
  event : quadLevel s q < quadLevel u q → bit (u.reg R.THERM_IRQ) (quadLevel u q - 1) = true

theorem quadGood_congr (hq : q < 4) (h : ∀ i, i < 160 → u.reg (R.MON_DIETEMP i) = s.reg (R.MON_DIETEMP i)) : quadGood u q = quadGood s q := by
  refine List.filter_congr fun i hi => ?_
  obtain ⟨k, hk, rfl⟩ := List.mem_map.mp hi
  have hk := List.mem_range.mp hk
  rw [State.flag_congr _ (State.fld_congr F.MON_DIETEMP_FAIL (h _ (by omega)))]

theorem lt_of_mem_quadGood (hq : q < 4) : ∀ i ∈ quadGood s q, i < 160 := by
  intro i hi
  obtain ⟨k, hk, rfl⟩ := List.mem_map.mp (List.mem_filter.mp hi).1
  have hk := List.mem_range.mp hk
  omega

theorem quadHeld_eq (s : State) (q : Nat) : quadHeld s q = decide ((quadGood s q).length < 36) := by
  have len : (quadSensors q).length = 40 := by rw [quadSensors, List.length_map, List.length_range]
  have le : (quadGood s q).length ≤ 40 := len ▸ List.length_filter_le _ _
  rw [quadHeld, len, decide_eq_decide]
  omega

/-- The registers that a sample reads are none of those that show what it brings. -/
theorem dietemp_ne (i : Nat) : R.MON_DIETEMP i ≠ R.THERM_STAT ∧ R.MON_DIETEMP i ≠ R.THERM_IRQ ∧ R.MON_DIETEMP i ≠ R.THERM_CFG := by
  simp only [R.MON_DIETEMP, R.THERM_STAT, R.THERM_IRQ, R.THERM_CFG]
  omega

theorem dietemp_ne_qtemp {i : Nat} (hi : i < 160) (j : Nat) : R.MON_DIETEMP i ≠ R.MON_QTEMP j := by
  simp only [R.MON_DIETEMP, R.MON_QTEMP]
  omega

theorem qtemp_ne (q : Nat) : R.MON_QTEMP q ≠ R.THERM_STAT ∧ R.MON_QTEMP q ≠ R.THERM_IRQ ∧ R.MON_QTEMP q ≠ R.THERM_CFG := by
  simp only [R.MON_QTEMP, R.THERM_STAT, R.THERM_IRQ, R.THERM_CFG]
  omega

theorem qtemp_inj {q j : Nat} (h : j ≠ q) : R.MON_QTEMP q ≠ R.MON_QTEMP j := by
  simp only [R.MON_QTEMP]
  omega

theorem QuadKept.dietemp (k : QuadKept q s u) {i : Nat} (hi : i < 160) : u.reg (R.MON_DIETEMP i) = s.reg (R.MON_DIETEMP i) :=
  k.reg _ (dietemp_ne i).1 (dietemp_ne i).2.1 (fun j _ => dietemp_ne_qtemp hi j)

theorem QuadKept.qtemp (k : QuadKept q s u) : u.reg (R.MON_QTEMP q) = s.reg (R.MON_QTEMP q) :=
  k.reg _ (qtemp_ne q).1 (qtemp_ne q).2.1 (fun _ h => qtemp_inj h)

/-- What the other quadrants' steps do afterwards is not seen. -/
theorem QuadShows.of_kept (hq : q < 4) (h : QuadShows s t q) (k : QuadKept q t u) : QuadShows s u q := by
  have good : quadGood u q = quadGood t q := quadGood_congr hq fun i hi => k.dietemp hi
  have qtemp : u.fld (R.MON_QTEMP q) F.MON_QTEMP_TEMP = t.fld (R.MON_QTEMP q) F.MON_QTEMP_TEMP := State.fld_congr _ k.qtemp
  have temp : ∀ i ∈ quadGood t q, u.fld (R.MON_DIETEMP i) F.MON_DIETEMP_TEMP = t.fld (R.MON_DIETEMP i) F.MON_DIETEMP_TEMP :=
    fun i hi => State.fld_congr _ (k.dietemp (lt_of_mem_quadGood hq i hi))
  refine ⟨?_, ?_, ?_, ?_, ?_, ?_⟩
  · rw [good, qtemp]
    intro hne
    obtain ⟨⟨i, hi, heq⟩, hle⟩ := h.temp hne
    exact ⟨⟨i, hi, heq.trans (temp i hi).symm⟩, fun i hi => (temp i hi).symm ▸ hle i hi⟩
  · rw [good, k.held]
    exact h.held
  · rw [good, k.level]
    exact fun hlt => ⟨(h.hot hlt).1, fun h0 => k.irq _ ((h.hot hlt).2 h0)⟩
  · rw [good, k.level, qtemp]
    exact h.level
  · rw [k.level, k.throttle]
    exact h.throttle
  · rw [k.level]
    exact fun hlt => k.irq _ (h.event hlt)

/-- Of the state before, the level, SENSFAIL and the thresholds are seen. -/
theorem QuadShows.of_before (h : QuadShows t u q) (hlev : quadLevel t q = quadLevel s q)
    (hheld : t.fld R.THERM_STAT (heldField q) = s.fld R.THERM_STAT (heldField q)) (hcfg : t.reg R.THERM_CFG = s.reg R.THERM_CFG) :
    QuadShows s u q := by
  obtain ⟨temp, held, hot, level, throttle, event⟩ := h
  rw [hlev, State.fld_congr _ hcfg, State.fld_congr _ hcfg, State.fld_congr _ hcfg] at level
  rw [hheld] at hot
  rw [hlev] at event
  exact ⟨temp, held, hot, level, throttle, event⟩

/-- The step of a quadrant shows what its sensors read. -/
theorem quadShows_quadStep (hq : q < 4) (s : State) : QuadShows s (quadStep s q) q := by
  set held := quadHeld s q with hheld
  set t := showTemp s q with ht
  set old := quadLevel t q with hold
  set new := nextLevel t q held with hnew
  have hlt : new < 4 := nextLevel_lt t q held
  have step : quadStep s q = showLevel (showHeld t q held) q old new := quadStep_eq s q
  have moves : QuadMoves q t (quadStep s q) := step ▸ (quadMoves_showHeld hq held).trans (quadMoves_showLevel hq hlt)
  have dietemp : ∀ i, i < 160 → (quadStep s q).reg (R.MON_DIETEMP i) = s.reg (R.MON_DIETEMP i) := fun i hi =>
    (moves.reg _ (dietemp_ne i).1 (dietemp_ne i).2.1).trans (reg_showTemp (dietemp_ne_qtemp hi q))
  have stat : t.reg R.THERM_STAT = s.reg R.THERM_STAT := reg_showTemp (qtemp_ne q).1.symm
  have cfg : t.reg R.THERM_CFG = s.reg R.THERM_CFG := reg_showTemp (qtemp_ne q).2.2.symm
  have good : quadGood (quadStep s q) q = quadGood s q := quadGood_congr hq dietemp
  have qtemp : (quadStep s q).fld (R.MON_QTEMP q) F.MON_QTEMP_TEMP = t.fld (R.MON_QTEMP q) F.MON_QTEMP_TEMP :=
    State.fld_congr _ (moves.reg _ (qtemp_ne q).1 (qtemp_ne q).2.1)
  have level : quadLevel (quadStep s q) q = new := by rw [step, level_showLevel hq hlt]
  have oldLevel : old = quadLevel s q := State.fld_congr (levelField q) stat
  have heldIff : held = decide ((quadGood s q).length < 36) := quadHeld_eq s q
  refine ⟨?_, ?_, ?_, ?_, ?_, ?_⟩
  · rw [good, qtemp]
    intro hne
    obtain ⟨⟨i, hi, heq⟩, hle⟩ := quadMax_spec hne
    have temp : ∀ i ∈ quadGood s q, (quadStep s q).fld (R.MON_DIETEMP i) F.MON_DIETEMP_TEMP = s.fld (R.MON_DIETEMP i) F.MON_DIETEMP_TEMP :=
      fun i hi => State.fld_congr _ (dietemp i (lt_of_mem_quadGood hq i hi))
    have shown : t.fld (R.MON_QTEMP q) F.MON_QTEMP_TEMP = quadMax s q := by
      rw [ht, showTemp, if_neg hne, State.fld_setFld_self (by decide) (heq ▸ getF_lt _ F.MON_DIETEMP_TEMP)]
    rw [shown]
    exact ⟨⟨i, hi, heq.trans (temp i hi).symm⟩, fun i hi => (temp i hi).symm ▸ hle i hi⟩
  · rw [good, step, held_showLevel hq, held_showHeld hq, heldIff]
    by_cases h : (quadGood s q).length < 36 <;> simp [h, boolNat]
  · rw [good, level]
    intro h
    have isHeld : held = true := heldIff.trans (decide_eq_true h)
    refine ⟨by rw [hnew, nextLevel, isHeld, if_pos rfl], fun h0 => ?_⟩
    rw [step, isHeld]
    exact (quadMoves_showLevel hq hlt).irq _ (irq_showHeld ((State.fld_congr _ stat).trans h0))
  · rw [good, level, qtemp]
    intro h
    have notHeld : held = false := heldIff.trans (decide_eq_false (Nat.not_lt.mpr h))
    rw [hnew, nextLevel, notHeld, if_neg Bool.false_ne_true, ← hold, oldLevel, State.fld_congr _ cfg, State.fld_congr _ cfg, State.fld_congr _ cfg]
  · rw [level]
    intro h
    rw [step, h, throttle_showLevel hq]
  · rw [level, ← oldLevel]
    intro h
    rw [step]
    exact irq_showLevel hq hlt h

end

section
variable {s t u : State}

/-! ### A sample of the die sensors (R600–R603, R605) -/

/-- The register of a sensor goes from `w` to `v` with a reading; a reading above 150 °C and no reading exclude the sensor (R602). -/
def SensorRead (w v : Word) (reading : Option (BitVec 10)) : Prop :=
  (reading = none → decide (getF v F.MON_DIETEMP_FAIL ≠ 0) = true ∧ getF v F.MON_DIETEMP_TEMP = getF w F.MON_DIETEMP_TEMP) ∧
  (∀ x, reading = some x → getF v F.MON_DIETEMP_TEMP = x.toNat ∧ decide (getF v F.MON_DIETEMP_FAIL ≠ 0) = decide (600 < x.toNat) ∧
    getF v F.MON_DIETEMP_MAX = if x.toNat ≤ 600 then max x.toNat (getF w F.MON_DIETEMP_MAX) else getF w F.MON_DIETEMP_MAX)

theorem reg_sensorStep_of_ne {i o : Nat} (x : Option (BitVec 10)) (h : o ≠ R.MON_DIETEMP i) : (sensorStep s i x).reg o = s.reg o := by
  unfold sensorStep
  cases x with
  | none => exact State.reg_setFld_of_ne h
  | some x =>
    dsimp only
    split
    · rw [State.reg_setFld_of_ne h, State.reg_setFld_of_ne h]
    · rw [State.reg_setFld_of_ne h, State.reg_setFld_of_ne h, State.reg_setFld_of_ne h]

theorem eventKeeps_sensorStep (i : Nat) (x : Option (BitVec 10)) : EventKeeps s (sensorStep s i x) := by
  unfold sensorStep
  cases x with
  | none => exact eventKeeps_setFld _ _ _
  | some x =>
    dsimp only
    split
    · exact (eventKeeps_setFld _ _ _).trans (eventKeeps_setFld _ _ _)
    · exact ((eventKeeps_setFld _ _ _).trans (eventKeeps_setFld _ _ _)).trans (eventKeeps_setFld _ _ _)

theorem dietempFields_apart : Apart F.MON_DIETEMP_TEMP F.MON_DIETEMP_FAIL ∧ Apart F.MON_DIETEMP_TEMP F.MON_DIETEMP_MAX ∧
    Apart F.MON_DIETEMP_FAIL F.MON_DIETEMP_MAX := by
  simp only [Apart, F.MON_DIETEMP_TEMP, F.MON_DIETEMP_FAIL, F.MON_DIETEMP_MAX]
  omega

theorem sensorRead_sensorStep (i : Nat) (x : Option (BitVec 10)) :
    SensorRead (s.reg (R.MON_DIETEMP i)) ((sensorStep s i x).reg (R.MON_DIETEMP i)) x := by
  obtain ⟨tempFail, tempMax, failMax⟩ := dietempFields_apart
  have hTemp : F.MON_DIETEMP_TEMP.hi < 64 := by decide
  have hFail : F.MON_DIETEMP_FAIL.hi < 64 := by decide
  have hMax : F.MON_DIETEMP_MAX.hi < 64 := by decide
  generalize hw : s.reg (R.MON_DIETEMP i) = w
  cases x with
  | none =>
    have step : (sensorStep s i none).reg (R.MON_DIETEMP i) = putF w F.MON_DIETEMP_FAIL 1 := by
      rw [← hw]
      exact State.reg_setReg_self s _ _
    rw [step]
    refine ⟨fun _ => ⟨?_, getF_putF_of_apart hFail tempFail⟩, nofun⟩
    rw [getF_putF hFail (by decide)]
    rfl
  | some x =>
    refine ⟨nofun, fun y hy => ?_⟩
    cases hy
    have fits : x.toNat < 2 ^ 10 := x.isLt
    by_cases high : 600 < x.toNat
    · have step : (sensorStep s i (some x)).reg (R.MON_DIETEMP i) = putF (putF w F.MON_DIETEMP_TEMP x.toNat) F.MON_DIETEMP_FAIL 1 := by
        rw [sensorStep, if_pos high, State.reg_setFld_self, State.reg_setFld_self, hw]
      rw [step, getF_putF_of_apart hFail tempFail, getF_putF hTemp fits, getF_putF hFail (by decide),
        getF_putF_of_apart hFail failMax.symm, getF_putF_of_apart hTemp tempMax.symm, if_neg (Nat.not_le.mpr high), decide_eq_true high]
      exact ⟨rfl, rfl, rfl⟩
    · have step : (sensorStep s i (some x)).reg (R.MON_DIETEMP i) =
          putF (putF (putF w F.MON_DIETEMP_TEMP x.toNat) F.MON_DIETEMP_FAIL 0) F.MON_DIETEMP_MAX (max x.toNat (getF w F.MON_DIETEMP_MAX)) := by
        rw [sensorStep, if_neg high, State.reg_setFld_self, State.reg_setFld_self, State.reg_setFld_self, hw,
          State.fld_setFld_of_apart hTemp tempMax.symm, State.fld, hw]
      have top : max x.toNat (getF w F.MON_DIETEMP_MAX) < 2 ^ 10 := max_lt fits (getF_lt _ F.MON_DIETEMP_MAX)
      rw [step, getF_putF_of_apart hMax tempMax, getF_putF_of_apart hFail tempFail, getF_putF hTemp fits, getF_putF_of_apart hMax failMax,
        getF_putF hFail (by decide), getF_putF hMax top, if_pos (Nat.not_lt.mp high), decide_eq_false high]
      exact ⟨rfl, rfl, rfl⟩

/-- The three stages of a sample: every sensor, every quadrant, and the trip. -/
def sensorSteps (s : State) (temps : List (Option (BitVec 10))) : State :=
  (List.range 160).foldl (fun z i => sensorStep z i (temps.getD i none)) s
def quadSteps (s : State) : State := (List.range 4).foldl quadStep s
/-- A valid sensor reads 115 °C or more. -/
def trips (s : State) (i : Nat) : Bool :=
  !s.flag (R.MON_DIETEMP i) F.MON_DIETEMP_FAIL && decide (460 ≤ s.fld (R.MON_DIETEMP i) F.MON_DIETEMP_TEMP)
def tripStep (s : State) : State :=
  match (List.range 160).find? (trips s) with
  | some i => thermTrip s 1 i
  | none => s

theorem dieSample_eq (s : State) (temps : List (Option (BitVec 10))) : dieSample s temps = tripStep (quadSteps (sensorSteps s temps)) := rfl

theorem sensorRead_sensorSteps (temps : List (Option (BitVec 10))) {i : Nat} (hi : i < 160) :
    SensorRead (s.reg (R.MON_DIETEMP i)) ((sensorSteps s temps).reg (R.MON_DIETEMP i)) (temps.getD i none) := by
  have apart : ∀ j, j ≠ i → R.MON_DIETEMP i ≠ R.MON_DIETEMP j := by
    simp only [R.MON_DIETEMP]
    omega
  obtain ⟨z, before, after⟩ := foldl_range_around (Keeps := fun s u : State => u.reg (R.MON_DIETEMP i) = s.reg (R.MON_DIETEMP i))
    (fun _ => rfl) (fun h k => k.trans h) (f := fun z i => sensorStep z i (temps.getD i none))
    (fun z j _ hj => reg_sensorStep_of_ne _ (apart j hj)) hi s
  rw [← before, sensorSteps, after]
  exact sensorRead_sensorStep i _

theorem reg_sensorSteps_of_ne (temps : List (Option (BitVec 10))) {o : Nat} (h : ∀ i, o ≠ R.MON_DIETEMP i) :
    (sensorSteps s temps).reg o = s.reg o :=
  List.foldlRecOn (motive := fun u : State => u.reg o = s.reg o) _ _ rfl fun _ hz i _ => (reg_sensorStep_of_ne _ (h i)).trans hz

theorem eventKeeps_sensorSteps (temps : List (Option (BitVec 10))) : EventKeeps s (sensorSteps s temps) :=
  List.foldlRecOn (motive := EventKeeps s) _ _ (.refl s) fun _ hz i _ => hz.trans (eventKeeps_sensorStep i _)

theorem quadMoves_quadStep {q : Nat} (hq : q < 4) : QuadMoves q (showTemp s q) (quadStep s q) :=
  quadStep_eq s q ▸ (quadMoves_showHeld hq _).trans (quadMoves_showLevel hq (nextLevel_lt _ q _))

theorem quadKept_quadStep {q j : Nat} (hq : q < 4) (hj : j < 4) (hne : j ≠ q) : QuadKept q s (quadStep s j) :=
  (quadKept_showTemp hne hj).trans ((quadMoves_quadStep hj).kept hq hj hne)

theorem quadShows_quadSteps {q : Nat} (hq : q < 4) (s : State) : QuadShows s (quadSteps s) q := by
  obtain ⟨z, before, after⟩ := foldl_range_around (QuadKept.refl q) QuadKept.trans (f := quadStep)
    (fun z j hj hne => quadKept_quadStep hq hj hne) hq s
  exact ((quadShows_quadStep hq z).of_kept hq after).of_before before.level before.held
    (before.reg _ (by decide) (by decide) (fun j _ => (qtemp_ne j).2.2.symm))

theorem tripped_showTemp (q : Nat) : (showTemp s q).power.tripped = s.power.tripped ∧ (showTemp s q).flash = s.flash := by
  unfold showTemp
  split <;> exact ⟨rfl, rfl⟩

/-- The quadrants' steps leave the sensors' registers, the trip and flash. -/
theorem quadSteps_keeps (s : State) :
    (∀ i, i < 160 → (quadSteps s).reg (R.MON_DIETEMP i) = s.reg (R.MON_DIETEMP i)) ∧
      (quadSteps s).power.tripped = s.power.tripped ∧ (quadSteps s).flash = s.flash := by
  refine List.foldlRecOn (motive := fun u : State => (∀ i, i < 160 → u.reg (R.MON_DIETEMP i) = s.reg (R.MON_DIETEMP i)) ∧
    u.power.tripped = s.power.tripped ∧ u.flash = s.flash) _ _ ⟨fun _ _ => rfl, rfl, rfl⟩ fun z hz q hq => ?_
  obtain ⟨sensors, tripped, flash⟩ := hz
  have moves : QuadMoves q (showTemp z q) (quadStep z q) := quadMoves_quadStep (List.mem_range.mp hq)
  refine ⟨fun i hi => ?_, moves.tripped.trans ((tripped_showTemp q).1.trans tripped), moves.flash.trans ((tripped_showTemp q).2.trans flash)⟩
  rw [moves.reg _ (dietemp_ne i).1 (dietemp_ne i).2.1, reg_showTemp (dietemp_ne_qtemp hi q), sensors i hi]

theorem regs_tripStep (s : State) : (tripStep s).regs = s.regs := by
  unfold tripStep thermTrip
  split
  · split <;> rfl
  · rfl

theorem tripStep_of_none (h : ∀ i, i < 160 → trips s i = false) : tripStep s = s := by
  have none : (List.range 160).find? (trips s) = none := List.find?_range_eq_none.mpr fun i hi => by rw [h i hi]; rfl
  rw [tripStep, none]

/-- The first sensor at 115 °C is the one that flash keeps. -/
theorem tripStep_of_first {i : Nat} (hs : s.power.tripped = false) (hi : i < 160) (h : trips s i = true)
    (first : ∀ j, j < i → trips s j = false) :
    tripStep s = thermTrip s 1 i ∧ (tripStep s).power.tripped = true ∧ (tripStep s).flash = { s.flash with trip := (1, i) } ∧
      .pin .thermtrip false ∈ (tripStep s).out := by
  have found : (List.range 160).find? (trips s) = some i :=
    List.find?_range_eq_some.mpr ⟨h, List.mem_range.mpr hi, fun j hj => by rw [first j hj]; rfl⟩
  have step : tripStep s = thermTrip s 1 i := by rw [tripStep, found]
  refine ⟨step, ?_⟩
  rw [step, thermTrip, hs, if_neg Bool.false_ne_true]
  exact ⟨rfl, rfl, List.mem_append_right _ (List.mem_singleton.mpr rfl)⟩

theorem reg_tripStep (o : Nat) : (tripStep s).reg o = s.reg o := congrArg (SMap.get 0 · o) (regs_tripStep s)

theorem overAmps_tripStep (s : State) : (tripStep s).power.overAmps = s.power.overAmps := by
  unfold tripStep thermTrip
  split
  · split <;> rfl
  · rfl

theorem quadKept_tripStep (q : Nat) (s : State) : QuadKept q s (tripStep s) :=
  ⟨fun o _ _ _ => reg_tripStep o, fun f _ => State.fld_congr f (reg_tripStep _), fun _ h => by rw [reg_tripStep]; exact h,
    by rw [overAmps_tripStep]⟩

/-! #### The whole sample -/

variable (temps : List (Option (BitVec 10)))

theorem sensorRead_dieSample {i : Nat} (hi : i < 160) :
    SensorRead (s.reg (R.MON_DIETEMP i)) ((dieSample s temps).reg (R.MON_DIETEMP i)) (temps.getD i none) := by
  rw [dieSample_eq, reg_tripStep, (quadSteps_keeps _).1 i hi]
  exact sensorRead_sensorSteps temps hi

theorem quadShows_dieSample {q : Nat} (hq : q < 4) : QuadShows s (dieSample s temps) q := by
  have stat : (sensorSteps s temps).reg R.THERM_STAT = s.reg R.THERM_STAT := reg_sensorSteps_of_ne temps fun i => (dietemp_ne i).1.symm
  rw [dieSample_eq]
  exact ((quadShows_quadSteps hq _).of_kept hq (quadKept_tripStep q _)).of_before (State.fld_congr (levelField q) stat)
    (State.fld_congr _ stat) (reg_sensorSteps_of_ne temps fun i => (dietemp_ne i).2.2.symm)

/-- Before it can trip, a sample has left the trip and flash as they were. -/
theorem beforeTrip_keeps :
    (quadSteps (sensorSteps s temps)).power.tripped = s.power.tripped ∧ (quadSteps (sensorSteps s temps)).flash = s.flash := by
  obtain ⟨power, flash, -⟩ := eventKeeps_sensorSteps (s := s) temps
  obtain ⟨-, tripped, flash'⟩ := quadSteps_keeps (sensorSteps s temps)
  exact ⟨by rw [tripped, power], by rw [flash', flash]⟩

theorem trips_dieSample (i : Nat) : trips (dieSample s temps) i = trips (quadSteps (sensorSteps s temps)) i := by
  rw [dieSample_eq, trips, trips, State.flag, State.flag, State.fld_congr _ (reg_tripStep _), State.fld_congr _ (reg_tripStep _)]

theorem dieSample_cool (hs : s.power.tripped = false) (h : ∀ i, i < 160 → trips (dieSample s temps) i = false) :
    (dieSample s temps).power.tripped = false ∧ (dieSample s temps).flash = s.flash := by
  obtain ⟨tripped, flash⟩ := beforeTrip_keeps (s := s) temps
  rw [dieSample_eq, tripStep_of_none fun i hi => trips_dieSample temps i ▸ h i hi]
  exact ⟨tripped.trans hs, flash⟩

theorem dieSample_trips {i : Nat} (hs : s.power.tripped = false) (hi : i < 160) (h : trips (dieSample s temps) i = true)
    (first : ∀ j, j < i → trips (dieSample s temps) j = false) :
    (dieSample s temps).power.tripped = true ∧ (dieSample s temps).flash = { s.flash with trip := (1, i) } ∧
      .pin .thermtrip false ∈ (dieSample s temps).out := by
  obtain ⟨tripped, flash⟩ := beforeTrip_keeps (s := s) temps
  have trip := tripStep_of_first (tripped.trans hs) hi (trips_dieSample temps i ▸ h) fun j hj => trips_dieSample temps j ▸ first j hj
  rw [dieSample_eq, ← flash]
  exact trip.2

end

section
variable {s t u : State}

theorem State.reg_bump_self (s : State) (o n : Nat) : (s.bump o n).reg o = s.reg o + BitVec.ofNat 64 n := State.reg_setReg_self s _ _
theorem State.reg_bump_of_ne {o o' n : Nat} (h : o' ≠ o) : (s.bump o n).reg o' = s.reg o' := State.reg_setReg_of_ne s _ h

/-! ### Energy and current (R596, R601) -/

def energySteps (s : State) (uj : List Nat) : State := (List.range 12).foldl (fun z r => z.bump (R.PWR_ENERGY r) (uj.getD r 0)) s
/-- Quadrant `q` with its rail's current averaged over 2 µs. -/
def currentStep (amps : List Nat) (s : State) (q : Nat) : State :=
  if s.fld (R.PWR_ILIM q) F.PWR_ILIM_AMPS < amps.getD q 0 then
    beginThrottle (s.updPower (fun p => { p with overAmps := p.overAmps.set (quadNo q) true })) q
  else if amps.getD q 0 * 10 < s.fld (R.PWR_ILIM q) F.PWR_ILIM_AMPS * 9 then
    s.updPower (fun p => { p with overAmps := p.overAmps.set (quadNo q) false })
  else s
def currentSteps (s : State) (amps : List Nat) : State := (List.range 4).foldl (currentStep amps) s

theorem energyStep_eq (s : State) (uj amps : List Nat) : energyStep s uj amps = currentSteps (energySteps s uj) amps := rfl

theorem reg_energySteps (uj : List Nat) {r : Nat} (hr : r < 12) :
    (energySteps s uj).reg (R.PWR_ENERGY r) = s.reg (R.PWR_ENERGY r) + BitVec.ofNat 64 (uj.getD r 0) := by
  have apart : ∀ j, j ≠ r → R.PWR_ENERGY r ≠ R.PWR_ENERGY j := by
    simp only [R.PWR_ENERGY]
    omega
  exact foldl_range_view (view := fun u : State => u.reg (R.PWR_ENERGY r)) (g := fun w => w + BitVec.ofNat 64 (uj.getD r 0))
    (f := fun z r => z.bump (R.PWR_ENERGY r) (uj.getD r 0)) (fun _ j _ hj => State.reg_bump_of_ne (apart j hj))
    (fun z => State.reg_bump_self z _ _) hr s

/-- The energy of the rails reaches their counters alone. -/
theorem energySteps_keeps (uj : List Nat) :
    (∀ o, (∀ r, r < 12 → o ≠ R.PWR_ENERGY r) → (energySteps s uj).reg o = s.reg o) ∧ (energySteps s uj).power = s.power := by
  refine List.foldlRecOn (motive := fun u : State => (∀ o, (∀ r, r < 12 → o ≠ R.PWR_ENERGY r) → u.reg o = s.reg o) ∧
    u.power = s.power) _ _ ⟨fun _ _ => rfl, rfl⟩ fun z hz r hr => ⟨fun o ho => ?_, hz.2⟩
  exact (State.reg_bump_of_ne (ho r (List.mem_range.mp hr))).trans (hz.1 o ho)

/-- The current of quadrant `q` is at or below its limit in `s`, or above it: what `u` then shows. -/
structure CurrentShows (s u : State) (q amps limit : Nat) : Prop where
  above : limit < amps → u.power.overAmps[quadNo q] = true ∧ u.fld R.THERM_STAT (throttleField q) = 1
  below : amps ≤ limit → u.power.overAmps[quadNo q] = (s.power.overAmps[quadNo q] && decide (limit * 9 ≤ amps * 10)) ∧
    u.fld R.THERM_STAT (throttleField q) = s.fld R.THERM_STAT (throttleField q)

theorem CurrentShows.around {z : State} {q a lim : Nat} (before : QuadKept q s z) (h : CurrentShows z t q a lim) (after : QuadKept q t u) :
    CurrentShows s u q a lim := by
  obtain ⟨above, below⟩ := h
  rw [before.amps, before.throttle] at below
  constructor
  · rw [after.amps, after.throttle]
    exact above
  · rw [after.amps, after.throttle]
    exact below

theorem overAmps_set (q : Nat) (b : Bool) :
    (s.updPower (fun p => { p with overAmps := p.overAmps.set (quadNo q) b })).power.overAmps[quadNo q] = b :=
  Vector.getElem_set_self (quadNo q).isLt

theorem power_beginThrottle (q : Nat) : (beginThrottle s q).power = s.power := by
  unfold beginThrottle
  split
  · rfl
  · exact (eventKeeps_thermEvent 3).power

theorem currentShows_currentStep {q : Nat} (hq : q < 4) (amps : List Nat) :
    CurrentShows s (currentStep amps s q) q (amps.getD q 0) (s.fld (R.PWR_ILIM q) F.PWR_ILIM_AMPS) := by
  unfold currentStep
  constructor
  · intro h
    rw [if_pos h, power_beginThrottle]
    exact ⟨overAmps_set q true, stat_beginThrottle_self hq⟩
  · intro h
    rw [if_neg (Nat.not_lt.mpr h)]
    split
    next low => exact ⟨by rw [overAmps_set, decide_eq_false (Nat.not_le.mpr low), Bool.and_false], rfl⟩
    next high => exact ⟨by rw [decide_eq_true (Nat.not_lt.mp high), Bool.and_true], rfl⟩

theorem quadMoves_currentStep {q : Nat} (hq : q < 4) (amps : List Nat) : QuadMoves q s (currentStep amps s q) :=
  .ite ((quadMoves_setOver true).trans (quadMoves_beginThrottle hq)) (.ite (quadMoves_setOver false) (.refl q s))

theorem currentShows_currentSteps {q : Nat} (hq : q < 4) (amps : List Nat) (s : State) :
    CurrentShows s (currentSteps s amps) q (amps.getD q 0) (s.fld (R.PWR_ILIM q) F.PWR_ILIM_AMPS) := by
  have apart : ∀ j, R.PWR_ILIM q ≠ R.THERM_STAT ∧ R.PWR_ILIM q ≠ R.THERM_IRQ ∧ R.PWR_ILIM q ≠ R.MON_QTEMP j := by
    simp only [R.PWR_ILIM, R.THERM_STAT, R.THERM_IRQ, R.MON_QTEMP]
    omega
  obtain ⟨z, before, after⟩ := foldl_range_around (QuadKept.refl q) QuadKept.trans (f := currentStep amps)
    (fun z j hj hne => (quadMoves_currentStep hj amps).kept hq hj hne) hq s
  have lim : z.fld (R.PWR_ILIM q) F.PWR_ILIM_AMPS = s.fld (R.PWR_ILIM q) F.PWR_ILIM_AMPS :=
    before.fld _ (apart 0).1 (apart 0).2.1 fun j _ => (apart j).2.2
  exact lim ▸ (currentShows_currentStep hq amps).around before after

theorem reg_currentSteps (amps : List Nat) {o : Nat} (h1 : o ≠ R.THERM_STAT) (h2 : o ≠ R.THERM_IRQ) : (currentSteps s amps).reg o = s.reg o :=
  List.foldlRecOn (motive := fun u : State => u.reg o = s.reg o) _ _ rfl fun _ hz _ hq =>
    ((quadMoves_currentStep (List.mem_range.mp hq) amps).reg o h1 h2).trans hz

theorem energy_energyStep (uj amps : List Nat) {r : Nat} (hr : r < 12) :
    (energyStep s uj amps).reg (R.PWR_ENERGY r) = s.reg (R.PWR_ENERGY r) + BitVec.ofNat 64 (uj.getD r 0) := by
  have apart : R.PWR_ENERGY r ≠ R.THERM_STAT ∧ R.PWR_ENERGY r ≠ R.THERM_IRQ := by
    simp only [R.PWR_ENERGY, R.THERM_STAT, R.THERM_IRQ]
    omega
  rw [energyStep_eq, reg_currentSteps amps apart.1 apart.2, reg_energySteps uj hr]

theorem currentShows_energyStep {q : Nat} (hq : q < 4) (uj amps : List Nat) :
    CurrentShows s (energyStep s uj amps) q (amps.getD q 0) (s.fld (R.PWR_ILIM q) F.PWR_ILIM_AMPS) := by
  have apart : ∀ r, r < 12 → R.PWR_ILIM q ≠ R.PWR_ENERGY r ∧ R.THERM_STAT ≠ R.PWR_ENERGY r := by
    simp only [R.PWR_ILIM, R.PWR_ENERGY, R.THERM_STAT]
    omega
  obtain ⟨reg, power⟩ := energySteps_keeps (s := s) uj
  obtain ⟨above, below⟩ := currentShows_currentSteps hq amps (energySteps s uj)
  have lim := State.fld_congr F.PWR_ILIM_AMPS (reg _ fun r hr => (apart r hr).1)
  rw [State.fld_congr _ (reg _ fun r hr => (apart r hr).2), power, lim] at below
  exact ⟨lim ▸ above, below⟩

/-! ### Voltage and process monitors (R595, R597, R605) -/

theorem voltFields_apart : Apart F.MON_VOLT_V F.MON_VOLT_MIN ∧ Apart F.MON_VOLT_V F.MON_VOLT_MAX ∧ Apart F.MON_VOLT_MIN F.MON_VOLT_MAX ∧
    Apart F.MON_VOLT_RAIL F.MON_VOLT_V ∧ Apart F.MON_VOLT_RAIL F.MON_VOLT_MIN ∧ Apart F.MON_VOLT_RAIL F.MON_VOLT_MAX := by
  simp only [Apart, F.MON_VOLT_V, F.MON_VOLT_MIN, F.MON_VOLT_MAX, F.MON_VOLT_RAIL]
  omega

/-- A monitor's register after reading `v`. -/
def voltWord (v : Nat) (w : Word) : Word :=
  putF (putF (putF w F.MON_VOLT_V v) F.MON_VOLT_MIN (min v (getF w F.MON_VOLT_MIN))) F.MON_VOLT_MAX (max v (getF w F.MON_VOLT_MAX))

theorem voltWord_fields (w : Word) {v : Nat} (hv : v < 2 ^ 16) :
    getF (voltWord v w) F.MON_VOLT_V = v ∧ getF (voltWord v w) F.MON_VOLT_MIN = min v (getF w F.MON_VOLT_MIN) ∧
      getF (voltWord v w) F.MON_VOLT_MAX = max v (getF w F.MON_VOLT_MAX) ∧ getF (voltWord v w) F.MON_VOLT_RAIL = getF w F.MON_VOLT_RAIL := by
  obtain ⟨vMin, vMax, minMax, railV, railMin, railMax⟩ := voltFields_apart
  have hV : F.MON_VOLT_V.hi < 64 := by decide
  have hMin : F.MON_VOLT_MIN.hi < 64 := by decide
  have hMax : F.MON_VOLT_MAX.hi < 64 := by decide
  have low : min v (getF w F.MON_VOLT_MIN) < 2 ^ 16 := Nat.lt_of_le_of_lt (min_le_left _ _) hv
  have high : max v (getF w F.MON_VOLT_MAX) < 2 ^ 16 := max_lt hv (getF_lt _ F.MON_VOLT_MAX)
  unfold voltWord
  refine ⟨?_, ?_, getF_putF hMax high, ?_⟩
  · rw [getF_putF_of_apart hMax vMax, getF_putF_of_apart hMin vMin, getF_putF hV hv]
  · rw [getF_putF_of_apart hMax minMax, getF_putF hMin low]
  · rw [getF_putF_of_apart hMax railMax, getF_putF_of_apart hMin railMin, getF_putF_of_apart hV railV]

/-- The reading `v` of a monitor lies outside the tolerance of the monitor's rail. -/
def voltOutside (s : State) (j v : Nat) : Bool :=
  outside v (railSpec s (s.fld (R.MON_VOLT j) F.MON_VOLT_RAIL)).1 (railSpec s (s.fld (R.MON_VOLT j) F.MON_VOLT_RAIL)).2

/-- Monitor `j` with reading `v`, before the reading is judged. -/
def voltShown (s : State) (j v : Nat) : State :=
  let r := R.MON_VOLT j
  let s := s.setFld r F.MON_VOLT_V v
  let s := s.setFld r F.MON_VOLT_MIN (min v (s.fld r F.MON_VOLT_MIN))
  s.setFld r F.MON_VOLT_MAX (max v (s.fld r F.MON_VOLT_MAX))

theorem voltStep_eq (s : State) (j v : Nat) :
    voltStep s j v =
      if voltOutside (voltShown s j v) j v then thermEvent ((voltShown s j v).bump R.MON_VEXCCNT 1) 4 else voltShown s j v := rfl

theorem reg_voltShown_self (j v : Nat) : (voltShown s j v).reg (R.MON_VOLT j) = voltWord v (s.reg (R.MON_VOLT j)) := by
  obtain ⟨-, vMax, minMax, -⟩ := voltFields_apart
  obtain ⟨vMin, -⟩ := voltFields_apart
  have hV : F.MON_VOLT_V.hi < 64 := by decide
  have hMin : F.MON_VOLT_MIN.hi < 64 := by decide
  unfold voltShown voltWord
  dsimp only
  rw [State.reg_setFld_self, State.reg_setFld_self, State.reg_setFld_self, State.fld_setFld_of_apart hMin minMax.symm,
    State.fld_setFld_of_apart hV vMax.symm, State.fld_setFld_of_apart hV vMin.symm, State.fld, State.fld]

theorem reg_voltShown_of_ne {j o : Nat} (v : Nat) (h : o ≠ R.MON_VOLT j) : (voltShown s j v).reg o = s.reg o := by
  unfold voltShown
  dsimp only
  rw [State.reg_setFld_of_ne h, State.reg_setFld_of_ne h, State.reg_setFld_of_ne h]

theorem eventKeeps_voltStep (j v : Nat) : EventKeeps s (voltStep s j v) := by
  have shown : EventKeeps s (voltShown s j v) := ((eventKeeps_setFld _ _ _).trans (eventKeeps_setFld _ _ _)).trans (eventKeeps_setFld _ _ _)
  rw [voltStep_eq]
  split
  · exact (shown.trans (eventKeeps_setReg _ _)).trans (eventKeeps_thermEvent 4)
  · exact shown

/-- No monitor's register is one in which its reading is judged and counted. -/
theorem volt_ne {j : Nat} (hj : j < 96) :
    R.MON_VOLT j ≠ R.THERM_IRQ ∧ R.MON_VOLT j ≠ R.MON_VEXCCNT ∧ ∀ q, q < 4 → R.PWR_QFREQ q ≠ R.MON_VOLT j := by
  refine ⟨?_, ?_, fun q hq => ?_⟩ <;> simp only [R.MON_VOLT, R.THERM_IRQ, R.MON_VEXCCNT, R.PWR_QFREQ] <;> omega

/-- What a reading is judged by stands: the monitors' rails, and the voltages requested for the core rails. -/
structure RailsKept (s u : State) : Prop where
  qfreq : ∀ q, q < 4 → u.reg (R.PWR_QFREQ q) = s.reg (R.PWR_QFREQ q)
  rail : ∀ j, j < 96 → u.fld (R.MON_VOLT j) F.MON_VOLT_RAIL = s.fld (R.MON_VOLT j) F.MON_VOLT_RAIL

theorem RailsKept.refl (s : State) : RailsKept s s := ⟨fun _ _ => rfl, fun _ _ => rfl⟩
theorem RailsKept.trans (h : RailsKept s t) (k : RailsKept t u) : RailsKept s u :=
  ⟨fun q hq => (k.qfreq q hq).trans (h.qfreq q hq), fun j hj => (k.rail j hj).trans (h.rail j hj)⟩

theorem RailsKept.outside (h : RailsKept s u) {j : Nat} (hj : j < 96) (v : Nat) : voltOutside u j v = voltOutside s j v := by
  have spec : ∀ r, railSpec u r = railSpec s r := by
    intro r
    unfold railSpec
    split
    next hr => rw [State.fld_congr _ (h.qfreq r hr)]
    next => rfl
  rw [voltOutside, voltOutside, h.rail j hj, spec]

theorem railsKept_voltShown {j : Nat} (hj : j < 96) {v : Nat} (hv : v < 2 ^ 16) : RailsKept s (voltShown s j v) := by
  refine ⟨fun q hq => reg_voltShown_of_ne v ((volt_ne hj).2.2 q hq), fun i hi => ?_⟩
  by_cases h : R.MON_VOLT i = R.MON_VOLT j
  · rw [h, State.fld, reg_voltShown_self, (voltWord_fields _ hv).2.2.2, State.fld]
  · exact State.fld_congr _ (reg_voltShown_of_ne v h)

theorem reg_voltStep {o : Nat} (j v : Nat) (h1 : o ≠ R.THERM_IRQ) (h2 : o ≠ R.MON_VEXCCNT) :
    (voltStep s j v).reg o = (voltShown s j v).reg o := by
  rw [voltStep_eq]
  split
  · rw [reg_thermEvent_of_ne h1, State.reg_bump_of_ne h2]
  · rfl

theorem railsKept_voltStep {j : Nat} (hj : j < 96) {v : Nat} (hv : v < 2 ^ 16) : RailsKept s (voltStep s j v) := by
  have qfreq : ∀ q, q < 4 → R.PWR_QFREQ q ≠ R.THERM_IRQ ∧ R.PWR_QFREQ q ≠ R.MON_VEXCCNT := by
    simp only [R.PWR_QFREQ, R.THERM_IRQ, R.MON_VEXCCNT]
    omega
  refine (railsKept_voltShown hj hv).trans ⟨fun q hq => reg_voltStep j v (qfreq q hq).1 (qfreq q hq).2, fun i hi => ?_⟩
  exact State.fld_congr _ (reg_voltStep j v (volt_ne hi).1 (volt_ne hi).2.1)

theorem vexccnt_voltStep {j : Nat} (hj : j < 96) {v : Nat} (hv : v < 2 ^ 16) :
    (voltStep s j v).reg R.MON_VEXCCNT = s.reg R.MON_VEXCCNT + BitVec.ofNat 64 (if voltOutside s j v then 1 else 0) := by
  have shown : (voltShown s j v).reg R.MON_VEXCCNT = s.reg R.MON_VEXCCNT := reg_voltShown_of_ne v (volt_ne hj).2.1.symm
  rw [voltStep_eq, (railsKept_voltShown hj hv).outside hj]
  split
  · rw [reg_thermEvent_of_ne (by decide), State.reg_bump_self, shown]
  · rw [shown, BitVec.add_zero]

/-! #### All monitors -/

def voltAt (mv : List (BitVec 16)) (s : State) (j : Nat) : State :=
  match mv[j]? with
  | some v => voltStep s j v.toNat
  | none => s
def procAt (proc : List (BitVec 24)) (s : State) (k : Nat) : State :=
  match proc[k]? with
  | some c => s.setFld (R.MON_PROC k) F.MON_PROC_COUNT c.toNat
  | none => s
def outsideAt (s : State) (mv : List (BitVec 16)) (j : Nat) : Bool :=
  match mv[j]? with
  | some v => voltOutside s j v.toNat
  | none => false
def voltSteps (s : State) (mv : List (BitVec 16)) : State := (List.range 96).foldl (voltAt mv) s
def procSteps (s : State) (proc : List (BitVec 24)) : State := (List.range 48).foldl (procAt proc) s

theorem monitorStep_eq (s : State) (mv : List (BitVec 16)) (proc : List (BitVec 24)) :
    monitorStep s mv proc = procSteps (voltSteps s mv) proc := rfl

variable {mv : List (BitVec 16)} {proc : List (BitVec 24)}

theorem voltAt_some {j : Nat} {v : BitVec 16} (h : mv[j]? = some v) (s : State) : voltAt mv s j = voltStep s j v.toNat := by
  rw [voltAt, h]
theorem voltAt_none {j : Nat} (h : mv[j]? = none) (s : State) : voltAt mv s j = s := by
  rw [voltAt, h]

theorem eventKeeps_voltAt (j : Nat) : EventKeeps s (voltAt mv s j) := by
  unfold voltAt
  split
  · exact eventKeeps_voltStep _ _
  · exact .refl s

theorem reg_voltAt_of_ne {j o : Nat} (h1 : o ≠ R.THERM_IRQ) (h2 : o ≠ R.MON_VEXCCNT) (h : o ≠ R.MON_VOLT j) :
    (voltAt mv s j).reg o = s.reg o := by
  unfold voltAt
  split
  · rw [reg_voltStep _ _ h1 h2, reg_voltShown_of_ne _ h]
  · rfl

/-- After the first `n` monitors, the readings outside their tolerance have been counted. -/
theorem vexccnt_voltSteps (n : Nat) (hn : n ≤ 96) :
    RailsKept s ((List.range n).foldl (voltAt mv) s) ∧ ((List.range n).foldl (voltAt mv) s).reg R.MON_VEXCCNT =
      s.reg R.MON_VEXCCNT + BitVec.ofNat 64 ((List.range n).countP (outsideAt s mv)) := by
  induction n with
  | zero => exact ⟨.refl s, (BitVec.add_zero _).symm⟩
  | succ n ih =>
    obtain ⟨kept, count⟩ := ih (by omega)
    have hlt : n < 96 := by omega
    rw [List.range_succ, List.foldl_append, List.foldl_cons, List.foldl_nil, List.countP_append, List.countP_singleton]
    generalize (List.range n).foldl (voltAt mv) s = z at kept count
    cases hv : mv[n]? with
    | none =>
      have judged : outsideAt s mv n = false := by rw [outsideAt, hv]
      rw [voltAt_none hv, judged]
      exact ⟨kept, count⟩
    | some v =>
      have judged : outsideAt s mv n = voltOutside s n v.toNat := by rw [outsideAt, hv]
      rw [voltAt_some hv, judged, vexccnt_voltStep hlt v.isLt, kept.outside hlt, count, BitVec.ofNat_add, BitVec.add_assoc]
      exact ⟨kept.trans (railsKept_voltStep hlt v.isLt), rfl⟩

theorem reg_voltSteps {j : Nat} (hj : j < 96) :
    (voltSteps s mv).reg (R.MON_VOLT j) = mv[j]?.elim (s.reg (R.MON_VOLT j)) (fun v => voltWord v.toNat (s.reg (R.MON_VOLT j))) := by
  have apart : ∀ i, i ≠ j → R.MON_VOLT j ≠ R.MON_VOLT i := by
    simp only [R.MON_VOLT]
    omega
  obtain ⟨notIrq, notCount, -⟩ := volt_ne hj
  obtain ⟨z, before, after⟩ := foldl_range_around (Keeps := fun s u : State => u.reg (R.MON_VOLT j) = s.reg (R.MON_VOLT j))
    (fun _ => rfl) (fun h k => k.trans h) (f := voltAt mv) (fun z i _ hi => reg_voltAt_of_ne notIrq notCount (apart i hi)) hj s
  rw [voltSteps, after, ← before]
  cases hv : mv[j]? with
  | none => rw [voltAt_none hv, Option.elim_none]
  | some v => rw [voltAt_some hv, reg_voltStep _ _ notIrq notCount, reg_voltShown_self, Option.elim_some]

theorem reg_procAt_of_ne {k o : Nat} (h : o ≠ R.MON_PROC k) : (procAt proc s k).reg o = s.reg o := by
  unfold procAt
  split
  · exact State.reg_setFld_of_ne h
  · rfl

theorem reg_procSteps_of_ne {o : Nat} (h : ∀ k, k < 48 → o ≠ R.MON_PROC k) : (procSteps s proc).reg o = s.reg o :=
  List.foldlRecOn (motive := fun u : State => u.reg o = s.reg o) _ _ rfl fun _ hz k hk =>
    (reg_procAt_of_ne (h k (List.mem_range.mp hk))).trans hz

theorem count_procSteps {k : Nat} (hk : k < 48) {c : BitVec 24} (hc : proc[k]? = some c) :
    (procSteps s proc).fld (R.MON_PROC k) F.MON_PROC_COUNT = c.toNat := by
  have apart : ∀ i, i ≠ k → R.MON_PROC k ≠ R.MON_PROC i := by
    simp only [R.MON_PROC]
    omega
  obtain ⟨z, -, after⟩ := foldl_range_around (Keeps := fun s u : State => u.reg (R.MON_PROC k) = s.reg (R.MON_PROC k))
    (fun _ => rfl) (fun h k => k.trans h) (f := procAt proc) (fun z i _ hi => reg_procAt_of_ne (apart i hi)) hk s
  have fits : c.toNat < 2 ^ (F.MON_PROC_COUNT.hi + 1 - F.MON_PROC_COUNT.lo) := c.isLt
  rw [procSteps, State.fld_congr _ after, procAt, hc]
  exact State.fld_setFld_self (by decide) fits

theorem eventKeeps_procAt (k : Nat) : EventKeeps s (procAt proc s k) := by
  unfold procAt
  split
  · exact eventKeeps_setFld _ _ _
  · exact .refl s

theorem eventKeeps_monitorStep : EventKeeps s (monitorStep s mv proc) := by
  have volts : EventKeeps s (voltSteps s mv) :=
    List.foldlRecOn (motive := EventKeeps s) _ _ (.refl s) fun _ hz j _ => hz.trans (eventKeeps_voltAt j)
  rw [monitorStep_eq]
  exact List.foldlRecOn (motive := EventKeeps s) _ _ volts fun _ hz k _ => hz.trans (eventKeeps_procAt k)

/-- The monitors' registers and the counter lie apart from those of the oscillators. -/
theorem proc_ne : (∀ j, j < 96 → ∀ k, k < 48 → R.MON_VOLT j ≠ R.MON_PROC k) ∧ ∀ k, k < 48 → R.MON_VEXCCNT ≠ R.MON_PROC k := by
  simp only [R.MON_VOLT, R.MON_PROC, R.MON_VEXCCNT]
  exact ⟨fun j hj k hk => by omega, fun k hk => by omega⟩

theorem reg_monitorStep {j : Nat} (hj : j < 96) :
    (monitorStep s mv proc).reg (R.MON_VOLT j) = mv[j]?.elim (s.reg (R.MON_VOLT j)) (fun v => voltWord v.toNat (s.reg (R.MON_VOLT j))) := by
  rw [monitorStep_eq, reg_procSteps_of_ne (proc_ne.1 j hj), reg_voltSteps hj]

theorem vexccnt_monitorStep :
    (monitorStep s mv proc).reg R.MON_VEXCCNT = s.reg R.MON_VEXCCNT + BitVec.ofNat 64 ((List.range 96).countP (outsideAt s mv)) := by
  rw [monitorStep_eq, reg_procSteps_of_ne proc_ne.2]
  exact (vexccnt_voltSteps 96 (Nat.le_refl _)).2

end

section
variable {s : State} {q : Nat}

/-! ### The switch at an edge (R593, R594, R600, R601) -/

theorem getElem_quadNo {α : Type} (v : Vector α 4) (q : Fin 4) : v[quadNo q.val] = v[q] :=
  congrArg (fun i : Fin 4 => v[i]) (Fin.ext (Nat.mod_eq_of_lt q.isLt))

/-- The lowest limit governs, and of equal ones that of the lowest code. -/
theorem limited_eq (fmax cap therm : Nat) :
    limited fmax cap therm = (min fmax (min cap therm), if fmax ≤ cap ∧ fmax ≤ therm then 1 else if cap ≤ therm then 2 else 3) := by
  unfold limited
  split_ifs <;> refine Prod.ext ?_ rfl <;> dsimp only <;> omega

theorem thermNext_eq (s : State) (q : Nat) :
    thermNext s q = if quadLevel s q = 0 then min 84 (s.power.thermLim[quadNo q] + stepUp s)
      else if quadLevel s q = 2 then max 32 (s.power.thermLim[quadNo q] - stepDn s) else s.power.thermLim[quadNo q] := by
  unfold thermNext
  dsimp only
  split
  next h => rw [if_pos h]
  next h => rw [h, if_neg (by decide), if_pos rfl]
  next h0 h2 => rw [if_neg h0, if_neg h2]

theorem qfreqFields_apart : Apart F.PWR_QFREQ_LIM F.PWR_QFREQ_FCUR ∧ Apart F.PWR_QFREQ_LIM F.PWR_QFREQ_VCUR ∧
    Apart F.PWR_QFREQ_FCUR F.PWR_QFREQ_VCUR := by
  simp only [Apart, F.PWR_QFREQ_LIM, F.PWR_QFREQ_FCUR, F.PWR_QFREQ_VCUR]
  omega

theorem foldl_emit_keeps {α : Type} (o : Out) (l : List α) (s : State) :
    (l.foldl (fun z _ => z.emit o) s).regs = s.regs ∧ (l.foldl (fun z _ => z.emit o) s).power = s.power :=
  List.foldlRecOn (motive := fun u : State => u.regs = s.regs ∧ u.power = s.power) l _ ⟨rfl, rfl⟩ fun _ hz _ _ => hz

/-- A SET of a rail moves no frequency and no limit. -/
theorem setRail_keeps (s : State) (q mv : Nat) (ack : Bool) :
    (setRail s q mv ack).power.thermLim = s.power.thermLim ∧
      ∀ f, Apart f F.PWR_QFREQ_VCUR → (setRail s q mv ack).fld (R.PWR_QFREQ q) f = s.fld (R.PWR_QFREQ q) f := by
  unfold setRail
  split
  · exact ⟨rfl, fun _ _ => rfl⟩
  · split
    · obtain ⟨regs, power⟩ := foldl_emit_keeps (.voltage (setFrame q mv)) (List.replicate 4 ()) s
      exact ⟨congrArg Power.thermLim power, fun f _ => State.fld_congr f (congrArg (SMap.get 0 · (R.PWR_QFREQ q)) regs)⟩
    · refine ⟨rfl, fun f hf => ?_⟩
      rw [State.fld, State.reg_emit]
      exact State.fld_setFld_of_apart (s := s.updPower _) (by decide) hf

/-- Quadrant `q` goes from frequency `cur` to `f`, where its voltage allows the rise. -/
def moveFreq (s : State) (q cur f : Nat) : State :=
  if cur < f then
    if vMin s f ≤ railAt (s.power.rails[quadNo q]) (s.now.toNat - 100) then s.setFld (R.PWR_QFREQ q) F.PWR_QFREQ_FCUR f else s
  else if f < cur then
    setRail (s.freeWord.1.setFld (R.PWR_QFREQ q) F.PWR_QFREQ_FCUR f) q (vMin s.freeWord.1 f) (bit s.freeWord.2 0)
  else s
def clearThrottle (s : State) (q : Nat) : State :=
  if quadLevel s q ≠ 3 ∧ !s.power.overAmps[quadNo q] then s.setFld R.THERM_STAT (throttleField q) 0 else s
def stepThermLim (s : State) (q : Nat) : State := s.updPower (fun p => { p with thermLim := p.thermLim.set (quadNo q) (thermNext s q) })
/-- The frequency that quadrant `q` may have, and the code of the limit that governs. -/
def allowed (s : State) (q : Nat) : Nat × Nat := limited (s.fld (R.PWR_QFREQ q) F.PWR_QFREQ_FMAX) s.power.capLim (thermNext s q)

theorem thermLim_stepThermLim (s : State) (q : Nat) : (stepThermLim s q).power.thermLim[quadNo q] = thermNext s q :=
  Vector.getElem_set_self (quadNo q).isLt

theorem switchQuad_eq (s : State) (q : Nat) :
    switchQuad s q = clearThrottle (moveFreq ((stepThermLim s q).setFld (R.PWR_QFREQ q) F.PWR_QFREQ_LIM (allowed s q).2) q
      (s.fld (R.PWR_QFREQ q) F.PWR_QFREQ_FCUR) (allowed s q).1) q := by
  rw [allowed, ← thermLim_stepThermLim s q]
  rfl

theorem moveFreq_keeps (s : State) (q cur f : Nat) :
    (moveFreq s q cur f).power.thermLim = s.power.thermLim ∧
      (moveFreq s q cur f).fld (R.PWR_QFREQ q) F.PWR_QFREQ_LIM = s.fld (R.PWR_QFREQ q) F.PWR_QFREQ_LIM := by
  obtain ⟨limFcur, limVcur, -⟩ := qfreqFields_apart
  have hF : F.PWR_QFREQ_FCUR.hi < 64 := by decide
  unfold moveFreq
  split
  · split
    · exact ⟨rfl, State.fld_setFld_of_apart hF limFcur⟩
    · exact ⟨rfl, rfl⟩
  · split
    · exact ⟨(setRail_keeps _ _ _ _).1, ((setRail_keeps _ _ _ _).2 _ limVcur).trans (State.fld_setFld_of_apart hF limFcur)⟩
    · exact ⟨rfl, rfl⟩

/-- A fall takes effect at the edge. -/
theorem fcur_moveFreq {cur f : Nat} (h : f < cur) (hcur : cur < 2 ^ 7) : (moveFreq s q cur f).fld (R.PWR_QFREQ q) F.PWR_QFREQ_FCUR = f := by
  rw [moveFreq, if_neg (Nat.lt_asymm h), if_pos h, (setRail_keeps _ _ _ _).2 _ qfreqFields_apart.2.2]
  exact State.fld_setFld_self (by decide) (Nat.lt_trans h hcur)

theorem clearThrottle_keeps (s : State) (hq : q < 4) :
    (clearThrottle s q).power = s.power ∧ ∀ f, (clearThrottle s q).fld (R.PWR_QFREQ q) f = s.fld (R.PWR_QFREQ q) f := by
  have apart : R.PWR_QFREQ q ≠ R.THERM_STAT := by
    simp only [R.PWR_QFREQ, R.THERM_STAT]
    omega
  unfold clearThrottle
  split
  · exact ⟨rfl, fun f => State.fld_congr f (State.reg_setFld_of_ne apart)⟩
  · exact ⟨rfl, fun _ => rfl⟩

theorem thermLim_switchQuad (s : State) (hq : q < 4) : (switchQuad s q).power.thermLim[quadNo q] = thermNext s q := by
  rw [switchQuad_eq, (clearThrottle_keeps _ hq).1, (moveFreq_keeps _ _ _ _).1]
  exact thermLim_stepThermLim s q

theorem lim_switchQuad (s : State) (hq : q < 4) : (switchQuad s q).fld (R.PWR_QFREQ q) F.PWR_QFREQ_LIM = (allowed s q).2 := by
  have fits : (allowed s q).2 < 8 := by
    rw [allowed, limited_eq]
    dsimp only
    split_ifs <;> decide
  rw [switchQuad_eq, (clearThrottle_keeps _ hq).2, (moveFreq_keeps _ _ _ _).2]
  exact State.fld_setFld_self (by decide) fits

theorem fcur_switchQuad (hq : q < 4) (h : (allowed s q).1 < s.fld (R.PWR_QFREQ q) F.PWR_QFREQ_FCUR) :
    (switchQuad s q).fld (R.PWR_QFREQ q) F.PWR_QFREQ_FCUR = (allowed s q).1 := by
  rw [switchQuad_eq, (clearThrottle_keeps _ hq).2, fcur_moveFreq h (getF_lt _ F.PWR_QFREQ_FCUR)]

/-! ### The levels' table (R600), and the commands -/

theorem dieLevel_spec {w h c l t : Nat} (hwh : w ≤ h) (hhc : h ≤ c) :
    (c ≤ t → dieLevel w h c l t = 3) ∧ (t < c → h ≤ t → 3 ≤ l → dieLevel w h c l t = 3) ∧
    (t < c → h ≤ t → l ≤ 2 → dieLevel w h c l t = 2) ∧
    (t < h → h < t + 12 → l = 2 → dieLevel w h c l t = 2) ∧
    (t < h → w ≤ t → l ≤ 1 → dieLevel w h c l t = 1) ∧ (t < h → t < w → w < t + 12 → l = 1 → dieLevel w h c l t = 1) ∧
    (t < w → l = 0 → dieLevel w h c l t = 0) ∧ (t + 12 ≤ w → l ≤ 2 → dieLevel w h c l t = 0) := by
  match l with
  | 0 => simp only [dieLevel_normal]; grind
  | 1 => simp only [dieLevel_warm]; grind
  | 2 => simp only [dieLevel_hot]; grind
  | l + 3 => simp only [dieLevel_critical]; grind

theorem trips_eq_true {i : Nat} : trips s i = true ↔ s.flag (R.MON_DIETEMP i) F.MON_DIETEMP_FAIL = false ∧
    460 ≤ s.fld (R.MON_DIETEMP i) F.MON_DIETEMP_TEMP := by
  rw [trips, Bool.and_eq_true, Bool.not_eq_true', decide_eq_true_iff]

theorem trips_eq_false {i : Nat} : trips s i = false ↔
    (s.flag (R.MON_DIETEMP i) F.MON_DIETEMP_FAIL = false → s.fld (R.MON_DIETEMP i) F.MON_DIETEMP_TEMP < 460) := by
  rw [← Bool.not_eq_true, trips_eq_true, not_and, Nat.not_le]

theorem powered_of_alive (hs : s.dead = false) (f : State → State) : powered s f = .next (settle (f s)) := by
  rw [powered, hs, if_neg Bool.false_ne_true, done]

theorem exec_dieTempSample (hs : s.dead = false) (temps : List (Option (BitVec 10))) :
    exec (.dieTempSample temps) s = .next (settle (dieSample s temps)) := powered_of_alive hs (fun s => dieSample s temps)
theorem exec_energyUpdate (hs : s.dead = false) (uj amps : List Nat) :
    exec (.energyUpdate uj amps) s = .next (settle (energyStep s uj amps)) := powered_of_alive hs (fun s => energyStep s uj amps)
theorem exec_monitorSample (hs : s.dead = false) (mv : List (BitVec 16)) (proc : List (BitVec 24)) :
    exec (.monitorSample mv proc) s = .next (settle (monitorStep s mv proc)) := powered_of_alive hs (fun s => monitorStep s mv proc)

theorem not_tripped_of_alive (hs : s.dead = false) : s.power.tripped = false := by
  rw [State.dead, Bool.or_eq_false_iff] at hs
  exact hs.1

end

end Sys2Proof.Machine

namespace Sys2Proof.Claims
open Sys2Proof Sys2Proof.Machine Sys2Proof.Safety

/-- Settles O53: each part is what its step's stages leave; a sample shows each sensor and each quadrant before it can trip. -/
theorem powerAndTemperature : Obligations.PowerAndTemperature := by
  unfold Obligations.PowerAndTemperature
  intro s failed temp throttled
  refine ⟨?sample, ?levels, ?energy, ?monitors, ?edge⟩
  case sample =>
    intro hs temps
    refine ⟨dieSample s temps, exec_dieTempSample hs temps, fun i hi => sensorRead_dieSample temps hi, fun q hq => ?_, fun cool => ?_,
      fun i hi valid hot first => ?_⟩
    · obtain ⟨shown, held, hot, level, throttle, event⟩ := quadShows_dieSample (s := s) temps hq
      exact ⟨shown, held, hot, level, throttle, event⟩
    · exact dieSample_cool temps (not_tripped_of_alive hs) fun i hi => trips_eq_false.mpr (cool i hi)
    · exact dieSample_trips temps (not_tripped_of_alive hs) hi (trips_eq_true.mpr ⟨valid, hot⟩) fun j hj =>
        trips_eq_false.mpr fun h => (first j hj).resolve_left (Bool.eq_false_iff.mp h)
  case levels => exact fun w h c l t => dieLevel_spec
  case energy =>
    intro hs uj amps
    refine ⟨energyStep s uj amps, exec_energyUpdate hs uj amps, fun r hr => energy_energyStep uj amps hr, fun q => ?_⟩
    obtain ⟨above, below⟩ := currentShows_energyStep (s := s) q.isLt uj amps
    rw [getElem_quadNo] at above
    rw [getElem_quadNo, getElem_quadNo] at below
    exact ⟨above, below⟩
  case monitors =>
    intro hs mv proc
    refine ⟨monitorStep s mv proc, exec_monitorSample hs mv proc, fun j v hj hv => ?_, fun j hj hv => ?_, ?_, fun k c hk hc => ?_,
      eventKeeps_monitorStep.sameMem⟩
    · have shown : (monitorStep s mv proc).reg (R.MON_VOLT j) = voltWord v.toNat (s.reg (R.MON_VOLT j)) := by
        rw [reg_monitorStep hj, hv, Option.elim_some]
      obtain ⟨hV, hMin, hMax, -⟩ := voltWord_fields (s.reg (R.MON_VOLT j)) v.isLt
      exact ⟨(congrArg (getF · _) shown).trans hV, (congrArg (getF · _) shown).trans hMin, (congrArg (getF · _) shown).trans hMax⟩
    · rw [reg_monitorStep hj, hv, Option.elim_none]
    · refine vexccnt_monitorStep.trans (congrArg (fun n => s.reg R.MON_VEXCCNT + BitVec.ofNat 64 n) (List.countP_congr fun j _ => ?_))
      rw [outsideAt]
      cases mv[j]? <;> rfl
    · rw [monitorStep_eq]
      exact count_procSteps hk hc
  case edge =>
    intro q u fmax lim
    have hlim : lim = thermNext s q := (getElem_quadNo _ q).symm.trans (thermLim_switchQuad s q.isLt)
    have hallowed : allowed s q =
        (min fmax (min s.power.capLim lim), if fmax ≤ s.power.capLim ∧ fmax ≤ lim then 1 else if s.power.capLim ≤ lim then 2 else 3) := by
      rw [hlim]
      exact limited_eq _ _ _
    refine ⟨?_, ?_, fun h => ?_⟩
    · rw [hlim, thermNext_eq, getElem_quadNo]
    · exact (lim_switchQuad s q.isLt).trans (congrArg Prod.snd hallowed)
    · have hfall : (allowed s q).1 < s.fld (R.PWR_QFREQ q) F.PWR_QFREQ_FCUR := by rw [hallowed]; exact h
      exact (fcur_switchQuad q.isLt hfall).trans (congrArg Prod.fst hallowed)

end Sys2Proof.Claims
